-- ==== Sys2Proof/Word.lean ====
section
/-! DEFINITION. The word types of R12, the bit numbering of R10, and the two plain containers the state uses: a list of
(key, value) pairs read with a default, and a list of lane values. -/

namespace Sys2Proof

abbrev Byte := BitVec 8
abbrev Half := BitVec 16
abbrev Word := BitVec 32
abbrev DWord := BitVec 64
/-- One bit per lane of a group (R240): bit L stands for lane L. -/
abbrev Mask := BitVec 96
/-- A 7-bit operand code (R80). -/
abbrev Code := BitVec 7

/-- A finite table keyed by numbers: absent keys read as the default the reader names. -/
abbrev Map (α : Type) := List (Nat × α)

/-- The entry of key `k`, if the table has one. -/
def Map.find? {α : Type} : Map α → Nat → Option α
  | [], _ => none
  | (j, x) :: m, k => if k = j then some x else Map.find? m k

/-- The value of key `k`, `d` when absent. -/
def Map.get {α : Type} (d : α) (m : Map α) (k : Nat) : α := (Map.find? m k).getD d

/-- Writes `x` at key `k`, keeping keys in rising order. -/
def Map.put {α : Type} : Map α → Nat → α → Map α
  | [], k, x => [(k, x)]
  | (j, y) :: m, k, x =>
    if k < j then (k, x) :: (j, y) :: m
    else if k = j then (k, x) :: m
    else (j, y) :: Map.put m k x

/-- Removes key `k`. -/
def Map.del {α : Type} (m : Map α) (k : Nat) : Map α := m.filter (fun p => p.1 != k)

/-- The keys of a table. -/
def Map.keys {α : Type} (m : Map α) : List Nat := m.map Prod.fst

/-- The list f 0, f 1, ..., f (n - 1). -/
def tab {α : Type} (n : Nat) (f : Nat → α) : List α := (List.range n).map f

/-- The lane value `L` of a lane list; 0 for a lane that was never written. -/
def laneGet (v : List Word) (L : Nat) : Word := v.getD L 0

/-- Bit `L` of a mask. -/
abbrev bitOf (m : Mask) (L : Nat) : Bool := m.getLsbD L

/-- The mask whose bit L is `f L`. -/
def maskOf (f : Nat → Bool) : Mask :=
  (List.range 96).foldl (fun m L => if f L then m ||| (1#96 <<< L) else m) 0#96

/-- The lanes of a mask in ascending order. -/
def lanesOf (m : Mask) : List Nat := (List.range 96).filter (fun L => m.getLsbD L)

/-- Number of lanes in a mask. -/
def popMask (m : Mask) : Nat := (lanesOf m).length

/-- The lowest lane of a mask. -/
def lowLane? (m : Mask) : Option Nat := (lanesOf m).head?

/-- Ceiling division. -/
def ceilDiv (a b : Nat) : Nat := (a + b - 1) / b

/-- The n little-endian bytes of x (R10). -/
def toBytes (n x : Nat) : List Byte := tab n (fun i => BitVec.ofNat 8 (x >>> (8 * i)))

/-- The number whose little-endian bytes are given (R10). -/
def ofBytes : List Byte → Nat
  | [] => 0
  | b :: bs => b.toNat + 256 * ofBytes bs

end Sys2Proof
end

