-- ==== Sys2Proof/Syntax.lean ====
section
/-! DEFINITION. The syntax: an instruction word taken apart once into its fields (R79, R84), and one constructor for each of
the 307 rows of the opcode table, the 223 instruction forms first and then the 84 steps and events of the module. -/

namespace Sys2Proof

/-- The prefix word's fields (R84). -/
structure Prefix where
  msk  : BitVec 3
  rnd  : BitVec 3
  d4   : Code
  zero : Bool
  inv  : Bool
  sat  : Bool
  na   : Bool
  nb   : Bool
  aa   : Bool
  xl   : BitVec 4
  deriving DecidableEq, Repr

/-- The prefix every instruction without one behaves as though it had (R84, R85). -/
def Prefix.default : Prefix := ⟨0, 0, 0x60, false, false, false, false, false, false, 0⟩

/-- An instruction's fields: its prefix if it has one, the base word's VAR, DST, A and B (R79), and its literal unit if it has
one (R83). Fields are kept as the codes the word holds, because a code outside a field's row is an illegal-instruction trap at
issue (R80, R93) and not a decoding failure. -/
structure Enc where
  pfx : Option Prefix
  var : BitVec 2
  dst : Code
  a   : Code
  b   : Code
  lit : Option Word
  deriving DecidableEq, Repr

/-- The prefix in force (R85). -/
def Enc.p (e : Enc) : Prefix := e.pfx.getD Prefix.default

/-- Units the instruction occupies in the stream (R77). -/
def Enc.units (e : Enc) : Nat :=
  (if e.pfx.isSome then 1 else 0) + 1 + (if e.lit.isSome then 1 else 0)

/-- A unit in instruction position that is no instruction: an unassigned or reserved opcode (R91) with its fields, a header out
of place (R88), or a prefix before a header or a second prefix (R85). -/
inductive BadWord where
  | opcode (op : BitVec 9) (e : Enc)
  | header (u : Word)
  | prefixed (p : Prefix) (u : Word)
  deriving DecidableEq, Repr

/-- One move of racking (R312): the element with this key, tile and count goes from shard `src` to shard `dst`. -/
structure RackMove where
  src : Nat
  dst : Nat
  key : Nat
  tile : Nat
  count : Nat
  deriving DecidableEq, Repr

/-- The instructions, and the steps and events of the module: one constructor per row of the opcode table. -/
inductive Instr where
  /-- Does nothing. (R264) -/
  | nop (e : Enc)
  /-- Moves the whole fragment to the target when scalar a is zero. (R258) -/
  | brZ (e : Enc)
  /-- Moves the whole fragment to the target when scalar a is non-zero. (R258) -/
  | brNz (e : Enc)
  /-- Splits the fragment by a mask into taken and fall-through fragments, or serialises the split with a deferral record. (R259) -/
  | brv (e : Enc)
  /-- Splits the fragment into one way per distinct target of a .tab table indexed per lane. (R260) -/
  | brx (e : Enc)
  /-- Transfers the fragment unconditionally to a target given by a literal unit offset. (R261) -/
  | jmp (e : Enc)
  /-- Transfers the fragment to the code address held in a scalar. (R257) -/
  | jmpIndirect (e : Enc)
  /-- Writes the return code address to a vector register and transfers to a literal offset target. (R261) -/
  | call (e : Enc)
  /-- Writes the return code address and transfers to the code address held in a scalar. (R261) -/
  | callIndirect (e : Enc)
  /-- Transfers to the common code address held by the Contrib lanes, or takes a divergent-return trap. (R262) -/
  | ret (e : Enc)
  /-- Removes the Active lanes from the fragment and from every fusion record's expected set. (R250) -/
  | exit (e : Enc)
  /-- Makes the fragment the last issue candidate of its sector for the next 64 cycles. (R264) -/
  | yield (e : Enc)
  /-- Executes each Active lane's 32-bit lane word, distinct words in ascending order. (R268) -/
  | exlw (e : Enc)
  /-- Executes each Active lane's prefix and base word pair, distinct pairs in ascending order. (R268) -/
  | exlw2 (e : Enc)
  /-- Copies a value into a scalar. (R109) -/
  | smov (e : Enc)
  /-- Loads a sign- or zero-extended 14-bit immediate into a scalar. (R110) -/
  | sli (e : Enc)
  /-- Scalar wrapping add. (R109) -/
  | sadd (e : Enc)
  /-- Scalar wrapping subtract. (R109) -/
  | ssub (e : Enc)
  /-- Scalar wrapping multiply. (R109) -/
  | smul (e : Enc)
  /-- Scalar high word of a product. (R109) -/
  | smulh (e : Enc)
  /-- Scalar integer divide as VDIV without saturation. (R109) -/
  | sdiv (e : Enc)
  /-- Scalar integer remainder as VREM. (R109) -/
  | srem (e : Enc)
  /-- Scalar bitwise AND. (R109) -/
  | sand (e : Enc)
  /-- Scalar bitwise OR. (R109) -/
  | sor (e : Enc)
  /-- Scalar bitwise XOR. (R109) -/
  | sxor (e : Enc)
  /-- Scalar bitwise NOT. (R109) -/
  | snot (e : Enc)
  /-- Scalar shift left. (R109) -/
  | sshl (e : Enc)
  /-- Scalar logical shift right. (R109) -/
  | sshr (e : Enc)
  /-- Scalar arithmetic shift right. (R109) -/
  | ssar (e : Enc)
  /-- Scalar minimum. (R109) -/
  | smin (e : Enc)
  /-- Scalar maximum. (R109) -/
  | smax (e : Enc)
  /-- Writes 1 to a scalar if a equals b, else 0. (R109) -/
  | scmpEq (e : Enc)
  /-- Writes 1 to a scalar if a differs from b, else 0. (R109) -/
  | scmpNe (e : Enc)
  /-- Writes 1 to a scalar if a is less than b, else 0. (R109) -/
  | scmpLt (e : Enc)
  /-- Writes 1 to a scalar if a is at most b, else 0. (R109) -/
  | scmpLe (e : Enc)
  /-- Writes 1 to a scalar if a is greater than b, else 0. (R109) -/
  | scmpGt (e : Enc)
  /-- Writes 1 to a scalar if a is at least b, else 0. (R109) -/
  | scmpGe (e : Enc)
  /-- Writes a if the destination scalar is non-zero, else b. (R110) -/
  | ssel (e : Enc)
  /-- Scalar count of leading zeros. (R109) -/
  | sclz (e : Enc)
  /-- Scalar population count. (R109) -/
  | spopc (e : Enc)
  /-- Scalar bit-field extract. (R109) -/
  | sbfe (e : Enc)
  /-- Scalar bit-field insert into the destination's old value. (R110) -/
  | sbfi (e : Enc)
  /-- Copies one 32-lane beat of a mask register to a scalar. (R113) -/
  | k2s (e : Enc)
  /-- Writes a scalar into the Owned bits of one beat of a mask register. (R113) -/
  | s2k (e : Enc)
  /-- Per-lane vector move. (R102) -/
  | vmov (e : Enc)
  /-- Per-lane integer add, wrapping or saturating. (R102) -/
  | vadd (e : Enc)
  /-- Per-lane add with carry-in writing sum and carry to a register pair. (R105) -/
  | vaddc (e : Enc)
  /-- Per-lane integer subtract. (R102) -/
  | vsub (e : Enc)
  /-- Per-lane integer multiply. (R102) -/
  | vmul (e : Enc)
  /-- Per-lane high word of a 32-bit product. (R102) -/
  | vmulh (e : Enc)
  /-- Per-lane multiply-add a × b + d. (R102) -/
  | vmad (e : Enc)
  /-- Per-lane integer divide rounding toward zero. (R104) -/
  | vdiv (e : Enc)
  /-- Per-lane integer remainder. (R104) -/
  | vrem (e : Enc)
  /-- Per-lane bitwise AND. (R102) -/
  | vand (e : Enc)
  /-- Per-lane bitwise OR. (R102) -/
  | vor (e : Enc)
  /-- Per-lane bitwise XOR. (R102) -/
  | vxor (e : Enc)
  /-- Per-lane bitwise NOT. (R102) -/
  | vnot (e : Enc)
  /-- Per-lane shift left. (R103) -/
  | vshl (e : Enc)
  /-- Per-lane logical shift right. (R103) -/
  | vshr (e : Enc)
  /-- Per-lane arithmetic shift right. (R103) -/
  | vsar (e : Enc)
  /-- Per-lane integer minimum. (R102) -/
  | vmin (e : Enc)
  /-- Per-lane integer maximum. (R102) -/
  | vmax (e : Enc)
  /-- Per-lane absolute value. (R102) -/
  | vabs (e : Enc)
  /-- Per-lane negation. (R102) -/
  | vneg (e : Enc)
  /-- Sets mask bits where a equals b. (R106) -/
  | vcmpEq (e : Enc)
  /-- Sets mask bits where a differs from b. (R106) -/
  | vcmpNe (e : Enc)
  /-- Sets mask bits where a is less than b. (R106) -/
  | vcmpLt (e : Enc)
  /-- Sets mask bits where a is at most b. (R106) -/
  | vcmpLe (e : Enc)
  /-- Sets mask bits where a is greater than b. (R106) -/
  | vcmpGt (e : Enc)
  /-- Sets mask bits where a is at least b. (R106) -/
  | vcmpGe (e : Enc)
  /-- Per-lane select of a or b by the mask named in D4. (R107) -/
  | vsel (e : Enc)
  /-- Per-lane count of leading zeros. (R102) -/
  | vclz (e : Enc)
  /-- Per-lane population count. (R102) -/
  | vpopc (e : Enc)
  /-- Per-lane bit reversal. (R102) -/
  | vbrev (e : Enc)
  /-- Per-lane bit-field extract. (R103) -/
  | vbfe (e : Enc)
  /-- Per-lane bit-field insert into d. (R103) -/
  | vbfi (e : Enc)
  /-- Per-lane four-byte dot product plus d. (R108) -/
  | vdot4 (e : Enc)
  /-- Packs two 32-bit sources into two 16-bit elements. (R108) -/
  | vpack (e : Enc)
  /-- Unpacks two 16-bit elements into a register pair. (R108) -/
  | vunpk (e : Enc)
  /-- Mask AND on Owned lanes. (R112) -/
  | kand (e : Enc)
  /-- Mask OR on Owned lanes. (R112) -/
  | kor (e : Enc)
  /-- Mask XOR on Owned lanes. (R112) -/
  | kxor (e : Enc)
  /-- Mask NOT on Owned lanes. (R112) -/
  | knot (e : Enc)
  /-- Mask copy on Owned lanes. (R112) -/
  | kmov (e : Enc)
  /-- Counts the Owned non-helper lanes set in a mask into a scalar. (R112) -/
  | kpop (e : Enc)
  /-- Per-lane floating-point add rounded in the selected mode. (R125) -/
  | fadd (e : Enc)
  /-- Per-lane floating-point subtract. (R125) -/
  | fsub (e : Enc)
  /-- Per-lane floating-point multiply. (R125) -/
  | fmul (e : Enc)
  /-- Per-lane fused multiply-add rounded once. (R125) -/
  | ffma (e : Enc)
  /-- Per-lane IEEE minimumNumber. (R128) -/
  | fmin (e : Enc)
  /-- Per-lane IEEE maximumNumber. (R128) -/
  | fmax (e : Enc)
  /-- Sets mask bits where ordered and equal. (R129) -/
  | fcmpEq (e : Enc)
  /-- Sets mask bits where unordered or unequal. (R129) -/
  | fcmpNe (e : Enc)
  /-- Sets mask bits where ordered and less. (R129) -/
  | fcmpLt (e : Enc)
  /-- Sets mask bits where ordered and less or equal. (R129) -/
  | fcmpLe (e : Enc)
  /-- Sets mask bits where ordered and greater. (R129) -/
  | fcmpGt (e : Enc)
  /-- Sets mask bits where ordered and greater or equal. (R129) -/
  | fcmpGe (e : Enc)
  /-- Sets mask bits where a or b is NaN. (R129) -/
  | fcmpUn (e : Enc)
  /-- Sets mask bits where neither operand is NaN. (R129) -/
  | fcmpOr (e : Enc)
  /-- Per-lane correctly rounded reciprocal. (R130) -/
  | frcp (e : Enc)
  /-- Per-lane correctly rounded reciprocal square root. (R130) -/
  | frsq (e : Enc)
  /-- Per-lane correctly rounded square root. (R130) -/
  | fsqrt (e : Enc)
  /-- Per-lane correctly rounded division. (R130) -/
  | fdiv (e : Enc)
  /-- Per-lane correctly rounded 2^a. (R130) -/
  | fexp2 (e : Enc)
  /-- Per-lane correctly rounded log2. (R130) -/
  | flog2 (e : Enc)
  /-- Per-lane correctly rounded sine. (R130) -/
  | fsin (e : Enc)
  /-- Per-lane correctly rounded cosine. (R130) -/
  | fcos (e : Enc)
  /-- Per-lane correctly rounded tanh. (R130) -/
  | ftanh (e : Enc)
  /-- Per-lane rounding to an integral value in the same format. (R132) -/
  | frnd (e : Enc)
  /-- Per-lane float-to-float conversion. (R137) -/
  | fcvt (e : Enc)
  /-- Per-lane saturating float-to-integer conversion. (R138) -/
  | fcvti (e : Enc)
  /-- Per-lane integer-to-float conversion. (R139) -/
  | icvtf (e : Enc)
  /-- Writes the class bits of each element. (R133) -/
  | fclass (e : Enc)
  /-- Per-lane a × 2^n rounded. (R134) -/
  | fscale (e : Enc)
  /-- Per-lane two-term dot product plus binary32 d, rounded once. (R135) -/
  | fdot2 (e : Enc)
  /-- Packs binary32 values into 16-bit or FP8 elements. (R140) -/
  | fpack (e : Enc)
  /-- Encodes each beat's 32 lane values into one NX4 block. (R141) -/
  | nxenc (e : Enc)
  /-- Decodes E2M1 codes held in registers to binary32 or BF16. (R142) -/
  | nxdec (e : Enc)
  /-- Quad swizzle by a per-lane pattern. (R115) -/
  | qswz (e : Enc)
  /-- Quad broadcast of one lane. (R115) -/
  | qbc (e : Enc)
  /-- Lane shuffle by a per-lane source index. (R115) -/
  | lshf (e : Enc)
  /-- Lane rotation by n modulo 96. (R115) -/
  | lrot (e : Enc)
  /-- Broadcast of one lane's value to all lanes. (R115) -/
  | lbc (e : Enc)
  /-- Reduction by exact integer add over Contrib lanes. (R117) -/
  | lredAdd (e : Enc)
  /-- Reduction by minimum. (R117) -/
  | lredMin (e : Enc)
  /-- Reduction by maximum. (R117) -/
  | lredMax (e : Enc)
  /-- Reduction by bitwise AND. (R117) -/
  | lredAnd (e : Enc)
  /-- Reduction by bitwise OR. (R117) -/
  | lredOr (e : Enc)
  /-- Reduction by bitwise XOR. (R117) -/
  | lredXor (e : Enc)
  /-- Floating-point sum over the fixed tree. (R117) -/
  | lredFadd (e : Enc)
  /-- Floating-point minimum over the fixed tree. (R117) -/
  | lredFmin (e : Enc)
  /-- Floating-point maximum over the fixed tree. (R117) -/
  | lredFmax (e : Enc)
  /-- Inclusive prefix integer sum over Contrib lanes. (R118) -/
  | lscanAdd (e : Enc)
  /-- Inclusive prefix minimum. (R118) -/
  | lscanMin (e : Enc)
  /-- Inclusive prefix maximum. (R118) -/
  | lscanMax (e : Enc)
  /-- Inclusive prefix AND. (R118) -/
  | lscanAnd (e : Enc)
  /-- Inclusive prefix OR. (R118) -/
  | lscanOr (e : Enc)
  /-- Inclusive prefix XOR. (R118) -/
  | lscanXor (e : Enc)
  /-- Left-fold floating-point prefix sum. (R118) -/
  | lscanFadd (e : Enc)
  /-- Left-fold floating-point prefix minimum. (R118) -/
  | lscanFmin (e : Enc)
  /-- Left-fold floating-point prefix maximum. (R118) -/
  | lscanFmax (e : Enc)
  /-- Gives each lane the least Contrib lane holding the same bits. (R119) -/
  | lmatch (e : Enc)
  /-- Gives each lane the value of the first Contrib lane. (R119) -/
  | lfirst (e : Enc)
  /-- Per-lane load of an element through a handle. (R181) -/
  | ldv (e : Enc)
  /-- Per-lane store of an element through a handle. (R181) -/
  | stv (e : Enc)
  /-- Per-lane word load that is an acquire at its scope. (R183) -/
  | ldvAcq (e : Enc)
  /-- Per-lane word store that is a release at its scope. (R183) -/
  | stvRel (e : Enc)
  /-- Loads one element into a scalar. (R181) -/
  | lds (e : Enc)
  /-- Stores one scalar element. (R181) -/
  | sts (e : Enc)
  /-- Loads one contiguous 128-byte block per beat. (R182) -/
  | ldb (e : Enc)
  /-- Stores one contiguous 128-byte block per beat. (R182) -/
  | stb (e : Enc)
  /-- Non-temporal store entered in the core's combine buffer. (R184) -/
  | stnt (e : Enc)
  /-- Per-lane atomic add returning the old value. (R185) -/
  | atomvAdd (e : Enc)
  /-- Per-lane atomic minimum. (R185) -/
  | atomvMin (e : Enc)
  /-- Per-lane atomic maximum. (R185) -/
  | atomvMax (e : Enc)
  /-- Per-lane atomic AND. (R185) -/
  | atomvAnd (e : Enc)
  /-- Per-lane atomic OR. (R185) -/
  | atomvOr (e : Enc)
  /-- Per-lane atomic XOR. (R185) -/
  | atomvXor (e : Enc)
  /-- Per-lane atomic exchange. (R185) -/
  | atomvXchg (e : Enc)
  /-- Per-lane atomic compare-and-swap. (R186) -/
  | atomvCas (e : Enc)
  /-- Per-lane atomic floating-point add. (R185) -/
  | atomvFadd (e : Enc)
  /-- Scalar atomic add. (R185) -/
  | atomsAdd (e : Enc)
  /-- Scalar atomic minimum. (R185) -/
  | atomsMin (e : Enc)
  /-- Scalar atomic maximum. (R185) -/
  | atomsMax (e : Enc)
  /-- Scalar atomic AND. (R185) -/
  | atomsAnd (e : Enc)
  /-- Scalar atomic OR. (R185) -/
  | atomsOr (e : Enc)
  /-- Scalar atomic XOR. (R185) -/
  | atomsXor (e : Enc)
  /-- Scalar atomic exchange. (R185) -/
  | atomsXchg (e : Enc)
  /-- Scalar atomic compare-and-swap. (R186) -/
  | atomsCas (e : Enc)
  /-- Scalar atomic floating-point add. (R185) -/
  | atomsFadd (e : Enc)
  /-- Fence at group scope. (R187) -/
  | fenceGrp (e : Enc)
  /-- Fence at block scope. (R187) -/
  | fenceBlk (e : Enc)
  /-- Fence at cluster scope. (R187) -/
  | fenceCls (e : Enc)
  /-- Fence at tile scope. (R187) -/
  | fenceTile (e : Enc)
  /-- Fence at device scope, also ordering UO pages. (R187) -/
  | fenceDev (e : Enc)
  /-- Fence at system scope that also drains the group's combine-buffer entries. (R187) -/
  | fenceSys (e : Enc)
  /-- Compressing store: fetch-adds a queue pointer and writes Contrib lanes' words densely. (R188) -/
  | stcq (e : Enc)
  /-- Prefetches lines into the L1 and cellar or only the home cellar. (R189) -/
  | pfch (e : Enc)
  /-- Forks a copy-engine thread moving n bytes, joining the open batch. (R222) -/
  | cpy (e : Enc)
  /-- Forks a copy thread that credits an arrival barrier at completion. (R230) -/
  | cpyBar (e : Enc)
  /-- Forks a copy thread moving a tensor box densely with a swizzle. (R224) -/
  | cpyt (e : Enc)
  /-- Tensor box copy that credits an arrival barrier. (R224) -/
  | cpytBar (e : Enc)
  /-- Forks a copy thread that adds to a counter at completion scope σ. (R225) -/
  | cpys (e : Enc)
  /-- Closes the open set of copies into a new numbered batch. (R226) -/
  | cbat (e : Enc)
  /-- Waits until batches up to a are done, joining their threads. (R226) -/
  | cwait (e : Enc)
  /-- Tests whether batches up to a are done. (R226) -/
  | ctest (e : Enc)
  /-- Initialises an arrival barrier with INIT arrivals per phase. (R229) -/
  | bari (e : Enc)
  /-- Announces expected bytes on an arrival barrier. (R229) -/
  | barx (e : Enc)
  /-- Arrives at an arrival barrier as a release at .cls. (R229) -/
  | bara (e : Enc)
  /-- Announces bytes and arrives in one update. (R229) -/
  | baraX (e : Enc)
  /-- Waits until the barrier's phase parity differs from a. (R229) -/
  | barw (e : Enc)
  /-- Tests the barrier's phase parity without waiting. (R229) -/
  | barwT (e : Enc)
  /-- Arrives at block barrier n without waiting. (R234) -/
  | bart (e : Enc)
  /-- Arrives at block barrier n and parks until the phase completes. (R234) -/
  | bsync (e : Enc)
  /-- Synchronises every group of the launch cluster. (R235) -/
  | clsync (e : Enc)
  /-- Forks a collective-engine thread for an all-reduce, reduce-scatter or all-gather. (R236) -/
  | colr (e : Enc)
  /-- Clears an accumulator tile. (R152) -/
  | mzero (e : Enc)
  /-- Accumulates A × B of 16-bit or 8-bit floats into a tile in fixed runs. (R150) -/
  | mma (e : Enc)
  /-- Accumulates A × B of NX4, signed bytes or binary64 into a tile. (R150) -/
  | mmaNx4I8F64 (e : Enc)
  /-- Loads a tile view from memory lines. (R153) -/
  | mld (e : Enc)
  /-- Stores a tile view into memory lines. (R153) -/
  | mst (e : Enc)
  /-- Copies a tile into vector registers. (R154) -/
  | mrd (e : Enc)
  /-- Copies vector registers into a tile. (R154) -/
  | mwr (e : Enc)
  /-- Scales tile rows and columns, rounding once per element. (R155) -/
  | mscl (e : Enc)
  /-- Tests a matrix descriptor without touching memory. (R156) -/
  | mdesc (e : Enc)
  /-- Inserts one element per Contrib lane into the local pool shard. (R319) -/
  | plins (e : Enc)
  /-- Serves one take per Contrib lane from the pool. (R320) -/
  | pltake (e : Enc)
  /-- Reports the least key of the last round's summaries. (R321) -/
  | plpeek (e : Enc)
  /-- Reports the element count of the last round's summaries. (R321) -/
  | plcnt (e : Enc)
  /-- Pushes a child block onto the core's fork deque and counts it in a join object. (R298) -/
  | fork (e : Enc)
  /-- Waits until the join object's OUT is zero and reads FAIL. (R300) -/
  | join (e : Enc)
  /-- Clears a join object. (R300) -/
  | jinit (e : Enc)
  /-- Reads a system register into a scalar. (R364) -/
  | rdsr (e : Enc)
  /-- Writes a system register in the sector's issue order. (R364) -/
  | wrsr (e : Enc)
  /-- Releases at .sys, evicts the block and posts a service event to the host. (R365) -/
  | svc (e : Enc)
  /-- Takes a trap in the group with cause TRAP and detail n. (R376) -/
  | trap (e : Enc)
  /-- Takes a breakpoint trap, or without a handler evicts for fault service. (R374) -/
  | bkpt (e : Enc)
  /-- Returns from the trap handler and issues the trapping instruction again. (R377) -/
  | rft (e : Enc)
  /-- Returns from the trap handler and resumes after the trapping instruction. (R377) -/
  | rftSkip (e : Enc)
  /-- Reports the home tile, hops and latency of a byte. (R366) -/
  | locq (e : Enc)
  /-- Moves package links toward a tile to FULL ahead of traffic. (R367) -/
  | lwake (e : Enc)
  /-- Reads the module-wide 64-bit core clock count. (R367) -/
  | clkrd (e : Enc)
  /-- Reads a 64-bit performance counter of the group. (R367) -/
  | perfrd (e : Enc)
  /-- A word with an unassigned or reserved opcode, or a header met in instruction position, would issue and raises an illegal-instruction trap. (R91) -/
  | illegalInstruction (w : BadWord)
  /-- A write to a register without behaviour of its own updates its writable fields. (R352) -/
  | registerWrite (off bytes : Nat) (value : DWord)
  /-- A write of WQ.TAIL hands new packets of a work queue to its worker core. (R355) -/
  | wqDoorbell (q : Nat) (tail : Word)
  /-- A scrub completes and the module becomes UNOWNED. (R326) -/
  | scrubDone 
  /-- A host write through BAR2 writes back any dirty guest and writes at home. (R208) -/
  | hostW (pa : Nat) (bytes : List Byte)
  /-- An enabled IEEE exception arises as results would be written and a trap is delivered in the group. (R68) -/
  | arithTrap (exc : BitVec 5) (lanes : Mask)
  /-- The 64-cycle YIELD period of a fragment expires. (R302) -/
  | yieldPeriodEnd (gid ent : Nat)
  /-- A fragment ready for 64 cycles without issuing enters the priority class. (R302) -/
  | fragmentStarvePromote (gid ent : Nat)
  /-- A read takes its value from the tier the machine selects. (R197) -/
  | read (id : Nat)
  /-- A write moves from the store queue to core level. (R195) -/
  | riseC (id : Nat)
  /-- A write moves to the tile's cellar and joins the coherence order. (R195) -/
  | riseT (id : Nat)
  /-- A tile's dirty guest line is written back to home. (R195) -/
  | writeback (tile line : Nat)
  /-- A combine-buffer entry reaches home. (R203) -/
  | drainNt (id : Nat)
  /-- A core's L1 copies a line from its cellar. (R195) -/
  | fillL1 (core line : Nat)
  /-- A cellar takes a clean guest copy from home. (R195) -/
  | fillG (tile line : Nat)
  /-- An L1 copy or clean guest is removed. (R195) -/
  | drop (inL1 : Bool) (place line : Nat)
  /-- A read-modify-write is performed at the point of coherence. (R204) -/
  | atomic (id : Nat)
  /-- An engine thread reads a source byte. (R207) -/
  | eRead (eng i : Nat)
  /-- An engine thread writes a destination byte. (R207) -/
  | eWrite (eng i : Nat)
  /-- An engine thread completes its batch, credits its barrier or adds to its counter. (R207) -/
  | engineComplete (eng : Nat)
  /-- A COLR's wait limit TMO expires without its matching partner and STATUS becomes 3. (R238) -/
  | collTimeout (eng : Nat)
  /-- A member's device link fails before the collective result is formed. (R238) -/
  | deviceLinkFail (eng : Nat)
  /-- A host read through BAR2 reads the line at home. (R208) -/
  | hostR (pa n : Nat)
  /-- A LAUNCH packet is parsed and checked, or rejected with a completion record. (R277) -/
  | launch (q : Nat)
  /-- A RESUME packet queues a block image to rejoin its launch. (R280) -/
  | resume (q : Nat)
  /-- An EDGE packet orders a producer launch before a consumer launch. (R357) -/
  | edge (q : Nat)
  /-- A SIGNAL packet with EVT 0 writes VALUE once earlier launches have ended. (R357) -/
  | signal (q : Nat)
  /-- A SIGNAL with EVT non-zero answers an outstanding duty event. (R358) -/
  | dutyReply (q : Nat)
  /-- A WAIT packet holds its queue until a memory word reaches VALUE. (R357) -/
  | wait (q : Nat)
  /-- The word named by a WAIT reaches its value and the queue proceeds. (R357) -/
  | waitSatisfied (q : Nat)
  /-- A MARK packet writes a time-stamped record once earlier packets have acted. (R357) -/
  | mark (q : Nat)
  /-- A launch whose edges, waits and lease are satisfied is admitted. (R282) -/
  | launchAdmit (lid : Nat)
  /-- A core that gains room places the next candidate block, image or deque entry. (R287) -/
  | blockPlace (core : Nat)
  /-- An idle core steals the tail entry of another core's fork deque. (R301) -/
  | dequeSteal (thief : Nat)
  /-- A block whose lanes have exited has drained and counts as ended. (R251) -/
  | blockEnded (bid : Nat)
  /-- A launch whose blocks, children and threads have ended gets its completion record. (R278) -/
  | launchEnd (lid : Nat)
  /-- The sage pair removes cores from a victim context's mask and stops their blocks. (R295) -/
  | preempt (ctx core : Nat)
  /-- After the block's engine threads complete, its writes drain and its image is written and queued. (R295) -/
  | blockImageWrite (bid : Nat)
  /-- A vertical slot transfer fails its CRC and is repeated. (R22) -/
  | slotCrcMismatch (core half : Nat) (second : Bool)
  /-- The sage pair's lock-step cores disagree and halt. (R388) -/
  | sageMismatch 
  /-- The re-verified sage image restarts and scheduling resumes. (R388) -/
  | sageRestart 
  /-- A column's temperature reading changes and may move it between NORMAL and THROTTLED. (R289) -/
  | columnTempChange (col temp10 : Nat)
  /-- A column's dwell time ends and a pending move takes place. (R289) -/
  | thmDwellExpire (col : Nat)
  /-- A 1 µs budget epoch starts, refilling budgets and boost tokens. (R291) -/
  | budgetEpoch 
  /-- A link idle for LINK.NIDLE enters NARROW. (R294) -/
  | linkNarrow (link : Nat)
  /-- A link idle for LINK.SIDLE enters SLEEP. (R294) -/
  | linkSleep (link : Nat)
  /-- A waking link reaches FULL. (R294) -/
  | linkFull (link : Nat)
  /-- A pool's summary round starts: snapshot, summaries, window, racking, allowance reset. (R310) -/
  | poolRound (pool : Nat) (moves : List RackMove)
  /-- All shards acknowledge a notice; the held insert is performed and an early round starts. (R313) -/
  | poolNoticeAck (pool : Nat)
  /-- A forwarded take reaches another shard and is served or passed on. (R314) -/
  | poolTakeForward (pool : Nat)
  /-- A tile controller closes an incremental checkpoint into its partner's area. (R384) -/
  | tileCheckpoint (tile : Nat)
  /-- An uncorrectable fault in a tile starts a warm tile reset in HALT. (R385) -/
  | tileFault (tile : Nat)
  /-- The tile's dies finish resetting and RESTORE begins. (R385) -/
  | tileResetDone (tile : Nat)
  /-- The last committed checkpoint is reloaded and REPLAY begins. (R385) -/
  | tileRestoreDone (tile : Nat)
  /-- Logged messages are applied, held messages released and blocks restarted or ended. (R386) -/
  | tileReplayDone (tile : Nat)
  /-- An uncorrectable memory error marks a line poisoned at its home. (R387) -/
  | memUncorrectable (line : Nat)
  /-- A rail phase fails, lowering ILIM and forcing the lowest operating point. (R390) -/
  | railPhaseFail (rail : Nat)
  /-- The sage pair puts a new module operating point in force. (R390) -/
  | operatingPointSet (mhz : Nat)
  /-- A power-down request moves a cluster from ON to DRAIN. (R391) -/
  | cluReq (clu : Nat)
  /-- A wake request restores a cluster toward ON. (R391) -/
  | cluWake (clu : Nat)
  /-- All blocks of a draining cluster are gone and it enters SAVE. (R391) -/
  | cluDrainDone (clu : Nat)
  /-- A cluster's state is saved and it is gated. (R391) -/
  | cluSaveDone (clu : Nat)
  /-- A waking cluster's power and retention are restored and it is ON. (R391) -/
  | cluWakeDone (clu : Nat)
  /-- A cold reset starts a scrub. (R325) -/
  | coldReset 
  /-- A write of OWN.CTL.REL starts a scrub of the owned module. (R325) -/
  | ownRel 
  /-- OWN.ENROL.GO enrols the owner key and makes the module OWNED. (R353) -/
  | ownEnrol 
  /-- CTX.CTL OP 1 enables a context from its table entry. (R331) -/
  | ctxEnable (ctx : Nat)
  /-- CTX.CTL OP 2 stops a context's queues and kills its launches. (R331) -/
  | ctxDisable (ctx : Nat)
  /-- A context disable finishes releasing leases and dropping TLB entries. (R331) -/
  | ctxDisableDone (ctx : Nat)
  /-- CTX.CTL OP 3 reloads a context's WEIGHT. (R331) -/
  | ctxReload (ctx : Nat)
  /-- XL.INVCTL OP 1 drops a context's TLB entries over a range. (R339) -/
  | xlInv (ctx : Nat)
  /-- Accesses translated by dropped entries have been performed and STAT becomes 2. (R339) -/
  | xlInvDone 
  /-- DEC.CTL OP 1 starts a decant of one page to a new frame. (R344) -/
  | decantStart (ctx : Nat)
  /-- The sage pair starts a decant on its own initiative in hardware mode. (R348) -/
  | decantAutoStart (ctx va dst : Nat)
  /-- A decant copy round completes and the decant freezes, continues or is abandoned. (R345) -/
  | decantRound (id : Nat)
  /-- Remaining lines are copied, entries rewritten, TLBs shot down and held accesses resume. (R346) -/
  | decantFreezeDone (id : Nat)
  /-- The host advances EV.HEAD, freeing ring room for waiting duties. (R359) -/
  | evHeadWrite (head : Word)
  /-- A write of FW.n.CTL.EN = 1 enables a format window or is refused. (R73) -/
  | fwEnable (n : Nat) (fmt : BitVec 4)
  /-- A write of EN = 0 disables a window and invalidates its alias lines. (R73) -/
  | fwDisable (n : Nat)
  /-- BOOT.CTL OP 1 starts verification and load of a firmware image. (R360) -/
  | bootLoad (kind : Nat)
  /-- Signature verification finishes; controllers restart or STAT reports failure. (R360) -/
  | bootLoadDone 
  /-- ATT.CTL OP 1 writes a signed attestation report. (R361) -/
  | attReport 
  /-- COLL.CTL OP 1 loads a collective set from the table. (R362) -/
  | collLoad (set : Nat)
  /-- A worker core parses a queue packet whose TYPE is unknown, skips it and records CODE 3 in WQ.ERR. (R355) -/
  | unknownPacketType (q : Nat)
  deriving DecidableEq, Repr

end Sys2Proof
end

