-- ==== Sys2Proof/Machine/Legal.lean ====
section
/-! DEFINITION. Which words are legal (R80 to R94): the reason of R94 that an instruction's word gives whatever the state, the
lowest-numbered one that applies. Reasons that depend on the state are added where the instruction is issued. -/

namespace Sys2Proof

/-- The 14-bit offset or number: [20:7] of a branch (R90). -/
def Enc.off14 (e : Enc) : BitVec 14 := e.dst ++ e.a
/-- The 14-bit number [13:0] of SLI and the system instructions (R78, R110, R363). -/
def Enc.imm14 (e : Enc) : BitVec 14 := e.a ++ e.b

/-- An odd register code, vector or scalar (R82). -/
def odd (c : Code) : Bool := c.toNat < 0x60 && c.toNat % 2 == 1

/-- The system register numbers of R364. -/
def sysRegs : List Nat :=
  [0x000, 0x001, 0x002, 0x010, 0x011, 0x012, 0x020, 0x021, 0x022, 0x030, 0x031, 0x032, 0x033, 0x034, 0x035, 0x036]

/-- The rows of R80 and of the entries: which codes a field may hold. `any` is a field that is a number, `sel` a code that
selects a format and is judged by the entry's own condition (R137 to R139), `zero` a field of NOP. -/
inductive FieldKind where
  | any | unused | vdst | vreg | vsrc | nvsrc | kreg | k17 | kres | sdst | sreg | sreg0 | ssrc | litOnly | beat
  | sel | zero | offV | offS | hnd | copy | tens | run | sEven | s28 | s28z | barI | barX | barW | barN | wake | skip
  deriving DecidableEq, Repr

/-- Whether a field of this kind may hold the code. -/
def FieldKind.admits (k : FieldKind) (c : Code) : Bool :=
  let n := c.toNat
  let vec := n < 0x40
  let sca := 0x40 ≤ n && n < 0x60
  match k with
  | .any | .sel => true
  | .unused => n == 0x60
  | .zero => n == 0
  | .vdst => vec || n == 0x60
  | .vreg => vec
  | .vsrc => n < 0x78 || n == 0x7F
  | .nvsrc => (0x40 ≤ n && n < 0x78) || n == 0x7F
  | .kreg => n < 8
  | .k17 => 1 ≤ n && n < 8
  | .kres => (1 ≤ n && n < 8) || n == 0x60
  | .sdst => sca || n == 0x60
  | .sreg => sca
  | .sreg0 => sca || n == 0x60
  | .ssrc => sca || n == 0x60 || (0x63 ≤ n && n < 0x78) || n == 0x7F
  | .litOnly => n == 0x7F
  | .beat => n == 0x60 || n == 0x70 || n == 0x71
  | .offV => vec || sca || n == 0x60
  | .offS => sca || n == 0x60
  | .hnd => vec || sca || n == 0x7F
  | .copy => (1 ≤ n && n < 0x40) || (0x40 ≤ n && n ≤ 0x5A)
  | .tens => vec || sca
  | .run => 0x40 ≤ n && n ≤ 0x58 && n % 4 == 0
  | .sEven => 0x40 ≤ n && n ≤ 0x5A && n % 2 == 0
  | .s28 => 0x40 ≤ n && n ≤ 0x5C
  | .s28z => (0x40 ≤ n && n ≤ 0x5C) || n == 0x60
  | .barI => sca || (0x70 ≤ n && n ≤ 0x77)
  | .barX => sca || n == 0x60 || (0x70 ≤ n && n ≤ 0x77)
  | .barW => sca || n == 0x60 || n == 0x70
  | .barN => sca || n == 0x60 || (0x70 ≤ n && n ≤ 0x74) || n == 0x7F
  | .wake => sca || (0x70 ≤ n && n ≤ 0x77) || n == 0x7F
  | .skip => n == 0x70

/-- What an instruction makes of D4 (R84). -/
inductive D4Use where
  | no | source | mask | target
  deriving DecidableEq, Repr

/-- The prefix fields an instruction uses (R85, R100, R123): `ok` whether it takes a prefix at all, `zero` whether ZERO may be
set, `n` how many of its sources NA, NB and AA act on. -/
structure PrefixUse where
  ok   : Bool
  zero : Bool
  x    : Bool
  s    : Bool
  f    : Bool
  n    : Nat
  d    : D4Use
  deriving DecidableEq, Repr

def NO : PrefixUse := ⟨false, false, false, false, false, 0, .no⟩
def M : PrefixUse := ⟨true, true, false, false, false, 0, .no⟩
def MK0 : PrefixUse := { M with zero := false }
def MS : PrefixUse := { M with s := true }
def MF : PrefixUse := { M with f := true }
def MX : PrefixUse := { M with x := true }
def MXS : PrefixUse := { MX with s := true }
def MXD : PrefixUse := { MX with d := .source }
def MXSD : PrefixUse := { MXS with d := .source }
def MXK : PrefixUse := { MX with d := .mask }
def MXF : PrefixUse := { MX with f := true }
def MXN : PrefixUse := { MX with n := 2 }
def MXN1 : PrefixUse := { MX with n := 1 }
def MXFN1 : PrefixUse := { MXF with n := 1 }
def MXSFN1 : PrefixUse := { MXFN1 with s := true }
def MXSFN : PrefixUse := { MXSFN1 with n := 2 }
def MXSFND : PrefixUse := { MXSFN with d := .source }
def MXSFNP : PrefixUse := { MXSFN with d := .target }

/-- A prefix that breaks R85 for this instruction (reason PREFIX); `aVec` says that A is a vector register. -/
def prefixBad (p : Prefix) (u : PrefixUse) (aVec : Bool) : Bool :=
  let ix := p.xl == 10 || p.xl == 11
  !u.ok || p.rnd == 7 || (!u.f && p.rnd != 0) || (!u.s && p.sat) || (!u.zero && p.zero)
    || (u.n == 0 && (p.na || p.aa)) || (u.n < 2 && p.nb)
    || (!u.x && p.xl != 0) || 13 ≤ p.xl.toNat || (p.xl != 0 && !aVec)
    || (ix && u.d != .no) || (u.d == .no && !ix && p.d4 != 0x60)

/-- A D4 that holds a code outside its row (reason OPERAND). -/
def d4Bad (p : Prefix) (u : PrefixUse) : Bool :=
  match u.d with
  | .no => (p.xl == 10 && !FieldKind.vreg.admits p.d4) || (p.xl == 11 && !FieldKind.sreg.admits p.d4)
  | .source => !FieldKind.vsrc.admits p.d4
  | .mask => !FieldKind.kreg.admits p.d4
  | .target => !(p.d4 == 0x70 || p.d4 == 0x71 || p.d4 == 0x73 || p.d4 == 0x74)

def reservedCode (c : Code) : Bool := 0x78 ≤ c.toNat && c.toNat ≤ 0x7E

/-- The lowest-numbered reason of R94 that the word alone gives: 5 VARIANT, 6 PREFIX, 7 RESERVED, 8 OPERAND, 9 PAIR,
10 LITERAL. `pair` and `extra` are the entry's own conditions for PAIR and OPERAND. -/
def Enc.reason (e : Enc) (vars : List Nat) (u : PrefixUse) (d a b : FieldKind) (pair extra : Bool) : Option Nat :=
  let fields := (if d = .any then [] else [e.dst]) ++ (if a = .any then [] else [e.a]) ++ (if b = .any then [] else [e.b])
  let lits := (if a ≠ .any && e.a == 0x7F then 1 else 0) + (if b ≠ .any && e.b == 0x7F then 1 else 0)
    + (if e.p.d4 == 0x7F then 1 else 0)
  if !vars.contains e.var.toNat then some 5
  else if e.pfx.isSome && prefixBad e.p u (FieldKind.vreg.admits e.a) then some 6
  else if fields.any reservedCode || reservedCode e.p.d4 then some 7
  else if !d.admits e.dst || !a.admits e.a || !b.admits e.b || d4Bad e.p u || extra then some 8
  else if pair then some 9
  else if 2 ≤ lits then some 10
  else none

/-- FCVT's selector (R136, R137): combinations outside its table. VAR names SRC, or DST when B names an FP8 source. -/
def Enc.fcvtBad (e : Enc) : Bool :=
  match e.b.toNat with
  | 0x60 | 0x70 | 0x71 | 0x73 | 0x74 => false
  | 0x72 => e.var == 1 || e.var == 2
  | 0x75 | 0x76 => false
  | _ => true

/-- FCVT's pairs (R137): an .f64 source, an .f64 destination, and the two words of a packed source converted to .f32. -/
def Enc.fcvtPair (e : Enc) : Bool :=
  let fp8 := e.b == 0x75 || e.b == 0x76
  (e.var == 3 && !fp8 && odd e.a) || (e.var == 3 && fp8 && odd e.dst) || (e.b == 0x72 && odd e.dst)
    || ((e.var == 1 || e.var == 2) && e.b == 0x60 && odd e.dst)

/-- FCVTI's and ICVTF's selector (R138, R139): .f32 and .f64 go with the 32- and 64-bit integers, packed with packed. -/
def Enc.fcvtiBad (e : Enc) : Bool :=
  match e.b.toNat with
  | 0x60 | 0x70 | 0x71 => e.var == 1 || e.var == 2
  | 0x72 => e.var == 0 || e.var == 3
  | _ => true

/-- The reason the word alone gives (R94), for each row of the opcode table; the steps and events have no word. A of LMATCH may be any
source that R80's row admits, for R119 names none (DESIGN CHOICE, assumption 19). -/
def staticReason : Instr → Option Nat
  | .nop e => e.reason [0] NO .zero .zero .zero (false) (false)
  | .brZ e => e.reason [0] NO .any .any .sreg0 (false) (false)
  | .brNz e => e.reason [1] NO .any .any .sreg0 (false) (false)
  | .brv e => e.reason [0] NO .any .any .kreg (false) (false)
  | .brx e => e.reason [0] NO .unused .vreg .litOnly (false) (false)
  | .jmp e => e.reason [0] NO .unused .unused .litOnly (false) (false)
  | .jmpIndirect e => e.reason [0] NO .unused .unused .sreg (false) (false)
  | .call e => e.reason [0] NO .vreg .unused .litOnly (false) (false)
  | .callIndirect e => e.reason [0] NO .vreg .unused .sreg (false) (false)
  | .ret e => e.reason [0] NO .unused .vreg .unused (false) (false)
  | .exit e => e.reason [0] NO .unused .unused .unused (false) (false)
  | .yield e => e.reason [0] NO .unused .unused .unused (false) (false)
  | .exlw e => e.reason [0] NO .unused .vreg .unused (false) (false)
  | .exlw2 e => e.reason [0] NO .unused .vreg .unused (odd e.a) (false)
  | .smov e => e.reason [0, 2] NO .sdst .ssrc .unused (e.var == 2 && (odd e.dst || odd e.a || odd e.b)) (false)
  | .sli e => e.reason [0, 1, 2] NO .sdst .any .any (e.var == 2 && odd e.dst) (false)
  | .sadd e => e.reason [0, 1, 2] NO .sdst .ssrc .ssrc (e.var == 2 && (odd e.dst || odd e.a || odd e.b)) (false)
  | .ssub e => e.reason [0, 1, 2] NO .sdst .ssrc .ssrc (e.var == 2 && (odd e.dst || odd e.a || odd e.b)) (false)
  | .smul e => e.reason [0, 1, 2] NO .sdst .ssrc .ssrc (e.var == 2 && (odd e.dst || odd e.a || odd e.b)) (false)
  | .smulh e => e.reason [0, 1] NO .sdst .ssrc .ssrc (false) (false)
  | .sdiv e => e.reason [0, 1, 2] NO .sdst .ssrc .ssrc (e.var == 2 && (odd e.dst || odd e.a || odd e.b)) (false)
  | .srem e => e.reason [0, 1, 2] NO .sdst .ssrc .ssrc (e.var == 2 && (odd e.dst || odd e.a || odd e.b)) (false)
  | .sand e => e.reason [0, 1, 2] NO .sdst .ssrc .ssrc (e.var == 2 && (odd e.dst || odd e.a || odd e.b)) (false)
  | .sor e => e.reason [0, 1, 2] NO .sdst .ssrc .ssrc (e.var == 2 && (odd e.dst || odd e.a || odd e.b)) (false)
  | .sxor e => e.reason [0, 1, 2] NO .sdst .ssrc .ssrc (e.var == 2 && (odd e.dst || odd e.a || odd e.b)) (false)
  | .snot e => e.reason [0, 1, 2] NO .sdst .ssrc .unused (e.var == 2 && (odd e.dst || odd e.a)) (false)
  | .sshl e => e.reason [0, 1, 2] NO .sdst .ssrc .ssrc (e.var == 2 && (odd e.dst || odd e.a)) (false)
  | .sshr e => e.reason [0, 1, 2] NO .sdst .ssrc .ssrc (e.var == 2 && (odd e.dst || odd e.a)) (false)
  | .ssar e => e.reason [0, 1, 2] NO .sdst .ssrc .ssrc (e.var == 2 && (odd e.dst || odd e.a)) (false)
  | .smin e => e.reason [0, 1, 2] NO .sdst .ssrc .ssrc (e.var == 2 && (odd e.dst || odd e.a || odd e.b)) (false)
  | .smax e => e.reason [0, 1, 2] NO .sdst .ssrc .ssrc (e.var == 2 && (odd e.dst || odd e.a || odd e.b)) (false)
  | .scmpEq e => e.reason [0, 1, 2, 3] NO .sdst .ssrc .ssrc (e.var == 2 && (odd e.a || odd e.b)) (false)
  | .scmpNe e => e.reason [0, 1, 2, 3] NO .sdst .ssrc .ssrc (e.var == 2 && (odd e.a || odd e.b)) (false)
  | .scmpLt e => e.reason [0, 1, 2, 3] NO .sdst .ssrc .ssrc (e.var == 2 && (odd e.a || odd e.b)) (false)
  | .scmpLe e => e.reason [0, 1, 2, 3] NO .sdst .ssrc .ssrc (e.var == 2 && (odd e.a || odd e.b)) (false)
  | .scmpGt e => e.reason [0, 1, 2, 3] NO .sdst .ssrc .ssrc (e.var == 2 && (odd e.a || odd e.b)) (false)
  | .scmpGe e => e.reason [0, 1, 2, 3] NO .sdst .ssrc .ssrc (e.var == 2 && (odd e.a || odd e.b)) (false)
  | .ssel e => e.reason [0, 2] NO .sdst .ssrc .ssrc (e.var == 2 && (odd e.dst || odd e.a || odd e.b)) (false)
  | .sclz e => e.reason [0, 1, 2] NO .sdst .ssrc .unused (e.var == 2 && (odd e.dst || odd e.a)) (false)
  | .spopc e => e.reason [0, 1, 2] NO .sdst .ssrc .unused (e.var == 2 && (odd e.dst || odd e.a)) (false)
  | .sbfe e => e.reason [0, 1] NO .sdst .ssrc .ssrc (false) (false)
  | .sbfi e => e.reason [0, 1] NO .sdst .ssrc .ssrc (false) (false)
  | .k2s e => e.reason [0] NO .sreg .kreg .beat (false) (false)
  | .s2k e => e.reason [0] NO .kreg .ssrc .beat (false) (false)
  | .vmov e => e.reason [0, 2] MX .vdst .vsrc .unused (e.var == 2 && (odd e.dst || odd e.a)) (false)
  | .vadd e => e.reason [0, 1, 2, 3] MXS .vdst .vsrc .vsrc (e.var == 2 && (odd e.dst || odd e.a || odd e.b)) (false)
  | .vaddc e => e.reason [1] MXD .vdst .vsrc .vsrc (odd e.dst) (false)
  | .vsub e => e.reason [0, 1, 2, 3] MXS .vdst .vsrc .vsrc (e.var == 2 && (odd e.dst || odd e.a || odd e.b)) (false)
  | .vmul e => e.reason [0, 1, 2, 3] MXS .vdst .vsrc .vsrc (e.var == 2 && (odd e.dst || odd e.a || odd e.b)) (false)
  | .vmulh e => e.reason [0, 1] MX .vdst .vsrc .vsrc (false) (false)
  | .vmad e => e.reason [0, 1, 2, 3] MXSD .vdst .vsrc .vsrc (e.var == 2 && (odd e.dst || odd e.a || odd e.b || odd e.p.d4)) (false)
  | .vdiv e => e.reason [0, 1, 2] MXS .vdst .vsrc .vsrc (e.var == 2 && (odd e.dst || odd e.a || odd e.b)) (false)
  | .vrem e => e.reason [0, 1, 2] MX .vdst .vsrc .vsrc (e.var == 2 && (odd e.dst || odd e.a || odd e.b)) (false)
  | .vand e => e.reason [0, 1, 2, 3] MX .vdst .vsrc .vsrc (e.var == 2 && (odd e.dst || odd e.a || odd e.b)) (false)
  | .vor e => e.reason [0, 1, 2, 3] MX .vdst .vsrc .vsrc (e.var == 2 && (odd e.dst || odd e.a || odd e.b)) (false)
  | .vxor e => e.reason [0, 1, 2, 3] MX .vdst .vsrc .vsrc (e.var == 2 && (odd e.dst || odd e.a || odd e.b)) (false)
  | .vnot e => e.reason [0, 1, 2, 3] MX .vdst .vsrc .unused (e.var == 2 && (odd e.dst || odd e.a)) (false)
  | .vshl e => e.reason [0, 1, 2, 3] MXS .vdst .vsrc .vsrc (e.var == 2 && (odd e.dst || odd e.a)) (false)
  | .vshr e => e.reason [0, 1, 2, 3] MX .vdst .vsrc .vsrc (e.var == 2 && (odd e.dst || odd e.a)) (false)
  | .vsar e => e.reason [0, 1, 2, 3] MX .vdst .vsrc .vsrc (e.var == 2 && (odd e.dst || odd e.a)) (false)
  | .vmin e => e.reason [0, 1, 2, 3] MX .vdst .vsrc .vsrc (e.var == 2 && (odd e.dst || odd e.a || odd e.b)) (false)
  | .vmax e => e.reason [0, 1, 2, 3] MX .vdst .vsrc .vsrc (e.var == 2 && (odd e.dst || odd e.a || odd e.b)) (false)
  | .vabs e => e.reason [0, 2, 3] MXS .vdst .vsrc .unused (e.var == 2 && (odd e.dst || odd e.a)) (false)
  | .vneg e => e.reason [0, 1, 2, 3] MXS .vdst .vsrc .unused (e.var == 2 && (odd e.dst || odd e.a)) (false)
  | .vcmpEq e => e.reason [0, 1, 2, 3] MX .kreg .vsrc .vsrc (e.var == 2 && (odd e.a || odd e.b)) (false)
  | .vcmpNe e => e.reason [0, 1, 2, 3] MX .kreg .vsrc .vsrc (e.var == 2 && (odd e.a || odd e.b)) (false)
  | .vcmpLt e => e.reason [0, 1, 2, 3] MX .kreg .vsrc .vsrc (e.var == 2 && (odd e.a || odd e.b)) (false)
  | .vcmpLe e => e.reason [0, 1, 2, 3] MX .kreg .vsrc .vsrc (e.var == 2 && (odd e.a || odd e.b)) (false)
  | .vcmpGt e => e.reason [0, 1, 2, 3] MX .kreg .vsrc .vsrc (e.var == 2 && (odd e.a || odd e.b)) (false)
  | .vcmpGe e => e.reason [0, 1, 2, 3] MX .kreg .vsrc .vsrc (e.var == 2 && (odd e.a || odd e.b)) (false)
  | .vsel e => e.reason [0, 2] MXK .vdst .vsrc .vsrc (e.var == 2 && (odd e.dst || odd e.a || odd e.b)) (false)
  | .vclz e => e.reason [0, 1, 2, 3] MX .vdst .vsrc .unused (e.var == 2 && (odd e.dst || odd e.a)) (false)
  | .vpopc e => e.reason [0, 1, 2, 3] MX .vdst .vsrc .unused (e.var == 2 && (odd e.dst || odd e.a)) (false)
  | .vbrev e => e.reason [0, 1, 2, 3] MX .vdst .vsrc .unused (e.var == 2 && (odd e.dst || odd e.a)) (false)
  | .vbfe e => e.reason [0, 1] MX .vdst .vsrc .vsrc (false) (false)
  | .vbfi e => e.reason [0, 1] MXD .vdst .vsrc .vsrc (false) (false)
  | .vdot4 e => e.reason [0, 1] MXSD .vdst .vsrc .vsrc (false) (false)
  | .vpack e => e.reason [1, 3] MXS .vdst .vsrc .vsrc (false) (false)
  | .vunpk e => e.reason [1, 3] MX .vdst .vsrc .unused (odd e.dst) (false)
  | .kand e => e.reason [0] NO .kreg .kreg .kreg (false) (false)
  | .kor e => e.reason [0] NO .kreg .kreg .kreg (false) (false)
  | .kxor e => e.reason [0] NO .kreg .kreg .kreg (false) (false)
  | .knot e => e.reason [0] NO .kreg .kreg .unused (false) (false)
  | .kmov e => e.reason [0] NO .kreg .kreg .unused (false) (false)
  | .kpop e => e.reason [0] NO .sreg .kreg .unused (false) (false)
  | .fadd e => e.reason [0, 1, 2, 3] MXSFN .vdst .vsrc .vsrc (e.var == 3 && (odd e.dst || odd e.a || odd e.b)) (false)
  | .fsub e => e.reason [0, 1, 2, 3] MXSFN .vdst .vsrc .vsrc (e.var == 3 && (odd e.dst || odd e.a || odd e.b)) (false)
  | .fmul e => e.reason [0, 1, 2, 3] MXSFN .vdst .vsrc .vsrc (e.var == 3 && (odd e.dst || odd e.a || odd e.b)) (false)
  | .ffma e => e.reason [0, 1, 2, 3] MXSFND .vdst .vsrc .vsrc (e.var == 3 && (odd e.dst || odd e.a || odd e.b || odd e.p.d4)) (false)
  | .fmin e => e.reason [0, 1, 2, 3] MXN .vdst .vsrc .vsrc (e.var == 3 && (odd e.dst || odd e.a || odd e.b)) (false)
  | .fmax e => e.reason [0, 1, 2, 3] MXN .vdst .vsrc .vsrc (e.var == 3 && (odd e.dst || odd e.a || odd e.b)) (false)
  | .fcmpEq e => e.reason [0, 1, 2, 3] MXN .kreg .vsrc .vsrc (e.var == 3 && (odd e.a || odd e.b)) (false)
  | .fcmpNe e => e.reason [0, 1, 2, 3] MXN .kreg .vsrc .vsrc (e.var == 3 && (odd e.a || odd e.b)) (false)
  | .fcmpLt e => e.reason [0, 1, 2, 3] MXN .kreg .vsrc .vsrc (e.var == 3 && (odd e.a || odd e.b)) (false)
  | .fcmpLe e => e.reason [0, 1, 2, 3] MXN .kreg .vsrc .vsrc (e.var == 3 && (odd e.a || odd e.b)) (false)
  | .fcmpGt e => e.reason [0, 1, 2, 3] MXN .kreg .vsrc .vsrc (e.var == 3 && (odd e.a || odd e.b)) (false)
  | .fcmpGe e => e.reason [0, 1, 2, 3] MXN .kreg .vsrc .vsrc (e.var == 3 && (odd e.a || odd e.b)) (false)
  | .fcmpUn e => e.reason [0, 1, 2, 3] MXN .kreg .vsrc .vsrc (e.var == 3 && (odd e.a || odd e.b)) (false)
  | .fcmpOr e => e.reason [0, 1, 2, 3] MXN .kreg .vsrc .vsrc (e.var == 3 && (odd e.a || odd e.b)) (false)
  | .frcp e => e.reason [0, 1, 2, 3] MXSFN1 .vdst .vsrc .unused (e.var == 3 && (odd e.dst || odd e.a)) (false)
  | .frsq e => e.reason [0, 1, 2, 3] MXSFN1 .vdst .vsrc .unused (e.var == 3 && (odd e.dst || odd e.a)) (false)
  | .fsqrt e => e.reason [0, 1, 2, 3] MXFN1 .vdst .vsrc .unused (e.var == 3 && (odd e.dst || odd e.a)) (false)
  | .fdiv e => e.reason [0, 1, 2, 3] MXSFN .vdst .vsrc .vsrc (e.var == 3 && (odd e.dst || odd e.a || odd e.b)) (false)
  | .fexp2 e => e.reason [0, 1, 2] MXSFN1 .vdst .vsrc .unused (false) (false)
  | .flog2 e => e.reason [0, 1, 2] MXFN1 .vdst .vsrc .unused (false) (false)
  | .fsin e => e.reason [0, 1, 2] MXFN1 .vdst .vsrc .unused (false) (false)
  | .fcos e => e.reason [0, 1, 2] MXFN1 .vdst .vsrc .unused (false) (false)
  | .ftanh e => e.reason [0, 1, 2] MXFN1 .vdst .vsrc .unused (false) (false)
  | .frnd e => e.reason [0, 1, 2, 3] MXFN1 .vdst .vsrc .unused (e.var == 3 && (odd e.dst || odd e.a)) (false)
  | .fcvt e => e.reason [0, 1, 2, 3] MXSFN1 .vdst .vsrc .sel (e.fcvtPair) (e.fcvtBad)
  | .fcvti e => e.reason [0, 1, 2, 3] MXFN1 .vdst .vsrc .sel ((e.var == 3 && odd e.a) || (e.b == 0x71 && odd e.dst)) (e.fcvtiBad)
  | .icvtf e => e.reason [0, 1, 2, 3] MXF .vdst .vsrc .sel ((e.var == 3 && odd e.dst) || (e.b == 0x71 && odd e.a)) (e.fcvtiBad)
  | .fclass e => e.reason [0, 1, 2, 3] MXN1 .vdst .vsrc .unused (e.var == 3 && odd e.a) (false)
  | .fscale e => e.reason [0, 1, 2, 3] MXSFN .vdst .vsrc .vsrc (e.var == 3 && (odd e.dst || odd e.a)) (false)
  | .fdot2 e => e.reason [1, 2] MXSFND .vdst .vsrc .vsrc (false) (false)
  | .fpack e => e.reason [0] MXSFNP .vdst .vsrc .vsrc ((e.p.d4 == 0x73 || e.p.d4 == 0x74) && (odd e.a || odd e.b)) (false)
  | .nxenc e => e.reason [0] M .vdst .vreg .unused (odd e.dst) (false)
  | .nxdec e => e.reason [0, 2] MX .vdst .vsrc .vsrc (false) (false)
  | .qswz e => e.reason [0, 2] M .vdst .vreg .vsrc (e.var == 2 && (odd e.dst || odd e.a)) (false)
  | .qbc e => e.reason [0, 2] M .vdst .vreg .vsrc (e.var == 2 && (odd e.dst || odd e.a)) (false)
  | .lshf e => e.reason [0, 2] M .vdst .vreg .vsrc (e.var == 2 && (odd e.dst || odd e.a)) (false)
  | .lrot e => e.reason [0, 2] M .vdst .vreg .vsrc (e.var == 2 && (odd e.dst || odd e.a)) (false)
  | .lbc e => e.reason [0, 2] M .vdst .vreg .nvsrc (e.var == 2 && (odd e.dst || odd e.a)) (false)
  | .lredAdd e => e.reason [0, 1, 2, 3] MS .vdst .vsrc .unused (e.var == 2 && (odd e.dst || odd e.a)) (false)
  | .lredMin e => e.reason [0, 1, 2, 3] M .vdst .vsrc .unused (e.var == 2 && (odd e.dst || odd e.a)) (false)
  | .lredMax e => e.reason [0, 1, 2, 3] M .vdst .vsrc .unused (e.var == 2 && (odd e.dst || odd e.a)) (false)
  | .lredAnd e => e.reason [0, 1, 2, 3] M .vdst .vsrc .unused (e.var == 2 && (odd e.dst || odd e.a)) (false)
  | .lredOr e => e.reason [0, 1, 2, 3] M .vdst .vsrc .unused (e.var == 2 && (odd e.dst || odd e.a)) (false)
  | .lredXor e => e.reason [0, 1, 2, 3] M .vdst .vsrc .unused (e.var == 2 && (odd e.dst || odd e.a)) (false)
  | .lredFadd e => e.reason [0, 1, 2, 3] MF .vdst .vsrc .unused (e.var == 3 && (odd e.dst || odd e.a)) (false)
  | .lredFmin e => e.reason [0, 1, 2, 3] M .vdst .vsrc .unused (e.var == 3 && (odd e.dst || odd e.a)) (false)
  | .lredFmax e => e.reason [0, 1, 2, 3] M .vdst .vsrc .unused (e.var == 3 && (odd e.dst || odd e.a)) (false)
  | .lscanAdd e => e.reason [0, 1, 2, 3] MS .vdst .vsrc .unused (e.var == 2 && (odd e.dst || odd e.a)) (false)
  | .lscanMin e => e.reason [0, 1, 2, 3] M .vdst .vsrc .unused (e.var == 2 && (odd e.dst || odd e.a)) (false)
  | .lscanMax e => e.reason [0, 1, 2, 3] M .vdst .vsrc .unused (e.var == 2 && (odd e.dst || odd e.a)) (false)
  | .lscanAnd e => e.reason [0, 1, 2, 3] M .vdst .vsrc .unused (e.var == 2 && (odd e.dst || odd e.a)) (false)
  | .lscanOr e => e.reason [0, 1, 2, 3] M .vdst .vsrc .unused (e.var == 2 && (odd e.dst || odd e.a)) (false)
  | .lscanXor e => e.reason [0, 1, 2, 3] M .vdst .vsrc .unused (e.var == 2 && (odd e.dst || odd e.a)) (false)
  | .lscanFadd e => e.reason [0, 1, 2, 3] MF .vdst .vsrc .unused (e.var == 3 && (odd e.dst || odd e.a)) (false)
  | .lscanFmin e => e.reason [0, 1, 2, 3] M .vdst .vsrc .unused (e.var == 3 && (odd e.dst || odd e.a)) (false)
  | .lscanFmax e => e.reason [0, 1, 2, 3] M .vdst .vsrc .unused (e.var == 3 && (odd e.dst || odd e.a)) (false)
  | .lmatch e => e.reason [0, 2] M .vdst .vsrc .unused (e.var == 2 && (odd e.dst || odd e.a)) (false)
  | .lfirst e => e.reason [0, 2] M .vdst .vsrc .unused (e.var == 2 && (odd e.dst || odd e.a)) (false)
  | .ldv e => e.reason [0, 1, 2, 3] M .vdst .offV .hnd (e.var == 1 && odd e.dst) (false)
  | .stv e => e.reason [0, 1, 2, 3] MK0 .vreg .offV .hnd (e.var == 1 && odd e.dst) (false)
  | .ldvAcq e => e.reason [0, 1, 2, 3] M .vdst .offV .hnd (false) (false)
  | .stvRel e => e.reason [0, 1, 2, 3] MK0 .vreg .offV .hnd (false) (false)
  | .lds e => e.reason [0, 1, 2, 3] NO .sdst .offS .hnd (e.var == 1 && odd e.dst) (false)
  | .sts e => e.reason [0, 1, 2, 3] NO .sreg0 .offS .hnd (e.var == 1 && odd e.dst) (false)
  | .ldb e => e.reason [0] M .vdst .offS .hnd (false) (false)
  | .stb e => e.reason [0] MK0 .vreg .offS .hnd (false) (false)
  | .stnt e => e.reason [0, 1, 2, 3] MK0 .vreg .offV .hnd (e.var == 1 && odd e.dst) (false)
  | .atomvAdd e => e.reason [0, 1, 2, 3] M .vreg .offV .hnd (e.var == 2 && odd e.dst) (false)
  | .atomvMin e => e.reason [0, 1, 2, 3] M .vreg .offV .hnd (e.var == 2 && odd e.dst) (false)
  | .atomvMax e => e.reason [0, 1, 2, 3] M .vreg .offV .hnd (e.var == 2 && odd e.dst) (false)
  | .atomvAnd e => e.reason [0, 1, 2] M .vreg .offV .hnd (e.var == 2 && odd e.dst) (false)
  | .atomvOr e => e.reason [0, 1, 2] M .vreg .offV .hnd (e.var == 2 && odd e.dst) (false)
  | .atomvXor e => e.reason [0, 1, 2] M .vreg .offV .hnd (e.var == 2 && odd e.dst) (false)
  | .atomvXchg e => e.reason [0, 1, 2] M .vreg .offV .hnd (e.var == 2 && odd e.dst) (false)
  | .atomvCas e => e.reason [0, 1, 2] M .vreg .offV .hnd (odd e.dst || (e.var == 2 && e.dst.toNat % 4 != 0)) (false)
  | .atomvFadd e => e.reason [0, 1, 2, 3] M .vreg .offV .hnd (e.var == 3 && odd e.dst) (false)
  | .atomsAdd e => e.reason [0, 1, 2, 3] NO .sreg .offS .hnd (e.var == 2 && odd e.dst) (false)
  | .atomsMin e => e.reason [0, 1, 2, 3] NO .sreg .offS .hnd (e.var == 2 && odd e.dst) (false)
  | .atomsMax e => e.reason [0, 1, 2, 3] NO .sreg .offS .hnd (e.var == 2 && odd e.dst) (false)
  | .atomsAnd e => e.reason [0, 1, 2] NO .sreg .offS .hnd (e.var == 2 && odd e.dst) (false)
  | .atomsOr e => e.reason [0, 1, 2] NO .sreg .offS .hnd (e.var == 2 && odd e.dst) (false)
  | .atomsXor e => e.reason [0, 1, 2] NO .sreg .offS .hnd (e.var == 2 && odd e.dst) (false)
  | .atomsXchg e => e.reason [0, 1, 2] NO .sreg .offS .hnd (e.var == 2 && odd e.dst) (false)
  | .atomsCas e => e.reason [0, 1, 2] NO .sreg .offS .hnd (odd e.dst || (e.var == 2 && e.dst.toNat % 4 != 0)) (false)
  | .atomsFadd e => e.reason [0, 1, 2, 3] NO .sreg .offS .hnd (e.var == 3 && odd e.dst) (false)
  | .fenceGrp e => e.reason [0] NO .unused .unused .unused (false) (false)
  | .fenceBlk e => e.reason [0] NO .unused .unused .unused (false) (false)
  | .fenceCls e => e.reason [0] NO .unused .unused .unused (false) (false)
  | .fenceTile e => e.reason [0] NO .unused .unused .unused (false) (false)
  | .fenceDev e => e.reason [0] NO .unused .unused .unused (false) (false)
  | .fenceSys e => e.reason [0] NO .unused .unused .unused (false) (false)
  | .stcq e => e.reason [0] MK0 .sreg .vreg .hnd (odd e.dst) (false)
  | .pfch e => e.reason [0, 1] NO .unused .offV .hnd (false) (false)
  | .cpy e => e.reason [0] NO .copy .copy .ssrc ((0x40#7 ≤ e.dst && odd e.dst) || (0x40#7 ≤ e.a && odd e.a)) (false)
  | .cpyBar e => e.reason [1] NO .copy .copy .sEven ((0x40#7 ≤ e.dst && odd e.dst) || (0x40#7 ≤ e.a && odd e.a)) (false)
  | .cpyt e => e.reason [0] NO .copy .tens .run (0x40#7 ≤ e.dst && odd e.dst) (false)
  | .cpytBar e => e.reason [1] NO .copy .tens .run (0x40#7 ≤ e.dst && odd e.dst) (false)
  | .cpys e => e.reason [0, 1, 2, 3] NO .copy .copy .run ((0x40#7 ≤ e.dst && odd e.dst) || (0x40#7 ≤ e.a && odd e.a)) (false)
  | .cbat e => e.reason [0] NO .s28z .unused .unused (false) (false)
  | .cwait e => e.reason [0] NO .unused .ssrc .unused (false) (false)
  | .ctest e => e.reason [0] NO .s28z .ssrc .unused (false) (false)
  | .bari e => e.reason [0] NO .barI .offS .hnd (false) (false)
  | .barx e => e.reason [0] NO .barX .offS .hnd (false) (false)
  | .bara e => e.reason [0] NO .s28 .offS .hnd (false) (false)
  | .baraX e => e.reason [1] NO .s28 .offS .hnd (false) (false)
  | .barw e => e.reason [0] NO .barW .offS .hnd (false) (false)
  | .barwT e => e.reason [1] NO .s28 .offS .hnd (false) (false)
  | .bart e => e.reason [0] NO .unused .barN .unused (false) (false)
  | .bsync e => e.reason [0] NO .unused .barN .unused (false) (false)
  | .clsync e => e.reason [0] NO .unused .unused .unused (false) (false)
  | .colr e => e.reason [0, 1, 2, 3] NO .unused .offS .hnd (false) (false)
  | .mzero e => e.reason [0] NO .kreg .unused .unused (false) (false)
  | .mma e => e.reason [0, 1, 2, 3] NO .kreg .sreg .sreg (odd e.a || odd e.b) (false)
  | .mmaNx4I8F64 e => e.reason [0, 1, 2] NO .kreg .sreg .sreg (odd e.a || odd e.b) (false)
  | .mld e => e.reason [0, 3] NO .kreg .sreg .unused (odd e.a) (false)
  | .mst e => e.reason [0, 3] NO .sreg .unused .kreg (odd e.dst) (false)
  | .mrd e => e.reason [0, 3] NO .vreg .kreg .unused (e.var == 3 && odd e.dst) (e.var == 0 && 61 < e.dst.toNat)
  | .mwr e => e.reason [0, 3] NO .kreg .vreg .unused (e.var == 3 && odd e.a) (e.var == 0 && 61 < e.a.toNat)
  | .mscl e => e.reason [0, 3] NO .kreg .vsrc .vsrc (e.var == 3 && (odd e.a || odd e.b)) (false)
  | .mdesc e => e.reason [0] NO .sreg .sreg .ssrc (odd e.a) (false)
  | .plins e => e.reason [0] NO .kres .vreg .hnd (odd e.a) (e.b == 0x7F && (e.lit.getD 0).extractLsb' 0 24 != 0#24)
  | .pltake e => e.reason [0] NO .vreg .k17 .hnd (odd e.dst) (e.b == 0x7F && (e.lit.getD 0).extractLsb' 0 24 != 0#24)
  | .plpeek e => e.reason [0] NO .s28 .unused .hnd (odd e.dst) (e.b == 0x7F && (e.lit.getD 0).extractLsb' 0 24 != 0#24)
  | .plcnt e => e.reason [0] NO .sreg .unused .hnd (false) (e.b == 0x7F && (e.lit.getD 0).extractLsb' 0 24 != 0#24)
  | .fork e => e.reason [0] NO .s28z .run .unused (false) (false)
  | .join e => e.reason [0] NO .s28z .sreg .unused (false) (false)
  | .jinit e => e.reason [0] NO .unused .sreg .unused (false) (false)
  | .rdsr e => e.reason [0] NO .sreg .any .any (false) (!sysRegs.contains e.imm14.toNat)
  | .wrsr e => e.reason [0] NO .sreg0 .any .any (false) (!sysRegs.contains e.imm14.toNat)
  | .svc e => e.reason [0] NO .sreg .any .any (odd e.dst) (false)
  | .trap e => e.reason [0] NO .unused .any .any (false) (255 < e.imm14.toNat)
  | .bkpt e => e.reason [0] NO .unused .any .any (false) (255 < e.imm14.toNat)
  | .rft e => e.reason [0] NO .unused .unused .unused (false) (false)
  | .rftSkip e => e.reason [0] NO .unused .skip .unused (false) (false)
  | .locq e => e.reason [0] NO .sreg .offS .hnd (false) (false)
  | .lwake e => e.reason [0] NO .unused .wake .unused (false) (false)
  | .clkrd e => e.reason [0] NO .sreg .unused .unused (odd e.dst) (false)
  | .perfrd e => e.reason [0] NO .sreg .any .any (odd e.dst) (6 < e.imm14.toNat)
  | .arithTrap .. => none
  | .yieldPeriodEnd .. => none
  | .fragmentStarvePromote .. => none
  | .read .. => none
  | .riseC .. => none
  | .riseT .. => none
  | .writeback .. => none
  | .drainNt .. => none
  | .fillL1 .. => none
  | .fillG .. => none
  | .drop .. => none
  | .atomic .. => none
  | .eRead .. => none
  | .eWrite .. => none
  | .engineComplete .. => none
  | .collTimeout .. => none
  | .deviceLinkFail .. => none
  | .hostR .. => none
  | .hostW .. => none
  | .wqDoorbell .. => none
  | .launch .. => none
  | .resume .. => none
  | .edge .. => none
  | .signal .. => none
  | .dutyReply .. => none
  | .wait .. => none
  | .waitSatisfied .. => none
  | .mark .. => none
  | .launchAdmit .. => none
  | .blockPlace .. => none
  | .dequeSteal .. => none
  | .blockEnded .. => none
  | .launchEnd .. => none
  | .preempt .. => none
  | .blockImageWrite .. => none
  | .slotCrcMismatch .. => none
  | .sageMismatch .. => none
  | .sageRestart .. => none
  | .columnTempChange .. => none
  | .thmDwellExpire .. => none
  | .budgetEpoch .. => none
  | .linkNarrow .. => none
  | .linkSleep .. => none
  | .linkFull .. => none
  | .poolRound .. => none
  | .poolNoticeAck .. => none
  | .poolTakeForward .. => none
  | .tileCheckpoint .. => none
  | .tileFault .. => none
  | .tileResetDone .. => none
  | .tileRestoreDone .. => none
  | .tileReplayDone .. => none
  | .memUncorrectable .. => none
  | .railPhaseFail .. => none
  | .operatingPointSet .. => none
  | .cluReq .. => none
  | .cluWake .. => none
  | .cluDrainDone .. => none
  | .cluSaveDone .. => none
  | .cluWakeDone .. => none
  | .coldReset .. => none
  | .ownRel .. => none
  | .scrubDone .. => none
  | .ownEnrol .. => none
  | .ctxEnable .. => none
  | .ctxDisable .. => none
  | .ctxDisableDone .. => none
  | .ctxReload .. => none
  | .xlInv .. => none
  | .xlInvDone .. => none
  | .decantStart .. => none
  | .decantAutoStart .. => none
  | .decantRound .. => none
  | .decantFreezeDone .. => none
  | .evHeadWrite .. => none
  | .fwEnable .. => none
  | .fwDisable .. => none
  | .bootLoad .. => none
  | .bootLoadDone .. => none
  | .attReport .. => none
  | .collLoad .. => none
  | .registerWrite .. => none
  | .illegalInstruction (.opcode _ _) => some 4
  | .illegalInstruction (.header _) => some 1
  | .illegalInstruction (.prefixed _ _) => some 6
  | .unknownPacketType .. => none

end Sys2Proof
end

