-- ==== Sys2Proof/Decode.lean ====
section
/-! DEFINITION. Decoding (R77 to R85, R91): units to an instruction, total on any bytes; and the encoder, written from the same
tables. A word that is no instruction decodes to `illegalInstruction`, whose meaning is the trap of R94; the only refusal is a
stream that ends inside an instruction. -/

namespace Sys2Proof

/-- Why decoding refuses. -/
inductive DecodeErr where
  /-- The stream ends before the instruction's last unit. -/
  | short
  deriving DecidableEq, Repr

/-- A base word's fields (R79), with no prefix and no literal. -/
def fieldsOf (w : Word) : Enc :=
  ⟨none, w.extractLsb' 21 2, w.extractLsb' 14 7, w.extractLsb' 7 7, w.extractLsb' 0 7, none⟩

/-- A word's opcode field (R79). -/
def opField (w : Word) : BitVec 9 := w.extractLsb' 23 9

/-- The prefix word's fields (R84). -/
def prefixOf (w : Word) : Prefix :=
  ⟨w.extractLsb' 20 3, w.extractLsb' 17 3, w.extractLsb' 10 7, w.getLsbD 9, w.getLsbD 8, w.getLsbD 7, w.getLsbD 6,
    w.getLsbD 5, w.getLsbD 4, w.extractLsb' 0 4⟩

/-- The opcode map (R91), control and scalar. -/
def opsControl : List (Nat × (Enc → Instr)) :=
  [
   (0x000, .nop), (0x001, fun e => if e.var == 1 then .brNz e else .brZ e), (0x002, .brv), (0x003, .brx),
   (0x004, fun e => if e.b == 0x7F then .jmp e else .jmpIndirect e),
   (0x005, fun e => if e.b == 0x7F then .call e else .callIndirect e), (0x006, .ret), (0x007, .exit), (0x008, .yield),
   (0x009, .exlw), (0x00A, .exlw2), (0x020, .smov), (0x021, .sli), (0x022, .sadd), (0x023, .ssub), (0x024, .smul),
   (0x025, .smulh), (0x026, .sdiv), (0x027, .srem), (0x028, .sand), (0x029, .sor), (0x02A, .sxor), (0x02B, .snot),
   (0x02C, .sshl), (0x02D, .sshr), (0x02E, .ssar), (0x02F, .smin), (0x030, .smax), (0x031, .scmpEq), (0x032, .scmpNe),
   (0x033, .scmpLt), (0x034, .scmpLe), (0x035, .scmpGt), (0x036, .scmpGe), (0x037, .ssel), (0x038, .sclz),
   (0x039, .spopc), (0x03A, .sbfe), (0x03B, .sbfi), (0x03C, .k2s), (0x03D, .s2k)]

/-- The opcode map (R91), vector integer and mask. -/
def opsVector : List (Nat × (Enc → Instr)) :=
  [
   (0x060, .vmov), (0x061, .vadd), (0x062, .vaddc), (0x063, .vsub), (0x064, .vmul), (0x065, .vmulh), (0x066, .vmad),
   (0x067, .vdiv), (0x068, .vrem), (0x069, .vand), (0x06A, .vor), (0x06B, .vxor), (0x06C, .vnot), (0x06D, .vshl),
   (0x06E, .vshr), (0x06F, .vsar), (0x070, .vmin), (0x071, .vmax), (0x072, .vabs), (0x073, .vneg), (0x074, .vcmpEq),
   (0x075, .vcmpNe), (0x076, .vcmpLt), (0x077, .vcmpLe), (0x078, .vcmpGt), (0x079, .vcmpGe), (0x07A, .vsel),
   (0x07B, .vclz), (0x07C, .vpopc), (0x07D, .vbrev), (0x07E, .vbfe), (0x07F, .vbfi), (0x080, .vdot4), (0x081, .vpack),
   (0x082, .vunpk), (0x083, .kand), (0x084, .kor), (0x085, .kxor), (0x086, .knot), (0x087, .kmov), (0x088, .kpop)]

/-- The opcode map (R91), floating point, lane and quad. -/
def opsFloat : List (Nat × (Enc → Instr)) :=
  [
   (0x0E0, .fadd), (0x0E1, .fsub), (0x0E2, .fmul), (0x0E3, .ffma), (0x0E4, .fmin), (0x0E5, .fmax), (0x0E6, .fcmpEq),
   (0x0E7, .fcmpNe), (0x0E8, .fcmpLt), (0x0E9, .fcmpLe), (0x0EA, .fcmpGt), (0x0EB, .fcmpGe), (0x0EC, .fcmpUn),
   (0x0ED, .fcmpOr), (0x0EE, .frcp), (0x0EF, .frsq), (0x0F0, .fsqrt), (0x0F1, .fdiv), (0x0F2, .fexp2), (0x0F3, .flog2),
   (0x0F4, .fsin), (0x0F5, .fcos), (0x0F6, .ftanh), (0x0F7, .frnd), (0x0F8, .fcvt), (0x0F9, .fcvti), (0x0FA, .icvtf),
   (0x0FB, .fclass), (0x0FC, .fscale), (0x0FD, .fdot2), (0x0FE, .fpack), (0x0FF, .nxenc), (0x100, .nxdec),
   (0x140, .qswz), (0x141, .qbc), (0x142, .lshf), (0x143, .lrot), (0x144, .lbc), (0x145, .lredAdd), (0x146, .lredMin),
   (0x147, .lredMax), (0x148, .lredAnd), (0x149, .lredOr), (0x14A, .lredXor), (0x14B, .lredFadd), (0x14C, .lredFmin),
   (0x14D, .lredFmax), (0x14E, .lscanAdd), (0x14F, .lscanMin), (0x150, .lscanMax), (0x151, .lscanAnd), (0x152, .lscanOr),
   (0x153, .lscanXor), (0x154, .lscanFadd), (0x155, .lscanFmin), (0x156, .lscanFmax), (0x157, .lmatch), (0x158, .lfirst)]

/-- The opcode map (R91), memory, copy and barriers. -/
def opsMemory : List (Nat × (Enc → Instr)) :=
  [
   (0x170, .ldv), (0x171, .stv), (0x172, .ldvAcq), (0x173, .stvRel), (0x174, .lds), (0x175, .sts), (0x176, .ldb),
   (0x177, .stb), (0x178, .stnt), (0x179, .atomvAdd), (0x17A, .atomvMin), (0x17B, .atomvMax), (0x17C, .atomvAnd),
   (0x17D, .atomvOr), (0x17E, .atomvXor), (0x17F, .atomvXchg), (0x180, .atomvCas), (0x181, .atomvFadd),
   (0x182, .atomsAdd), (0x183, .atomsMin), (0x184, .atomsMax), (0x185, .atomsAnd), (0x186, .atomsOr), (0x187, .atomsXor),
   (0x188, .atomsXchg), (0x189, .atomsCas), (0x18A, .atomsFadd), (0x18B, .fenceGrp), (0x18C, .fenceBlk),
   (0x18D, .fenceCls), (0x18E, .fenceTile), (0x18F, .fenceDev), (0x190, .fenceSys), (0x191, .stcq), (0x192, .pfch),
   (0x1A0, fun e => if e.var == 1 then .cpyBar e else .cpy e),
   (0x1A1, fun e => if e.var == 1 then .cpytBar e else .cpyt e), (0x1A2, .cpys), (0x1A3, .cbat), (0x1A4, .cwait),
   (0x1A5, .ctest), (0x1A6, .bari), (0x1A7, .barx), (0x1A8, fun e => if e.var == 1 then .baraX e else .bara e),
   (0x1A9, fun e => if e.var == 1 then .barwT e else .barw e), (0x1AA, .bart), (0x1AB, .bsync), (0x1AC, .clsync),
   (0x1AD, .colr)]

/-- The opcode map (R91), matrix, pool, fork and system. -/
def opsSystem : List (Nat × (Enc → Instr)) :=
  [
   (0x1C0, .mzero), (0x1C1, .mma), (0x1C2, .mmaNx4I8F64), (0x1C3, .mld), (0x1C4, .mst), (0x1C5, .mrd), (0x1C6, .mwr),
   (0x1C7, .mscl), (0x1C8, .mdesc), (0x1E0, .plins), (0x1E1, .pltake), (0x1E2, .plpeek), (0x1E3, .plcnt), (0x1E4, .fork),
   (0x1E5, .join), (0x1E6, .jinit), (0x1F0, .rdsr), (0x1F1, .wrsr), (0x1F2, .svc), (0x1F3, .trap), (0x1F4, .bkpt),
   (0x1F5, fun e => if e.a == 0x70 then .rftSkip e else .rft e), (0x1F6, .locq), (0x1F7, .lwake), (0x1F8, .clkrd),
   (0x1F9, .perfrd)]

/-- The opcode map (R91). A row with a condition is one opcode whose forms the opcode table lists apart. -/
def opcodeMap : List (Nat × (Enc → Instr)) :=
  opsControl ++ opsVector ++ opsFloat ++ opsMemory ++ opsSystem

/-- The instruction an opcode is assigned to, with the given fields (R91). -/
def ofOpcode (op : BitVec 9) (e : Enc) : Instr :=
  match Map.find? opcodeMap op.toNat with
  | some mk => mk e
  | none => .illegalInstruction (.opcode op e)

/-- Opcodes whose field A is not an operand field that the instruction reads (R78): a number, an offset, or unused. -/
def noFieldA : List Nat :=
  [
   0x000, 0x001, 0x002, 0x004, 0x005, 0x007, 0x008, 0x021, 0x18B, 0x18C, 0x18D, 0x18E, 0x18F, 0x190, 0x1A3, 0x1AC, 0x1C0,
   0x1C4, 0x1E2, 0x1E3, 0x1F0, 0x1F1, 0x1F2, 0x1F3, 0x1F4, 0x1F8, 0x1F9]

/-- Opcodes whose field B is not an operand field that the instruction reads (R78). -/
def noFieldB : List Nat :=
  [
   0x000, 0x006, 0x007, 0x008, 0x009, 0x00A, 0x020, 0x021, 0x02B, 0x038, 0x039, 0x060, 0x06C, 0x072, 0x073, 0x07B, 0x07C,
   0x07D, 0x082, 0x086, 0x087, 0x088, 0x0EE, 0x0EF, 0x0F0, 0x0F2, 0x0F3, 0x0F4, 0x0F5, 0x0F6, 0x0F7, 0x0FB, 0x0FF, 0x145,
   0x146, 0x147, 0x148, 0x149, 0x14A, 0x14B, 0x14C, 0x14D, 0x14E, 0x14F, 0x150, 0x151, 0x152, 0x153, 0x154, 0x155, 0x156,
   0x157, 0x158, 0x18B, 0x18C, 0x18D, 0x18E, 0x18F, 0x190, 0x1A3, 0x1A4, 0x1A5, 0x1AA, 0x1AB, 0x1AC, 0x1C0, 0x1C3, 0x1C5,
   0x1C6, 0x1E4, 0x1E5, 0x1E6, 0x1F0, 0x1F1, 0x1F2, 0x1F3, 0x1F4, 0x1F5, 0x1F7, 0x1F8, 0x1F9]

/-- Opcodes whose field DST is not an operand field that the instruction reads (R78). -/
def noFieldDst : List Nat :=
  [
   0x000, 0x001, 0x002, 0x003, 0x004, 0x006, 0x007, 0x008, 0x009, 0x00A, 0x18B, 0x18C, 0x18D, 0x18E, 0x18F, 0x190,
   0x192, 0x1A4, 0x1AA, 0x1AB, 0x1AC, 0x1AD, 0x1E6, 0x1F3, 0x1F4, 0x1F5, 0x1F7]

/-- Whether a literal unit follows the base word (R78, R83): 0x7F in a field that the instruction reads as an operand field, or in
the prefix's D4. For an opcode that R91 assigns to no instruction, A and B count and DST does not. -/
def takesLiteral (op : BitVec 9) (e : Enc) : Bool :=
  (e.dst == 0x7F && !noFieldDst.contains op.toNat && (Map.find? opcodeMap op.toNat).isSome) || (e.a == 0x7F && !noFieldA.contains op.toNat) || (e.b == 0x7F && !noFieldB.contains op.toNat) || e.p.d4 == 0x7F

/-- Decodes from the base word `w` on, after the prefix `p`, if any. -/
def decodeBase (p : Option Prefix) (w : Word) (rest : List Word) : Except DecodeErr (Instr × List Word) :=
  let e := { fieldsOf w with pfx := p }
  if takesLiteral (opField w) e then
    match rest with
    | l :: rest => .ok (ofOpcode (opField w) { e with lit := some l }, rest)
    | [] => .error .short
  else .ok (ofOpcode (opField w) e, rest)

/-- Decodes the instruction at the head of a stream of units (R77, R78) and gives the units after it. -/
def decodeUnits : List Word → Except DecodeErr (Instr × List Word)
  | [] => .error .short
  | w :: rest =>
    if opField w = 0x1FE then .ok (.illegalInstruction (.header w), rest)
    else if opField w = 0x1FF then
      match rest with
      | [] => .error .short
      | u :: rest' =>
        if 0x1FE ≤ (opField u).toNat then .ok (.illegalInstruction (.prefixed (prefixOf w) u), u :: rest')
        else decodeBase (some (prefixOf w)) u rest'
    else decodeBase none w rest

/-- The units of a byte stream (R10: a unit's bytes are little-endian); bytes after the last whole unit are left out. -/
def unitsOf : List Byte → List Word
  | b0 :: b1 :: b2 :: b3 :: bs => (b3 ++ b2 ++ b1 ++ b0) :: unitsOf bs
  | _ => []

/-- The bytes of a unit. -/
def unitBytes (w : Word) : List Byte :=
  [w.extractLsb' 0 8, w.extractLsb' 8 8, w.extractLsb' 16 8, w.extractLsb' 24 8]

/-- Decodes the instruction at the head of a byte stream and gives the bytes after it, in whole units. -/
def decode (bs : List Byte) : Except DecodeErr (Instr × List Byte) :=
  match decodeUnits (unitsOf bs) with
  | .ok (i, rest) => .ok (i, rest.flatMap unitBytes)
  | .error r => .error r

/-- The opcode and fields of an instruction that has a word (R91). -/
def opcodeOf : Instr → Option (BitVec 9 × Enc)
  | .nop e => some (0x000, e)
  | .brZ e => some (0x001, e)
  | .brNz e => some (0x001, e)
  | .brv e => some (0x002, e)
  | .brx e => some (0x003, e)
  | .jmp e => some (0x004, e)
  | .jmpIndirect e => some (0x004, e)
  | .call e => some (0x005, e)
  | .callIndirect e => some (0x005, e)
  | .ret e => some (0x006, e)
  | .exit e => some (0x007, e)
  | .yield e => some (0x008, e)
  | .exlw e => some (0x009, e)
  | .exlw2 e => some (0x00A, e)
  | .smov e => some (0x020, e)
  | .sli e => some (0x021, e)
  | .sadd e => some (0x022, e)
  | .ssub e => some (0x023, e)
  | .smul e => some (0x024, e)
  | .smulh e => some (0x025, e)
  | .sdiv e => some (0x026, e)
  | .srem e => some (0x027, e)
  | .sand e => some (0x028, e)
  | .sor e => some (0x029, e)
  | .sxor e => some (0x02A, e)
  | .snot e => some (0x02B, e)
  | .sshl e => some (0x02C, e)
  | .sshr e => some (0x02D, e)
  | .ssar e => some (0x02E, e)
  | .smin e => some (0x02F, e)
  | .smax e => some (0x030, e)
  | .scmpEq e => some (0x031, e)
  | .scmpNe e => some (0x032, e)
  | .scmpLt e => some (0x033, e)
  | .scmpLe e => some (0x034, e)
  | .scmpGt e => some (0x035, e)
  | .scmpGe e => some (0x036, e)
  | .ssel e => some (0x037, e)
  | .sclz e => some (0x038, e)
  | .spopc e => some (0x039, e)
  | .sbfe e => some (0x03A, e)
  | .sbfi e => some (0x03B, e)
  | .k2s e => some (0x03C, e)
  | .s2k e => some (0x03D, e)
  | .vmov e => some (0x060, e)
  | .vadd e => some (0x061, e)
  | .vaddc e => some (0x062, e)
  | .vsub e => some (0x063, e)
  | .vmul e => some (0x064, e)
  | .vmulh e => some (0x065, e)
  | .vmad e => some (0x066, e)
  | .vdiv e => some (0x067, e)
  | .vrem e => some (0x068, e)
  | .vand e => some (0x069, e)
  | .vor e => some (0x06A, e)
  | .vxor e => some (0x06B, e)
  | .vnot e => some (0x06C, e)
  | .vshl e => some (0x06D, e)
  | .vshr e => some (0x06E, e)
  | .vsar e => some (0x06F, e)
  | .vmin e => some (0x070, e)
  | .vmax e => some (0x071, e)
  | .vabs e => some (0x072, e)
  | .vneg e => some (0x073, e)
  | .vcmpEq e => some (0x074, e)
  | .vcmpNe e => some (0x075, e)
  | .vcmpLt e => some (0x076, e)
  | .vcmpLe e => some (0x077, e)
  | .vcmpGt e => some (0x078, e)
  | .vcmpGe e => some (0x079, e)
  | .vsel e => some (0x07A, e)
  | .vclz e => some (0x07B, e)
  | .vpopc e => some (0x07C, e)
  | .vbrev e => some (0x07D, e)
  | .vbfe e => some (0x07E, e)
  | .vbfi e => some (0x07F, e)
  | .vdot4 e => some (0x080, e)
  | .vpack e => some (0x081, e)
  | .vunpk e => some (0x082, e)
  | .kand e => some (0x083, e)
  | .kor e => some (0x084, e)
  | .kxor e => some (0x085, e)
  | .knot e => some (0x086, e)
  | .kmov e => some (0x087, e)
  | .kpop e => some (0x088, e)
  | .fadd e => some (0x0E0, e)
  | .fsub e => some (0x0E1, e)
  | .fmul e => some (0x0E2, e)
  | .ffma e => some (0x0E3, e)
  | .fmin e => some (0x0E4, e)
  | .fmax e => some (0x0E5, e)
  | .fcmpEq e => some (0x0E6, e)
  | .fcmpNe e => some (0x0E7, e)
  | .fcmpLt e => some (0x0E8, e)
  | .fcmpLe e => some (0x0E9, e)
  | .fcmpGt e => some (0x0EA, e)
  | .fcmpGe e => some (0x0EB, e)
  | .fcmpUn e => some (0x0EC, e)
  | .fcmpOr e => some (0x0ED, e)
  | .frcp e => some (0x0EE, e)
  | .frsq e => some (0x0EF, e)
  | .fsqrt e => some (0x0F0, e)
  | .fdiv e => some (0x0F1, e)
  | .fexp2 e => some (0x0F2, e)
  | .flog2 e => some (0x0F3, e)
  | .fsin e => some (0x0F4, e)
  | .fcos e => some (0x0F5, e)
  | .ftanh e => some (0x0F6, e)
  | .frnd e => some (0x0F7, e)
  | .fcvt e => some (0x0F8, e)
  | .fcvti e => some (0x0F9, e)
  | .icvtf e => some (0x0FA, e)
  | .fclass e => some (0x0FB, e)
  | .fscale e => some (0x0FC, e)
  | .fdot2 e => some (0x0FD, e)
  | .fpack e => some (0x0FE, e)
  | .nxenc e => some (0x0FF, e)
  | .nxdec e => some (0x100, e)
  | .qswz e => some (0x140, e)
  | .qbc e => some (0x141, e)
  | .lshf e => some (0x142, e)
  | .lrot e => some (0x143, e)
  | .lbc e => some (0x144, e)
  | .lredAdd e => some (0x145, e)
  | .lredMin e => some (0x146, e)
  | .lredMax e => some (0x147, e)
  | .lredAnd e => some (0x148, e)
  | .lredOr e => some (0x149, e)
  | .lredXor e => some (0x14A, e)
  | .lredFadd e => some (0x14B, e)
  | .lredFmin e => some (0x14C, e)
  | .lredFmax e => some (0x14D, e)
  | .lscanAdd e => some (0x14E, e)
  | .lscanMin e => some (0x14F, e)
  | .lscanMax e => some (0x150, e)
  | .lscanAnd e => some (0x151, e)
  | .lscanOr e => some (0x152, e)
  | .lscanXor e => some (0x153, e)
  | .lscanFadd e => some (0x154, e)
  | .lscanFmin e => some (0x155, e)
  | .lscanFmax e => some (0x156, e)
  | .lmatch e => some (0x157, e)
  | .lfirst e => some (0x158, e)
  | .ldv e => some (0x170, e)
  | .stv e => some (0x171, e)
  | .ldvAcq e => some (0x172, e)
  | .stvRel e => some (0x173, e)
  | .lds e => some (0x174, e)
  | .sts e => some (0x175, e)
  | .ldb e => some (0x176, e)
  | .stb e => some (0x177, e)
  | .stnt e => some (0x178, e)
  | .atomvAdd e => some (0x179, e)
  | .atomvMin e => some (0x17A, e)
  | .atomvMax e => some (0x17B, e)
  | .atomvAnd e => some (0x17C, e)
  | .atomvOr e => some (0x17D, e)
  | .atomvXor e => some (0x17E, e)
  | .atomvXchg e => some (0x17F, e)
  | .atomvCas e => some (0x180, e)
  | .atomvFadd e => some (0x181, e)
  | .atomsAdd e => some (0x182, e)
  | .atomsMin e => some (0x183, e)
  | .atomsMax e => some (0x184, e)
  | .atomsAnd e => some (0x185, e)
  | .atomsOr e => some (0x186, e)
  | .atomsXor e => some (0x187, e)
  | .atomsXchg e => some (0x188, e)
  | .atomsCas e => some (0x189, e)
  | .atomsFadd e => some (0x18A, e)
  | .fenceGrp e => some (0x18B, e)
  | .fenceBlk e => some (0x18C, e)
  | .fenceCls e => some (0x18D, e)
  | .fenceTile e => some (0x18E, e)
  | .fenceDev e => some (0x18F, e)
  | .fenceSys e => some (0x190, e)
  | .stcq e => some (0x191, e)
  | .pfch e => some (0x192, e)
  | .cpy e => some (0x1A0, e)
  | .cpyBar e => some (0x1A0, e)
  | .cpyt e => some (0x1A1, e)
  | .cpytBar e => some (0x1A1, e)
  | .cpys e => some (0x1A2, e)
  | .cbat e => some (0x1A3, e)
  | .cwait e => some (0x1A4, e)
  | .ctest e => some (0x1A5, e)
  | .bari e => some (0x1A6, e)
  | .barx e => some (0x1A7, e)
  | .bara e => some (0x1A8, e)
  | .baraX e => some (0x1A8, e)
  | .barw e => some (0x1A9, e)
  | .barwT e => some (0x1A9, e)
  | .bart e => some (0x1AA, e)
  | .bsync e => some (0x1AB, e)
  | .clsync e => some (0x1AC, e)
  | .colr e => some (0x1AD, e)
  | .mzero e => some (0x1C0, e)
  | .mma e => some (0x1C1, e)
  | .mmaNx4I8F64 e => some (0x1C2, e)
  | .mld e => some (0x1C3, e)
  | .mst e => some (0x1C4, e)
  | .mrd e => some (0x1C5, e)
  | .mwr e => some (0x1C6, e)
  | .mscl e => some (0x1C7, e)
  | .mdesc e => some (0x1C8, e)
  | .plins e => some (0x1E0, e)
  | .pltake e => some (0x1E1, e)
  | .plpeek e => some (0x1E2, e)
  | .plcnt e => some (0x1E3, e)
  | .fork e => some (0x1E4, e)
  | .join e => some (0x1E5, e)
  | .jinit e => some (0x1E6, e)
  | .rdsr e => some (0x1F0, e)
  | .wrsr e => some (0x1F1, e)
  | .svc e => some (0x1F2, e)
  | .trap e => some (0x1F3, e)
  | .bkpt e => some (0x1F4, e)
  | .rft e => some (0x1F5, e)
  | .rftSkip e => some (0x1F5, e)
  | .locq e => some (0x1F6, e)
  | .lwake e => some (0x1F7, e)
  | .clkrd e => some (0x1F8, e)
  | .perfrd e => some (0x1F9, e)
  | .arithTrap .. => none
  | .yieldPeriodEnd .. => none
  | .fragmentStarvePromote .. => none
  | .read .. => none
  | .riseC .. => none
  | .riseT .. => none
  | .writeback .. => none
  | .drainNt .. => none
  | .fillL1 .. => none
  | .fillG .. => none
  | .drop .. => none
  | .atomic .. => none
  | .eRead .. => none
  | .eWrite .. => none
  | .engineComplete .. => none
  | .collTimeout .. => none
  | .deviceLinkFail .. => none
  | .hostR .. => none
  | .hostW .. => none
  | .wqDoorbell .. => none
  | .launch .. => none
  | .resume .. => none
  | .edge .. => none
  | .signal .. => none
  | .dutyReply .. => none
  | .wait .. => none
  | .waitSatisfied .. => none
  | .mark .. => none
  | .launchAdmit .. => none
  | .blockPlace .. => none
  | .dequeSteal .. => none
  | .blockEnded .. => none
  | .launchEnd .. => none
  | .preempt .. => none
  | .blockImageWrite .. => none
  | .slotCrcMismatch .. => none
  | .sageMismatch .. => none
  | .sageRestart .. => none
  | .columnTempChange .. => none
  | .thmDwellExpire .. => none
  | .budgetEpoch .. => none
  | .linkNarrow .. => none
  | .linkSleep .. => none
  | .linkFull .. => none
  | .poolRound .. => none
  | .poolNoticeAck .. => none
  | .poolTakeForward .. => none
  | .tileCheckpoint .. => none
  | .tileFault .. => none
  | .tileResetDone .. => none
  | .tileRestoreDone .. => none
  | .tileReplayDone .. => none
  | .memUncorrectable .. => none
  | .railPhaseFail .. => none
  | .operatingPointSet .. => none
  | .cluReq .. => none
  | .cluWake .. => none
  | .cluDrainDone .. => none
  | .cluSaveDone .. => none
  | .cluWakeDone .. => none
  | .coldReset .. => none
  | .ownRel .. => none
  | .scrubDone .. => none
  | .ownEnrol .. => none
  | .ctxEnable .. => none
  | .ctxDisable .. => none
  | .ctxDisableDone .. => none
  | .ctxReload .. => none
  | .xlInv .. => none
  | .xlInvDone .. => none
  | .decantStart .. => none
  | .decantAutoStart .. => none
  | .decantRound .. => none
  | .decantFreezeDone .. => none
  | .evHeadWrite .. => none
  | .fwEnable .. => none
  | .fwDisable .. => none
  | .bootLoad .. => none
  | .bootLoadDone .. => none
  | .attReport .. => none
  | .collLoad .. => none
  | .registerWrite .. => none
  | .illegalInstruction (.opcode op e) => some (op, e)
  | .illegalInstruction (.header _) => none
  | .illegalInstruction (.prefixed _ _) => none
  | .unknownPacketType .. => none

/-- The base word of R79. -/
def baseWord (op : BitVec 9) (e : Enc) : Word := op ++ e.var ++ e.dst ++ e.a ++ e.b

def bit1 (b : Bool) : BitVec 1 := BitVec.ofBool b

/-- The prefix word of R84. -/
def prefixWord (p : Prefix) : Word :=
  (0x1FF : BitVec 9) ++ p.msk ++ p.rnd ++ p.d4 ++ bit1 p.zero ++ bit1 p.inv ++ bit1 p.sat ++ bit1 p.na ++ bit1 p.nb
    ++ bit1 p.aa ++ p.xl

/-- The units of an instruction: prefix, base word, literal (R77). A step or event has none. -/
def encode (i : Instr) : List Word :=
  match opcodeOf i with
  | some (op, e) => (e.pfx.map prefixWord).toList ++ [baseWord op e] ++ e.lit.toList
  | none =>
    match i with
    | .illegalInstruction (.header u) => [u]
    | .illegalInstruction (.prefixed p u) => [prefixWord p, u]
    | _ => []

/-- The bytes of an instruction. -/
def encodeBytes (i : Instr) : List Byte := (encode i).flatMap unitBytes

/-- The units of an instruction whose table bits are w: its first unit is bits 31..0, and every bit above nbits is 0. -/
def tableUnits (nbits w : Nat) : List Word :=
  let v := w % 2 ^ nbits
  [BitVec.ofNat 32 v, BitVec.ofNat 32 (v / 2 ^ 32), BitVec.ofNat 32 (v / 2 ^ 64)]

/-- The instruction the decoder reads from the bits of an opcode-table row (bit 0 the least significant bit of the first
unit). -/
def decodeTableWord (nbits w : Nat) : Option Instr :=
  match decode ((tableUnits nbits w).flatMap unitBytes) with
  | .ok (i, _) => some i
  | .error _ => none

end Sys2Proof
end

