-- ==== Sys2Proof/Config.lean ====
section
/-! DEFINITION. What an implementation fixes, and the free values: what the spec leaves open is a constant with no body, so
nothing can be proved from its value. -/

namespace Sys2Proof.Config

/-- Core clocks that pass in a step, by its place in the issue order: the model keeps no cycle count (R367, assumption 2). -/
opaque extraClocks : Nat → Nat

/-- The n-th free value drawn: the timing counters of PERFRD (R367), which rise by it, and the FAIL of a JOIN without an object (R300); assumption 5. -/
opaque freeValue : Nat → BitVec 64

/-- The vendor's public key for firmware (R360), byte by byte; assumption 5. -/
opaque vendorKey : Nat → Byte

/-- The SHAKE256 digest of the vendor's image of a kind, which runs until an owner image is loaded (R361), byte by byte; assumption 5. -/
opaque vendorDigest : Nat → Nat → Byte

/-- Byte a of controller n's memory where its code has written nothing and no owner image lies: the vendor's image or what the spec does
not give (R15, R360); assumption 5. -/
opaque ctrlByte : Nat → Nat → Byte

/-- The 96 bytes of the module's attestation key, made at manufacture (R361); assumption 5. -/
opaque attestSecret : Nat → Byte

/-- The randomness of the n-th attestation report's signature (R361), byte by byte; assumption 5. -/
opaque attestRandom : Nat → Nat → Byte

/-- Byte i of the n-th checkpoint: the spec gives its contents and not their layout (R384, assumption 5). -/
opaque checkpointByte : Nat → Nat → Byte

/-- Byte i of the n-th host read, where it falls in a lane slice: the host reaches none (R208, R350, assumption 5). -/
opaque sliceByte : Nat → Nat → Byte

/-- Whether the module power loop leaves boost open in the n-th epoch (R293, assumption 5). -/
opaque boostOpen : Nat → Bool

/-- Whether the load of so many clusters fits the rails' current limits (R390, assumption 5). -/
opaque loadFits : Nat → List Nat → Bool

/-- The other members of a collective set, by set, order of issue, member and byte: what the member's source holds (R237), and
whether the members' descriptors match (R238). They are other modules (assumption 5). -/
opaque memberByte : Nat → Nat → Nat → Nat → Byte
opaque membersMatch : Nat → Nat → Bool

/-- Bytes that a failed link leaves in a collective's destination: true where the result byte was written (R238). -/
opaque linkWrote : Nat → Nat → Bool

/-- Whether the n-th sage-pair mismatch that follows a restart falls within 1 s of it (R388; time is not kept, assumption 2). -/
opaque withinSecond : Nat → Bool

/-- The base budget in bytes that the control loop sets for a cluster in the n-th epoch (R292; assumption 5). -/
opaque baseBudget : Nat → Nat → Nat

/-- Lines that the cellar control loop grants to keep lines of a tile (R171, assumption 5). -/
opaque keepShare : Nat → Nat

/-- The lowest operating point in MHz (R390): the spec gives no number (assumption 5). -/
opaque lowestMhz : Nat

/-- The factory current limit of rail n in amperes (R389). The spec gives none: 0 (DESIGN CHOICE, assumption 3). -/
def factoryIlim (_rail : Nat) : Nat := 0

/-- GiB of memory that link training found behind CXL port p (R27, R349); assumption 5. -/
opaque cxlFound : Nat → Nat

/-- GiB populated behind CXL port p: what was found, at most 7,168 (R27). -/
def cxlGiB (port : Nat) : Nat := min 7168 (cxlFound port)

/-- Factory width of a core: 0 full width, 1 half A retired, 2 half B retired, 3 disabled (R24, R163). A module whose cores are
all at full width (assumption 3). -/
def factoryWidth (_core : Nat) : Nat := 0

end Sys2Proof.Config
end

