-- ==== Sys2Proof/Machine/State.lean ====
section
/-! DEFINITION. The state of the module: every piece of state the spec gives it, as plain data, and the state right after
reset. INVENTORY.md lists each field with the rule that names it. -/

namespace Sys2Proof.Machine

/-- Why a step stops with a fault. -/
inductive Fault where
  /-- Raised by the meaning of an instruction when the place `State.cur` names holds no fragment: no instruction can issue
  there. Safe: no run reaches it, since `step` only issues a fragment that it finds in a split table (R243, assumption 6). -/
  | noIssuer
  deriving DecidableEq, Repr

/-- Why a step gives an instruction no meaning. -/
inductive Refusal where
  /-- Raised by `exec` for an instruction whose meaning is not written yet. Safe. No arm raises it now. -/
  | notModelled (mnemonic : String)
  deriving DecidableEq, Repr

/-- Page kinds (R173). -/
inductive PageKind where
  | rc | so | uo
  deriving DecidableEq, Repr

/-- Scopes, from narrow to wide (R183, R187, R193). -/
inductive Scope where
  | grp | blk | cls | tile | dev | sys
  deriving DecidableEq, Repr

/-- Where a byte has its point of coherence (R165, R192): a global byte by physical address, a lane-slice byte by physical
address (held only at home, R205), a core-scratchpad byte at 524,288 × core + offset, a tile-scratchpad byte at
33,554,432 × tile + offset. -/
inductive Space where
  | glob | slice | spad | tpad
  deriving DecidableEq, Repr

structure Loc where
  sp   : Space
  addr : Nat
  deriving DecidableEq, Repr

/-- Memory in canonical form: addresses strictly rising, no entry equal to what an unlisted address reads as. -/
abbrev Mem := List Host.Cell

/-- Where a byte that a read returns goes: nowhere, for a lane (255 for none), a byte of a vector register's lane, a byte of a scalar,
or a byte of the operands of a matrix instruction, by split-table entry (R148). -/
inductive Dest where
  | drop (lane : Nat)
  | vec (reg lane byte : Nat)
  | sca (reg byte : Nat)
  | buf (ent byte : Nat)
  deriving DecidableEq, Repr

/-- The read-modify-write operations of R185 and R186. -/
inductive AOp where
  | add | min | max | and | or | xor | xchg | cas | fadd
  deriving DecidableEq, Repr

/-- One lane's atomic: operation, type, bytes, operand, compare value, and the register its old value goes to. -/
structure AtomReq where
  op   : AOp
  var  : BitVec 2
  n    : Nat
  arg  : Nat
  cmp  : Nat
  dest : Dest
  deriving DecidableEq, Repr

/-- What an update of an arrival barrier does (R228, R229); `dest` is the scalar that receives PHASE. -/
inductive BarOp where
  | init (a : Nat)
  | update (arrivals : Nat) (bytes : Word) (dest : Option Nat)
  deriving DecidableEq, Repr

/-- The memory operand a STCQ keeps until its fetch-add is performed (R188); `lane` is the lane whose slice h0 reaches (R409), `avoid`
the bytes of pointers of later compressing stores whose fetch-adds went first, which its entries may not touch (R196, R204). -/
structure StcqReq where
  handle : Nat
  lane   : Option Nat
  disp   : Int
  cnt    : Nat
  dst    : Nat
  data   : List (Nat × Word)
  avoid  : List Loc
  deriving DecidableEq, Repr

/-- An event of an issue queue (R190, R192); a PLINS puts one insert per lane there (R319, R322), `kreg` 0 for none. -/
inductive IqKind where
  | load (line : Nat) (bytes : List (Nat × Dest)) (acq : Option Scope)
  | fence (sc : Scope)
  | atom (addr : Nat) (a : AtomReq)
  | bar (addr : Nat) (op : BarOp)
  | stcq (addr : Nat) (q : StcqReq)
  | jinit (addr : Nat)
  | plins (pool lane key pay kreg : Nat)
  deriving DecidableEq, Repr

/-- A latched lane word with the lanes that hold it (R268); `wide` for EXLW2. -/
structure LaneWord where
  value : DWord
  wide  : Bool
  lanes : Mask
  deriving DecidableEq, Repr

/-- Where an instruction stood when it issued: code handle, PC, header of its block, for a lane word the list and its rank, and its
Active lanes. A fault found later is reported there (R369, R370). -/
structure Site where
  hnd     : Nat
  pc      : Nat
  blk     : Nat
  latch   : List LaneWord
  latchAt : Nat
  lanes   : Mask
  deriving DecidableEq, Repr

/-- An event of IQ(g), not yet performed: its number, group, fragment entry, place in the issue order, space, page kind, instruction,
the reuse class and count of its handle (R171), and, for an acquire, whether a later access of its group to a UO page has been
performed (R219). -/
structure IqEv where
  id   : Nat
  gid  : Nat
  ent  : Nat
  seq  : Nat
  sp   : Space
  ord  : PageKind
  kind : IqKind
  site : Site
  cls  : Nat × Nat
  late : Bool
  deriving DecidableEq, Repr

/-- A write unit: the bytes of one instruction that fall in one line (R196), with its group, core, tile, place in the issue
order, page kind, release scope, the groups that have read it before it joined the coherence order and the writes that some group
saw before it (R198), whether it is an aligned 128-byte STB beat (R387), and the reuse class and count of its handle (R171). -/
structure WEv where
  id    : Nat
  gid   : Nat
  core  : Nat
  tile  : Nat
  seq   : Nat
  sp    : Space
  line  : Nat
  ord   : PageKind
  rel   : Option Scope
  bytes : List (Nat × Byte)
  obs   : List Nat
  pre   : List Nat
  whole : Bool
  cls   : Nat × Nat
  deriving DecidableEq, Repr

/-- A copy of a global line in a first-level cache (place = core) or in a cellar away from home (place = tile), with each byte's
position in the coherence order, the groups it is stale for (R201), whether it is dirty, the writes it holds that have not
reached home (group, place in the issue order, page kind), and its reuse class (R171): that of the handle of the most recent
fetch, with the hits left of a counted line. -/
structure Copy where
  place   : Nat
  line    : Nat
  bytes   : List Byte
  vers    : List Nat
  stale   : List Nat
  dirty   : Bool
  writers : List (Nat × Nat × PageKind)
  cls     : Nat × Nat
  deriving DecidableEq, Repr

/-- A line that a pending read of a decoded alias, an engine thread's read of one, or a matrix instruction's read of its outliers has
read at its home (R76, R151): the reader's number, the line, its bytes and their
positions in the coherence order. -/
structure Part where
  id    : Nat
  line  : Nat
  bytes : List Byte
  vers  : List Nat
  deriving DecidableEq, Repr

/-- An instruction-cache line of a core (R97), by where its bytes lie. -/
structure ICLine where
  core  : Nat
  sp    : Space
  line  : Nat
  bytes : List Byte
  deriving DecidableEq, Repr

/-- A TLB entry (R338): context, virtual page base, size, frame, rights and kind; `place` is the core or the tile. `parts` are the
entries of the page, by their number from its start, that translate so: each address translates by the entry it indexes (R335). -/
structure TlbEnt where
  place : Nat
  ctx   : Nat
  va    : Nat
  size  : Nat
  pa    : Nat
  r     : Bool
  w     : Bool
  x     : Bool
  ord   : PageKind
  parts : List Nat
  deriving DecidableEq, Repr

/-- One end of a transfer: a virtual address of a context, a byte of a space, or an offset of a cluster window, whose slots
begin at the core-scratchpad bytes `starts` (R166). -/
inductive EndPt where
  | va (a : Nat)
  | pt (sp : Space) (a : Nat)
  | win (starts : List Nat) (off : Nat)
  deriving DecidableEq, Repr

/-- What an engine thread completes (R207): the open batch, a barrier credit (R230), or a counter add (R225). -/
inductive Compl where
  | batch
  | credit (at_ : Loc) (bytes : Nat)
  | counter (at_ : EndPt) (addend : Word)
  deriving DecidableEq, Repr

/-- The box of a CPYT (R224): element size, extents, start coordinates, sizes, strides, span, destination offset. -/
structure Box where
  z    : Nat
  ext  : List Nat
  cst  : List Nat
  size : List Nat
  strd : List Nat
  span : Nat
  doff : Nat
  deriving DecidableEq, Repr

/-- A COLR's descriptor and its place in the matching (R236, R238). -/
structure Coll where
  set   : Nat
  kind  : Nat
  op    : Nat
  ty    : Nat
  count : Nat
  order : Nat
  stat  : EndPt
  link  : Bool
  timed : Bool
  told  : Bool
  deriving DecidableEq, Repr

inductive EngKind where
  | copy
  | box (b : Box)
  | coll (c : Coll)
  deriving DecidableEq, Repr

/-- An engine thread (R207): the fragment entry and instruction that forked it, what it moves, the bytes it has read and not yet
written, the bytes it has written, what its group had seen when the block ended (R220), and the reuse classes of its source and
its destination (R171). -/
structure Engine where
  gid   : Nat
  ent   : Nat
  site  : Site
  core  : Nat
  tile  : Nat
  ctx   : Nat
  seq   : Nat
  sigma : Scope
  kind  : EngKind
  src   : EndPt
  dst   : EndPt
  n     : Nat
  got   : List (Nat × Byte)
  wrote : List Nat
  done  : Compl
  seen  : Map Nat
  cls   : (Nat × Nat) × (Nat × Nat)
  deriving DecidableEq, Repr

/-- Sticky IEEE flags, one mask of lanes each (R65). -/
structure Flags where
  nv : Mask
  dz : Mask
  oflow : Mask
  uf : Mask
  nx : Mask
  deriving DecidableEq, Repr

/-- STATE of a fragment (R253). -/
inductive FState where
  | ready | waiting | pending | handler
  deriving DecidableEq, Repr

/-- What TRAP.* will hold once a trap is delivered (R370). -/
structure TrapRec where
  cause  : Nat
  detail : Nat
  hnd    : Nat
  pc     : Nat
  lanes  : Mask
  word   : Nat
  addr   : Nat
  latch  : List LaneWord
  deriving DecidableEq, Repr

/-- A PLTAKE in progress: its place in the issue order, the instruction, the lanes not yet answered, and the answers (R320). -/
structure PoolReq where
  seq  : Nat
  e    : Enc
  left : List Nat
  res  : List (Nat × Option (Nat × Nat))
  deriving DecidableEq, Repr

/-- A fragment (R246) with its code handle, scheduling state (R302: the place of its last issue; whether it is within its YIELD
period, and the place of that YIELD; whether it has been ready for 64 cycles; whether it is ready, and since when), the EXLW words in
progress (R268), the barrier it is parked
at (R234: number, 16 for CLSYNC, and phase), its pool instruction in progress, the operand bytes of its matrix instruction as they
arrive (R148), and its undelivered trap (R375). -/
structure Frag where
  hnd     : Nat
  pc      : Nat
  blk     : Nat
  act     : Mask
  fe      : Option Nat
  st      : FState
  last    : Nat
  yielded : Bool
  yieldAt : Nat
  starved : Bool
  rdy     : Bool
  since   : Nat
  latch   : List LaneWord
  latchAt : Nat
  park    : Option (Nat × Nat)
  pool    : Option PoolReq
  buf     : Option (List Byte)
  trap    : Option TrapRec
  deriving DecidableEq, Repr

/-- A fusion record (R246). -/
structure Fusion where
  hnd : Nat
  fpc : Nat
  exp : Mask
  arr : Mask
  fe  : Option Nat
  deriving DecidableEq, Repr

inductive Entry where
  | free
  | frag (f : Frag)
  | fusion (r : Fusion)
  deriving DecidableEq, Repr

/-- A deferral record (R247); the list of a group holds them oldest first. `blk` is the header of the block that PCN lies in. -/
structure Defer where
  owner : Nat
  hnd   : Nat
  fpc   : Nat
  pcn   : Nat
  blk   : Nat
  nmask : Mask
  arr   : Mask
  deriving DecidableEq, Repr

/-- The trap registers of a group (R370), with what its trap state keeps beside them: the header of the block that trapped,
whether the handler wrote TRAP.PC (R377), the latched list and the address of its EXLW (R269), and the place in the issue
order of a delivery whose handler has not issued yet (R375). -/
structure TrapRegs where
  ch      : BitVec 8
  detail  : BitVec 8
  cause   : BitVec 8
  pc      : BitVec 27
  lanes   : Mask
  word    : BitVec 7
  addr    : Word
  blk     : Nat
  written : Bool
  latch   : List LaneWord
  exlw    : Nat
  fresh   : Option Nat
  deriving DecidableEq, Repr

/-- A group (R240): its lanes and helper lanes, registers, flags, split table and everything else it shares. `barWait` holds the
arrivals of BART whose release is not complete (R234): barrier, place in the issue order, lanes. `exitAt` is the place of its last
EXIT. -/
structure Group where
  sector  : Nat
  slot    : Nat
  lanes   : Mask
  helpers : Mask
  v       : Map (List Word)
  s       : Map Word
  k       : Map Mask
  tiles   : Map (List Word)
  icnt    : List Word
  fl      : Flags
  drm     : BitVec 3
  fpe     : BitVec 5
  lastb   : Word
  openSet : List (Nat × Scope)
  batches : List (Nat × List (Nat × Scope))
  table   : Map Entry
  defer   : List Defer
  trap    : TrapRegs
  barArr  : Map Mask
  barWait : List (Nat × Nat × Mask)
  clArr   : Mask
  exitAt  : Nat
  perf    : Map Nat
  seen    : Map Nat
  deriving DecidableEq, Repr

/-- A forked child's record (R298, R299). -/
structure Child where
  lid    : Nat
  entry  : Word
  arg    : Word
  join   : Word
  parent : Nat
  deriving DecidableEq, Repr

/-- Why a block is being evicted (R295, R365, R369, R374). -/
inductive Evict where
  | preempt
  | svc (n : Nat) (lo hi : Word)
  | service
  deriving DecidableEq, Repr

/-- How far a block has come: `over` once it counts as ended while engine threads still use its scratchpad (R221, R251). -/
inductive BState where
  | running
  | stopping (why : Evict)
  | ending
  | over
  deriving DecidableEq, Repr

/-- What a fault that the fault-service duty takes leaves to be done when its block resumes (R6, R369): the group's number in the block
and its fragment's entry, the instruction, the fragment as it stood and the trap registers it had, the accesses of the instruction
that are not performed, and the engine thread that met the fault, with the start of each slot of the launch cluster and the batch it
belongs to (none: the open set). `stays` when the fragment stood at the instruction itself. -/
structure Late where
  gi     : Nat
  ent    : Nat
  site   : Site
  stays  : Bool
  back   : Option Frag
  trap   : TrapRegs
  evs    : List IqEv
  eng    : Option Engine
  starts : List Nat
  batch  : Option Nat
  deriving DecidableEq, Repr

/-- A resident block (R240, R242): group i of block b has number 32 × b + i. `hot` when it was placed under R290, `late` what its
faults have left. -/
structure Block where
  lid     : Nat
  bidx    : Nat
  core    : Nat
  cblk    : Nat
  cluster : Nat
  lanes   : Nat
  bars    : Map Nat
  clPhase : Nat
  st      : BState
  cause   : Nat
  detail  : Nat
  child   : Option Child
  spbase  : Nat
  slbase  : Nat
  kind    : Nat
  hot     : Bool
  late    : List Late
  deriving DecidableEq, Repr

/-- How far a launch has come: `closing` once it is rejected and its completion record waits for its home to answer (R355, R385). -/
inductive LPhase where
  | parsed | admitted | closing | ended
  deriving DecidableEq, Repr

/-- An EDGE that orders a launch after a producer (R209, R357). -/
structure EdgeRec where
  producer : Nat
  tag      : Word
  ranges   : List (Nat × Nat)
  deriving DecidableEq, Repr

/-- A leaf pinned by a lease (R343). -/
structure Pin where
  lid  : Nat
  ctx  : Nat
  va   : Nat
  size : Nat
  deriving DecidableEq, Repr

/-- The launch descriptor's fields (R276). -/
structure Desc where
  seed    : DWord
  fpe     : BitVec 5
  prio    : Nat
  power   : Nat
  prof    : Nat
  bars    : Nat
  restart : Bool
  slice   : Nat
  spad    : Nat
  vregs   : Nat
  lanes   : Nat
  trap    : Word
  entry   : Word
  deriving DecidableEq, Repr

/-- A block image that waits to be placed (R280, R295): its address, a virtual one when the host supplied it, its length, the block's
index, whether it is a child's, whether it may be placed or waits for a reply (R358, R369), its place among the images, the
cause with which it ends if the host ends it, the lane-slice bytes that stay reserved for it (R165), what its faults have left
(R369), and its launch's `passed` when it was written (R287). -/
structure Img where
  pa     : Nat
  virt   : Bool
  len    : Nat
  bidx   : Nat
  child  : Bool
  ready  : Bool
  order  : Nat
  cause  : Nat
  detail : Nat
  slice  : Nat × Nat
  late   : List Late
  passed : Nat
  deriving DecidableEq, Repr

/-- A launch (R275 to R282): packet, descriptor, handle table, and how far it has come. `read` once the descriptor has been read,
`order` its place among the admitted launches, `passed` the blocks of later launches that started while blocks of it waited
(R287), `images` block images waiting to be placed, `redo` blocks that start again (R23, R386) with `passed` at that time, `asked` and `answered`
the duties posted and answered for it. -/
structure Launch where
  tag      : Word
  ctx      : Nat
  queue    : Nat
  prio     : Nat
  nblk     : Nat
  clw      : Nat
  hcnt     : Nat
  htab     : Nat
  daddr    : Nat
  cmpl     : Nat
  desc     : Desc
  handles  : List (BitVec 256)
  phase    : LPhase
  read     : Bool
  status   : Nat
  next     : Nat
  nfail    : Nat
  fblk     : Option Nat
  cause    : Nat
  images   : List Img
  redo     : List (Nat × Option Child × Nat)
  edges    : List EdgeRec
  asked    : List Nat
  answered : List Nat
  order    : Nat
  passed   : Nat
  deriving DecidableEq, Repr

/-- An element of a pool with its insertion tag (R307). -/
structure Elem where
  key   : Nat
  pay   : Nat
  tile  : Nat
  count : Nat
  deriving DecidableEq, Repr

/-- A shard of a pool (R308, R312 to R314): the elements of its region, its insertion count, the units of allowance used, whether an
insert has reached it since the last snapshot, and the takes that have reached it since the last round. -/
structure Shard where
  els   : List Elem
  count : Nat
  used  : Nat
  fresh : Bool
  takes : Nat
  deriving DecidableEq, Repr

/-- A shard's published summary (R311). -/
structure Summary where
  n      : Nat
  els    : List Elem
  urgent : List Elem
  deriving DecidableEq, Repr

/-- A take on its way (R314): its group, entry, lane, home shard, the shard it is sent to and the shards it has tried. -/
structure Take where
  gid   : Nat
  ent   : Nat
  lane  : Nat
  home  : Nat
  goal  : Nat
  tried : List Nat
  deriving DecidableEq, Repr

/-- A pool (R305 to R317). `rho` and `starve` are the parameters of the round in force (R309); `held` is the insert whose notice is
out, by event number, and `stopped` says that its early round has not begun (R313); `fwd` are forwarded takes, `wait` those that
wait for the next round, each at the shard it then goes to; `spillOk` are the inserts that the host lets spill (R358). -/
structure Pool where
  lid     : Nat
  handle  : Nat
  cap     : Nat
  spill   : Nat
  kord    : Bool
  shards  : List Shard
  sums    : List Summary
  theta   : Option Elem
  window  : List (Elem × Nat)
  rho     : Nat
  starve  : Nat
  held    : Option Nat
  stopped : Bool
  fwd     : List Take
  wait    : List Take
  spillOk : List Nat
  deriving DecidableEq, Repr

/-- A context (R328, R329) with its core mask (R295), boost tokens (R293), image runs in use (R382), and the edges whose consumer has
not been parsed (R357). -/
structure Ctx where
  en      : Bool
  going   : Bool
  root    : Nat
  imgBase : Nat
  imgPg   : Nat
  tsOff   : Nat
  tsLen   : Nat
  weight  : Nat
  mask    : BitVec 768
  tokens  : Nat
  runs    : List (Nat × Nat)
  edges   : List EdgeRec
  deriving DecidableEq, Repr

/-- A decant in progress (R344 to R347): page, frames, size, the lines the round copies (round 0 copies all), the lines written
since it began, the round, whether the page is frozen, whether the host asked for it, and the tile whose copy engine copies. -/
structure Decant where
  ctx    : Nat
  va     : Nat
  size   : Nat
  old    : Nat
  dst    : Nat
  todo   : List Nat
  marked : List Nat
  round  : Nat
  frozen : Bool
  host   : Bool
  tile   : Nat
  deriving DecidableEq, Repr

/-- What a parsed packet still has to do (R357): LAUNCH until admitted or rejected, SIGNAL until the launches named have ended,
MARK until the packets before it have acted. -/
inductive QAct where
  | launch (lid : Nat)
  | signal (addr : Nat) (value : Word) (after : List Nat)
  | mark (addr : Nat) (tag : Word)
  deriving DecidableEq, Repr

/-- A work queue's registers (R353) and its packets that have not acted. -/
structure Queue where
  base    : Nat
  en      : Bool
  drv     : Bool
  prio    : Nat
  ctx     : Nat
  vec     : Nat
  log2    : Nat
  tail    : Word
  head    : Word
  errSet  : Bool
  errCode : Nat
  wait    : Option (Nat × Word)
  acts    : List QAct
  deriving DecidableEq, Repr

inductive OwnState where
  | unowned | owned | scrubbing
  deriving DecidableEq, Repr

/-- A format window's registers (R72, R73). -/
structure Window where
  cbase  : Nat
  sbcnt  : Nat
  abase  : Nat
  obase  : Nat
  olen   : Nat
  sobase : Nat
  fmt    : Nat
  err    : Bool
  en     : Bool
  deriving DecidableEq, Repr

/-- An event that waits for its reply (R358, R359): number, duty, the launch, block, pool, column or link it is about, and for the
residency duty the pages that it lists (R341). -/
structure Duty where
  seq   : Word
  duty  : Nat
  what  : Nat
  pages : List Nat
  deriving DecidableEq, Repr

/-- A loaded collective set (R362). -/
structure CollSet where
  members : List Word
  rank    : Nat
  tmo     : Nat
  issued  : Nat
  deriving DecidableEq, Repr

/-- A rail (R389). -/
structure Rail where
  total : Nat
  good  : Nat
  ilim  : Nat
  deriving DecidableEq, Repr

inductive CluState where
  | on | drain | save | gated | waking
  deriving DecidableEq, Repr

/-- A bridge's state (R294); `widening` and `waking` are NARROW and SLEEP on the way to FULL. -/
inductive LinkState where
  | full | narrow | sleep | widening | waking
  deriving DecidableEq, Repr

/-- The states of R385; `halt` stands for HALT and for RESET, which follows at once. -/
inductive TileState where
  | run | halt | restore | replay
  deriving DecidableEq, Repr

/-- A column (R289): temperature in tenths of a degree, whether it is THROTTLED, whether its dwell is running. -/
structure Column where
  temp10    : Nat
  throttled : Bool
  dwell     : Bool
  deriving DecidableEq, Repr

/-- Bytes start .. start + len - 1 of a scratchpad or arena, with the context that last used them (R330). -/
structure Used where
  start : Nat
  len   : Nat
  ctx   : Nat
  deriving DecidableEq, Repr

/-- A core: retired halves (0 none, 1 A, 2 B, 3 both: disabled), the halves whose last transfer mismatched (R22), its fork deque
(R301), and the contexts that last used its scratchpad (R330). -/
structure Core where
  ret   : Nat
  crc   : List Nat
  deque : List Child
  used  : List Used
  deriving DecidableEq, Repr

/-- A message to a tile that its sender has logged (R384): a byte written there, an entry stolen from a core's deque, a take forwarded
to its shard, or an operation of its shard of a pool. -/
inductive LogMsg where
  | byte (l : Loc) (b : Byte)
  | steal (core : Nat) (x : Child)
  | take (pool : Nat)
  | pool (pool : Nat)
  deriving DecidableEq, Repr

/-- An entry of a tile's log (R384): the tile that sent the message, 8 for the I/O die, the number of the message among those of its
line, whether the entry has been written in the sender's checkpoint area, and the message. -/
structure LogEnt where
  src     : Nat
  seq     : Nat
  written : Bool
  msg     : LogMsg
  deriving DecidableEq, Repr

/-- A tile: its reset state (R385), its lane-slice arena's reservations (R284) and last users (R330), the tile scratchpad, dirty guests,
deques and copy queues of its last committed checkpoint, the messages logged since (R384), the bytes that senders hold for it while it
does not run (R385), and the blocks and children that a reset took from it (R386). -/
structure Tile where
  st     : TileState
  slices : List (Nat × Nat)
  used   : List Used
  pad    : Mem
  guests : List Copy
  deques : List (Nat × List Child)
  queues : Map Engine
  log    : List LogEnt
  held   : List (Nat × Byte)
  lost   : List (Nat × Nat × Option Child)
  deriving DecidableEq, Repr

/-- The module's registers and firmware state (R327, R333, R353, R389). `bootRun` are the source, length and kind of the load that
runs (R360), `invOn` says that an invalidation runs (R339), `boost` that the power loop lets contexts spend tokens (R293). -/
structure Regs where
  own       : OwnState
  keys      : List DWord
  ownerKey  : Option (List DWord)
  enrolStat : Nat
  accept    : BitVec 7
  linkId    : Word
  fnMode    : BitVec 7
  evBase    : Nat
  evLog2    : Nat
  evHead    : Word
  evTail    : Word
  evSeq     : Word
  duties    : List Duty
  evWait    : List (List Byte)
  bootSrc   : Nat
  bootLen   : Word
  bootKind  : Nat
  bootStat  : Nat
  bootRun   : Nat × Nat × Nat
  firmware  : List (Option (List Byte))
  attDst    : Nat
  nonce     : List DWord
  attStat   : Nat
  arena     : Nat
  ig4       : Nat
  tdisp     : Nat
  tthrot    : Nat
  hyst      : Nat
  dwell     : Nat
  nidle     : Nat
  sidle     : Nat
  rho       : Nat
  starve    : Nat
  period    : Nat
  ctxBase   : Nat
  ctxStat   : Nat
  ctxCtx    : Nat
  invStat   : Nat
  invOn     : Bool
  invCtx    : Nat
  invVa     : Nat
  invLen    : Word
  invRanges : List (Nat × Nat)
  invSeq    : Nat
  decStat   : Nat
  decCtx    : Nat
  decVa     : Nat
  decDst    : Nat
  resBase   : List Nat
  resLim    : List Nat
  windows   : List Window
  collBase  : Nat
  collSet   : Nat
  collStat  : Nat
  hostwErr  : Bool
  coreErr   : Bool
  tileErr   : Bool
  derateErr : Bool
  sageErr   : Bool
  rails     : List Rail
  mhz       : Nat
  boost     : Bool
  elogTail  : Nat
  elog      : List (List Byte)
  sageHalted : Bool
  sageRecent : Bool
  shut      : Bool
  deriving DecidableEq, Repr

/-- A controller core (R15): its integer registers x1 to x31, program counter, control and status registers, the bytes its code has
written over its image, and the range a load-reserved holds. -/
structure Ctrl where
  x    : Map DWord
  pc   : DWord
  csr  : Map DWord
  mem  : Map Byte
  resv : Option (Nat × Nat)
  deriving DecidableEq, Repr

/-- Place of a fragment: the group's number and its split-table entry. -/
structure Cursor where
  gid : Nat
  ent : Nat
  deriving DecidableEq, Repr

/-- What the agenda may ask for next: a step or event, that the fragment at a place issues, that a pending read of a decoded alias
reads a line it depends on (R76), or that a controller core runs its next instruction (R15). -/
inductive Choice where
  | act (i : Instr)
  | issue (c : Cursor)
  | part (id line : Nat)
  | ctrl (n : Nat)
  deriving DecidableEq, Repr

/-- The module. `agenda`, `cur`, `fresh`, `seq`, `hostLog` and `msix` are the model's own: what comes next, the issuing
fragment, the number of free values drawn, the place in the issue order, what host reads returned and which vectors were
sent. `parts` are the lines that pending alias reads hold (R76), `added` the places to which engines have added, with their
completion scopes (R207). -/
structure State where
  agenda   : List Choice
  cur      : Cursor
  fresh    : Nat
  clk      : Nat
  seq      : Nat
  nextId   : Nat
  groups   : Map Group
  blocks   : Map Block
  launches : Map Launch
  mem      : Mem
  spad     : Mem
  tspad    : Mem
  poison   : List Nat
  iq       : List IqEv
  sq       : List WEv
  clv      : List WEv
  cbuf     : List WEv
  parts    : List Part
  added    : List (Loc × Scope)
  l1       : List Copy
  guests   : List Copy
  ver      : Map Nat
  co       : Nat
  icache   : List ICLine
  tlb1     : List TlbEnt
  tlb2     : List TlbEnt
  engines  : Map Engine
  pools    : Map Pool
  ctxs     : Map Ctx
  pins     : List Pin
  decants  : Map Decant
  queues   : Map Queue
  collSets : Map CollSet
  regs     : Regs
  cores    : Map Core
  tiles    : Map Tile
  columns  : Map Column
  budgets  : Map Nat
  links    : Map LinkState
  clusters : Map CluState
  ctrls    : Map Ctrl
  hostLog  : List (List Byte)
  msix     : List Nat
  deriving DecidableEq, Repr

/-- What every meaning and every step answers. -/
abbrev Out := Host.Outcome State Fault Refusal

/-- A window after reset (R72, R73). -/
def Window.reset : Window := ⟨0, 0, 0, 0, 0, 0, 0, false, false⟩

/-- A work queue after reset (R353). -/
def Queue.reset : Queue := ⟨0, false, false, 0, 0, 0, 4, 0, 0, false, 0, none, []⟩

/-- A context that has not been enabled. Its core mask holds every core (DESIGN CHOICE, assumption 3). -/
def Ctx.reset : Ctx := ⟨false, false, 0, 0, 0, 0, 0, 0, BitVec.allOnes 768, 0, [], []⟩

/-- A core after reset: factory width (Config), empty deque, no context has used its scratchpad. -/
def Core.reset (c : Nat) : Core := ⟨Config.factoryWidth c, [], [], []⟩

/-- A tile after reset. -/
def Tile.reset : Tile := ⟨.run, [], [], [], [], [], [], [], [], []⟩

/-- A column after reset: NORMAL, 25.0 °C (DESIGN CHOICE, assumption 3), no dwell running. -/
def Column.reset : Column := ⟨250, false, false⟩

/-- The registers after reset: the spec's reset values; BOOT.LEN, the nonces and the factory current limits as assumption 3
says. -/
def Regs.reset : Regs where
  own := .scrubbing
  keys := List.replicate 8 0
  ownerKey := none
  enrolStat := 0
  accept := 0
  linkId := 0
  fnMode := 0
  evBase := 0
  evLog2 := 4
  evHead := 0
  evTail := 0
  evSeq := 1
  duties := []
  evWait := []
  bootSrc := 0
  bootLen := 0
  bootKind := 0
  bootStat := 0
  bootRun := (0, 0, 0)
  firmware := [none, none, none]
  attDst := 0
  nonce := List.replicate 4 0
  attStat := 0
  arena := 4
  ig4 := 24
  tdisp := 90
  tthrot := 95
  hyst := 3
  dwell := 250
  nidle := 2000
  sidle := 50000
  rho := 768
  starve := 8
  period := 4
  ctxBase := 0
  ctxStat := 0
  ctxCtx := 0
  invStat := 0
  invOn := false
  invCtx := 0
  invVa := 0
  invLen := 0
  invRanges := []
  invSeq := 0
  decStat := 0
  decCtx := 0
  decVa := 0
  decDst := 0
  resBase := List.replicate 10 0
  resLim := List.replicate 10 0
  windows := List.replicate 16 Window.reset
  collBase := 0
  collSet := 0
  collStat := 0
  hostwErr := false
  coreErr := false
  tileErr := false
  derateErr := false
  sageErr := false
  rails := [⟨32, 32, Config.factoryIlim 0⟩, ⟨16, 16, Config.factoryIlim 1⟩,
    ⟨8, 8, Config.factoryIlim 2⟩, ⟨8, 8, Config.factoryIlim 3⟩]
  mhz := 1300
  boost := true
  elogTail := 0
  elog := []
  sageHalted := false
  sageRecent := false
  shut := false

/-- The module right after a cold reset: in SCRUBBING (R325, R327), with nothing launched. The scrub's end is the event
SCRUB_DONE. -/
def State.reset : State where
  agenda := []
  cur := ⟨0, 0⟩
  fresh := 0
  clk := 0
  seq := 0
  nextId := 0
  groups := []
  blocks := []
  launches := []
  mem := []
  spad := []
  tspad := []
  poison := []
  iq := []
  sq := []
  clv := []
  cbuf := []
  parts := []
  added := []
  l1 := []
  guests := []
  ver := []
  co := 0
  icache := []
  tlb1 := []
  tlb2 := []
  engines := []
  pools := []
  ctxs := []
  pins := []
  decants := []
  queues := []
  collSets := []
  regs := Regs.reset
  cores := []
  tiles := []
  columns := []
  budgets := []
  links := []
  clusters := []
  ctrls := []
  hostLog := []
  msix := []

/-- A controller core as it starts: at address 0, where its image is loaded (R360), its registers zero (DESIGN CHOICE, assumption 45). -/
def Ctrl.reset : Ctrl := ⟨[], 0, [], [], none⟩

/-- Core c's record. -/
def State.core (s : State) (c : Nat) : Core := s.cores.get (Core.reset c) c
/-- Tile t's record. -/
def State.tileRec (s : State) (t : Nat) : Tile := s.tiles.get Tile.reset t
/-- Context n's record. -/
def State.ctx (s : State) (n : Nat) : Ctx := s.ctxs.get Ctx.reset n
/-- Queue q's record. -/
def State.queue (s : State) (q : Nat) : Queue := s.queues.get Queue.reset q
/-- Column n's record. -/
def State.column (s : State) (n : Nat) : Column := s.columns.get Column.reset n

end Sys2Proof.Machine
end

