-- ==== Sys2Proof/Machine/Mem.lean ====
section
/-! DEFINITION. Memory as bytes: the canonical list of (address, byte), where an unlisted address reads as zero (R326: a scrub
writes zero to every byte; assumption 3 for what stands before the first scrub), and the storage behind each space (R165). -/

namespace Sys2Proof.Machine

/-- What an unlisted address reads as. -/
def memDefault : Byte := 0

/-- The byte at an address. -/
def Mem.read (m : Mem) (a : Nat) : Byte := Map.get memDefault m a

/-- Writes one byte, keeping the canonical form. -/
def Mem.write : Mem → Nat → Byte → Mem
  | [], a, b => if b = memDefault then [] else [(a, b)]
  | (k, c) :: m, a, b =>
    if a < k then (if b = memDefault then (k, c) :: m else (a, b) :: (k, c) :: m)
    else if a = k then (if b = memDefault then m else (a, b) :: m)
    else (k, c) :: Mem.write m a b

/-- Writes (address, byte) pairs one after another. -/
def Mem.writeAll (m : Mem) (bs : List (Nat × Byte)) : Mem := bs.foldl (fun m p => Mem.write m p.1 p.2) m

/-- Addresses strictly rising and above `lo`, no entry equal to the default. -/
def Mem.wfFrom : Nat → Mem → Bool
  | _, [] => true
  | lo, (k, c) :: m => decide (lo ≤ k) && c != memDefault && Mem.wfFrom (k + 1) m

/-- The canonical form. -/
abbrev Mem.wf (m : Mem) : Prop := Mem.wfFrom 0 m = true

/-- Removes every entry of a ≤ address < a + n: those bytes read as zero. -/
def Mem.zero (m : Mem) (a n : Nat) : Mem := m.filter (fun p => p.1 < a || a + n ≤ p.1)

/-- The byte of a location at its point of coherence, or at home for a global byte (R165, R194). -/
def State.homeByte (s : State) (l : Loc) : Byte :=
  match l.sp with
  | .glob => s.mem.read l.addr
  | .slice => s.mem.read l.addr
  | .spad => s.spad.read l.addr
  | .tpad => s.tspad.read l.addr

/-- Compact length of a window (R72). -/
def Window.clen (w : Window) : Nat := 2304 * w.sbcnt
/-- Alias length of a window (R72). -/
def Window.alen (w : Window) : Nat := 8192 * w.sbcnt

/-- The enabled window whose alias holds a physical address (R74). -/
def State.aliasOf (s : State) (pa : Nat) : Option Window :=
  s.regs.windows.find? (fun w => w.en && decide (w.abase ≤ pa) && decide (pa < w.abase + w.alen))

/-- Writes the byte of a location at its point of coherence, or at home. Memory under an enabled alias is not written (R74). -/
def State.putHome (s : State) (l : Loc) (b : Byte) : State :=
  match l.sp with
  | .glob | .slice => if (s.aliasOf l.addr).isSome then s else { s with mem := s.mem.write l.addr b }
  | .spad => { s with spad := s.spad.write l.addr b }
  | .tpad => { s with tspad := s.tspad.write l.addr b }

/-- Memory zeroed from an address on, but for what lies under an enabled alias (R74). -/
def State.zeroMem (s : State) (a n : Nat) : State :=
  { s with mem := s.mem.filter (fun p => p.1 < a || a + n ≤ p.1 || (s.aliasOf p.1).isSome) }

/-- n bytes of a space from an address on, as stored at home or P. -/
def State.homeBytes (s : State) (sp : Space) (a n : Nat) : List Byte := tab n (fun i => s.homeByte ⟨sp, a + i⟩)

/-- The 128-byte line of an address (R12). -/
def lineOf (a : Nat) : Nat := a / 128 * 128

/-- The interleaved part's size in bytes (R28, R353). -/
def State.interleaved (s : State) : Nat := 8 * (4 * s.regs.ig4) * 2 ^ 30

/-- The home tile of a global byte (R28, R29). -/
def State.homeTile (s : State) (pa : Nat) : Nat :=
  if pa < s.interleaved ∨ 2 ^ 40 ≤ pa then pa / 4096 % 8
  else (pa - s.interleaved) / ((128 - 4 * s.regs.ig4) * 2 ^ 30)

/-- Whether feature d is in force (R354). -/
def State.feat (s : State) (d : Nat) : Bool := s.regs.accept.getLsbD d

/-- Whether duty d is host-assisted (R353, R354, R358). -/
def State.assisted (s : State) (d : Nat) : Bool := s.feat 5 && s.regs.fnMode.getLsbD d

/-- Whether n bytes from pa on are populated (R27); the CXL ranges are not while the feature is not accepted (R354). -/
def State.populated (s : State) (pa n : Nat) : Bool :=
  let q := pa + n
  q ≤ 2 ^ 40 || (2 ^ 42 ≤ pa && q ≤ 2 ^ 43) ||
    (s.feat 1 && 2 ^ 43 ≤ pa && pa < 5 * 2 ^ 43 && q ≤ pa / 2 ^ 43 * 2 ^ 43 + Config.cxlGiB (pa / 2 ^ 43 - 1) * 2 ^ 30)

/-- A byte of a block's lane slices, which is no global byte (R165, R208). -/
def State.inSlice (s : State) (pa : Nat) : Bool :=
  (s.tileRec (s.homeTile pa)).slices.any (fun p => decide (p.1 ≤ pa) && decide (pa < p.1 + p.2))

/-- A line holds bytes of lane slices: it is held at its home alone (R205). -/
def State.sliceLine (s : State) (line : Nat) : Bool := (List.range 128).any (fun i => s.inSlice (line + i))

/-- A tile's guest copy of a line, if it holds one. -/
def State.guest? (s : State) (tile line : Nat) : Option Copy := s.guests.find? (fun c => c.place == tile && c.line == line)

/-- The dirty guest of a line: at most one tile holds it dirty (R194). -/
def State.dirty? (s : State) (line : Nat) : Option Copy := s.guests.find? (fun c => c.dirty && c.line == line)

end Sys2Proof.Machine
end

