-- ==== Sys2Proof/Machine/Float.lean ====
section
/-! DEFINITION. Floating-point formats, exact values and `Round` (R54 to R62), the draw of stochastic rounding (R64), and the
exact results of the arithmetic entries (R124 to R140). Values are exact: a sign, a natural number and a power of two, with a
bit that says the value lies strictly between that number and the next. -/

namespace Sys2Proof.Machine

/-- IEEE exceptions of one element or lane, in FLAGS.ARITH order (R66): NV 1, DZ 2, OF 4, UF 8, NX 16. -/
abbrev Exc := BitVec 5

def excNV : Exc := 1
def excDZ : Exc := 2
def excOF : Exc := 4
def excUF : Exc := 8
def excNX : Exc := 16

/-- A floating-point element format (R54). -/
structure Fmt where
  bits  : Nat
  fbits : Nat
  bias  : Nat
  /-- All-ones exponent encodes infinity and NaN. -/
  hasInf : Bool
  /-- Every NaN is quiet (R57). -/
  quietOnly : Bool
  /-- The canonical NaN (R57). -/
  nan   : Nat
  /-- The encoding of the largest finite value. -/
  top   : Nat
  deriving DecidableEq, Repr

def fmt64 : Fmt := ⟨64, 52, 1023, true, false, 0x7FF8_0000_0000_0000, 0x7FEF_FFFF_FFFF_FFFF⟩
def fmt32 : Fmt := ⟨32, 23, 127, true, false, 0x7FC0_0000, 0x7F7F_FFFF⟩
def fmt16 : Fmt := ⟨16, 10, 15, true, false, 0x7E00, 0x7BFF⟩
def fmtB16 : Fmt := ⟨16, 7, 127, true, false, 0x7FC0, 0x7F7F⟩
def fmtE4 : Fmt := ⟨8, 3, 7, false, true, 0x7F, 0x7E⟩
def fmtE5 : Fmt := ⟨8, 2, 15, true, true, 0x7E, 0x7B⟩
/-- E2M1 has neither infinity nor NaN; it occurs only in NX4 blocks (R56). -/
def fmtE2 : Fmt := ⟨4, 1, 1, false, true, 0, 7⟩

/-- An element's value: a NaN (signalling or not), an infinity, or (-1)^neg × m × 2^e. -/
inductive FV where
  | nan (sig : Bool)
  | inf (neg : Bool)
  | fin (neg : Bool) (m : Nat) (e : Int)
  deriving DecidableEq, Repr

/-- An exact result: NaN, infinity, zero, or a non-zero real between m × 2^e and (m + 1) × 2^e, equal to m × 2^e when not
`sticky`. A `limit` is an infinity whose delivery raises nothing of its own (R130, R137). -/
inductive Exact where
  | nan
  | inf (neg : Bool)
  | limit (neg : Bool)
  | zero (neg : Bool)
  | num (neg : Bool) (m : Nat) (e : Int) (sticky : Bool)
  deriving DecidableEq, Repr

/-- The sign bit of an encoding. -/
def Fmt.neg (f : Fmt) (x : Nat) : Bool := x.testBit (f.bits - 1)
/-- The exponent field. -/
def Fmt.expo (f : Fmt) (x : Nat) : Nat := (x >>> f.fbits) % 2 ^ (f.bits - 1 - f.fbits)
/-- The fraction field. -/
def Fmt.frac (f : Fmt) (x : Nat) : Nat := x % 2 ^ f.fbits
/-- The exponent of the subnormal spacing. -/
def Fmt.qmin (f : Fmt) : Int := 1 - (f.bias : Int) - (f.fbits : Int)

/-- The value an encoding holds (R54, R57, R58). -/
def Fmt.unpack (f : Fmt) (x : Nat) : FV :=
  let e := f.expo x
  let fr := f.frac x
  if f.hasInf && e == 2 ^ (f.bits - 1 - f.fbits) - 1 then
    if fr = 0 then .inf (f.neg x) else .nan (!f.quietOnly && !fr.testBit (f.fbits - 1))
  else if f.bits == 8 && !f.hasInf && x % 128 == 0x7F then .nan false
  else if e = 0 then .fin (f.neg x) fr f.qmin
  else .fin (f.neg x) (fr + 2 ^ f.fbits) ((e : Int) - (f.bias : Int) - (f.fbits : Int))

/-- Encodes a magnitude k × 2^q with k < 2^(fbits + 1) and q ≥ qmin. E2M1 has no negative zero (R60). -/
def Fmt.pack (f : Fmt) (neg : Bool) (k : Nat) (q : Int) : Nat :=
  let s := if neg && !(f.bits == 4 && k == 0) then 2 ^ (f.bits - 1) else 0
  if k < 2 ^ f.fbits then s + k
  else s + ((q + (f.fbits : Int) + (f.bias : Int)).toNat <<< f.fbits) + (k - 2 ^ f.fbits)

/-- The encoding of a zero. -/
def Fmt.zero (f : Fmt) (neg : Bool) : Nat := f.pack neg 0 f.qmin
/-- ±max (R61). -/
def Fmt.maxVal (f : Fmt) (neg : Bool) : Nat := (if neg then 2 ^ (f.bits - 1) else 0) + f.top
/-- ±∞; in E4M3 the canonical NaN, in E2M1 ±6 (R60, R61). -/
def Fmt.infVal (f : Fmt) (neg : Bool) : Nat :=
  if f.hasInf then (if neg then 2 ^ (f.bits - 1) else 0) + ((2 ^ (f.bits - 1 - f.fbits) - 1) <<< f.fbits)
  else if f.bits == 4 then f.maxVal neg else f.nan

/-- Whether k × 2^q is above the largest finite magnitude; `orEq` for a value that lies strictly above k × 2^q. -/
def Fmt.exceeds (f : Fmt) (k : Nat) (q : Int) (orEq : Bool) : Bool :=
  match f.unpack f.top with
  | .fin _ m e =>
    let lo := min q e
    let x := k <<< (q - lo).toNat
    let y := m <<< (e - lo).toNat
    decide (y < x) || (orEq && decide (y ≤ x))
  | _ => false

/-- Rounds m × 2^e (and a bit more when sticky) to a multiple of 2^q in a mode of R60, 0 to 5, with draw u (R62): the multiple,
and whether the value was not one. -/
def roundAt (neg : Bool) (m : Nat) (e : Int) (sticky : Bool) (q : Int) (mode : Nat) (u : Nat) : Nat × Bool :=
  let far : Bool := m != 0 && decide (e + (Nat.log2 m : Int) + 66 < q)
  let m' := if far then 1 else m
  let e' := if far then q - 64 else e
  let st := sticky || far
  if q ≤ e' then (m' <<< (e' - q).toNat, false)
  else
    let sh := (q - e').toNat
    let k := m' >>> sh
    let rem := m' % 2 ^ sh
    let half := 2 ^ (sh - 1)
    let inexact := rem != 0 || st
    let up := match mode with
      | 0 => decide (half < rem) || (rem == half && (st || k % 2 == 1))
      | 1 => false
      | 2 => neg
      | 3 => !neg
      | 4 => decide (half ≤ rem)
      | _ => decide (u < (rem <<< 32) >>> sh)
    (if inexact && up then k + 1 else k, inexact)

/-- Round(fmt, x, mode) with SAT and the flags it raises (R58, R60, R61, R62, R65). An exact infinity raises NX where SAT delivers the
largest number, or a format without infinities its NaN (R65), unless its instruction's entry rules that out (R130, R137; assumption
60). -/
def Fmt.round (f : Fmt) (mode : Nat) (sat : Bool) (u : Nat) (x : Exact) : Nat × Exc :=
  match x with
  | .nan => (f.nan, 0)
  | .inf neg => (if sat then f.maxVal neg else f.infVal neg, if sat || !f.hasInf then excNX else 0)
  | .limit neg => (if sat then f.maxVal neg else f.infVal neg, 0)
  | .zero neg => (f.zero neg, 0)
  | .num neg m e st =>
    let qu := (Nat.log2 m : Int) + e - (f.fbits : Int)
    let md := if mode = 5 && f.exceeds m e st then 0 else mode
    let unb := roundAt neg m e st qu md u
    if f.exceeds unb.1 qu false then
      let toMax := sat || f.bits == 4 || md == 1 || (md == 2 && !neg) || (md == 3 && neg)
      (if toMax then f.maxVal neg else f.infVal neg, excOF ||| excNX)
    else
      let q := max qu f.qmin
      let r := roundAt neg m e st q md u
      let k := if r.1 = 2 ^ (f.fbits + 1) then 2 ^ f.fbits else r.1
      let q' := if r.1 = 2 ^ (f.fbits + 1) then q + 1 else q
      let tiny := decide ((Nat.log2 unb.1 : Int) + qu < 1 - (f.bias : Int))
      (f.pack neg k q', (if r.2 then excNX else 0) ||| (if r.2 && tiny then excUF else 0))

/-- The generator's mixing function (R64). -/
def mix64 (z : DWord) : DWord :=
  let z := z ^^^ (z >>> 31)
  let z := z * 0x7FB5_D329_728E_A185
  let z := z ^^^ (z >>> 27)
  let z := z * 0x81DA_DEF4_BC2D_D44D
  z ^^^ (z >>> 33)

/-- The draw u of R64. -/
def draw (icnt : Word) (elem lane grp : Nat) (blk seed : DWord) : Nat :=
  let c : DWord := BitVec.ofNat 64 (icnt.toNat ||| ((elem % 256) <<< 32) ||| (lane <<< 40) ||| (grp <<< 47))
  let z1 := mix64 (blk ^^^ mix64 c)
  let z2 := mix64 (seed ^^^ z1)
  (z2 >>> 32).toNat

/-- Mod(v, AA, NA) of R126, on an encoding. -/
def Fmt.mod (f : Fmt) (x : Nat) (aa na : Bool) : Nat :=
  let x := if aa && f.neg x then x - 2 ^ (f.bits - 1) else x
  if na then x ^^^ 2 ^ (f.bits - 1) else x

/-- Whether a value is a signalling NaN. -/
def FV.sig : FV → Bool
  | .nan s => s
  | _ => false

def FV.isNan : FV → Bool
  | .nan _ => true
  | _ => false

/-- An exact value as a result. -/
def FV.exact : FV → Exact
  | .nan _ => .nan
  | .inf n => .inf n
  | .fin n m e => if m = 0 then .zero n else .num n m e false

/-- What any NaN operand gives: the canonical NaN, with NV when one signals (R57, R65). -/
def nanOf (xs : List FV) : Exact × Exc := (.nan, if xs.any FV.sig then excNV else 0)

/-- The product of two values, neither a NaN; none for 0 × ∞ (R127). -/
def FV.mul : FV → FV → Option FV
  | .fin n m e, .fin n' m' e' => some (.fin (n ^^ n') (m * m') (e + e'))
  | .inf n, .inf n' => some (.inf (n ^^ n'))
  | .inf n, .fin n' m _ => if m = 0 then none else some (.inf (n ^^ n'))
  | .fin n m _, .inf n' => if m = 0 then none else some (.inf (n ^^ n'))
  | _, _ => none

/-- The least exponent of the finite terms. -/
def minExp : List FV → Int → Int
  | [], d => d
  | .fin _ m e :: ts, d => minExp ts (if m = 0 then d else min d e)
  | _ :: ts, d => minExp ts d

/-- The exact sum of the finite terms, in units of 2^lo. -/
def sumAt (lo : Int) (ts : List FV) : Int :=
  ts.foldl (fun acc t => match t with
    | .fin n m e => if m = 0 then acc else
        let x := ((m <<< (e - lo).toNat : Nat) : Int); if n then acc - x else acc + x
    | _ => acc) 0

/-- The exact sum of terms none of which is a NaN (R126, R127). -/
def sumTerms (mode : Nat) (ts : List FV) : Exact × Exc :=
  let pos := ts.any (fun t => match t with | .inf false => true | _ => false)
  let neg := ts.any (fun t => match t with | .inf true => true | _ => false)
  if pos && neg then (.nan, excNV)
  else if pos then (.inf false, 0)
  else if neg then (.inf true, 0)
  else
    let lo := minExp ts 16384
    let x := sumAt lo ts
    if x = 0 then
      let negs := ts.all (fun t => match t with | .fin n m _ => n && m == 0 | _ => false)
      let poss := ts.all (fun t => match t with | .fin n m _ => !n && m == 0 | _ => false)
      (.zero (negs || (!poss && mode == 2)), 0)
    else (.num (decide (x < 0)) x.natAbs lo false, 0)

/-- a + b (R127). -/
def opAdd (mode : Nat) (a b : FV) : Exact × Exc :=
  if a.isNan || b.isNan then nanOf [a, b] else sumTerms mode [a, b]

def FV.negate : FV → FV
  | .nan s => .nan s
  | .inf n => .inf !n
  | .fin n m e => .fin (!n) m e

/-- a - b (R127). -/
def opSub (mode : Nat) (a b : FV) : Exact × Exc := opAdd mode a b.negate

/-- a × b (R127). -/
def opMul (a b : FV) : Exact × Exc :=
  if a.isNan || b.isNan then nanOf [a, b]
  else match a.mul b with
    | none => (.nan, excNV)
    | some p => (p.exact, 0)

/-- Products a_i × b_i plus d, exactly (R127, R135): FFMA has one product, FDOT2 two. Products that are infinities of opposite signs beside
a quiet NaN give NaN without NV: R135 names their sum and R127 the NaN operand (DESIGN CHOICE, assumption 64). -/
def opDot (mode : Nat) (ps : List (FV × FV)) (d : FV) : Exact × Exc :=
  let bad := ps.any (fun p => !p.1.isNan && !p.2.isNan && (p.1.mul p.2).isNone)
  let sig := d.sig || ps.any (fun p => p.1.sig || p.2.sig)
  let nan := d.isNan || ps.any (fun p => p.1.isNan || p.2.isNan)
  if bad || nan then (.nan, if bad || sig then excNV else 0)
  else sumTerms mode (ps.filterMap (fun p => p.1.mul p.2) ++ [d])

/-- The quotient of magnitudes with 130 bits and what is left over. -/
def quot (neg : Bool) (m : Nat) (e : Int) (m' : Nat) (e' : Int) : Exact :=
  let sh := 130 + Nat.log2 m' - Nat.log2 m
  let n := m <<< sh
  .num neg (n / m') (e - e' - (sh : Int)) (n % m' != 0)

/-- a ÷ b (R130). -/
def opDiv (a b : FV) : Exact × Exc :=
  match a, b with
  | .nan _, _ => nanOf [a, b]
  | _, .nan _ => nanOf [a, b]
  | .inf _, .inf _ => (.nan, excNV)
  | .inf n, .fin n' _ _ => (.limit (n ^^ n'), 0)
  | .fin n _ _, .inf n' => (.zero (n ^^ n'), 0)
  | .fin n m e, .fin n' m' e' =>
    if m = 0 then (if m' = 0 then (.nan, excNV) else (.zero (n ^^ n'), 0))
    else if m' = 0 then (.limit (n ^^ n'), excDZ)
    else (quot (n ^^ n') m e m' e', 0)

/-- 1 ÷ a (R130). -/
def opRcp (a : FV) : Exact × Exc := opDiv (.fin false 1 0) a

/-- One Newton step of the integer square root, until it stops falling. -/
def isqrtGo (n : Nat) : Nat → Nat → Nat
  | 0, x => x
  | k + 1, x => let y := (x + n / x) / 2; if y < x then isqrtGo n k y else x

/-- ⌊√n⌋, for n below 2^512. -/
def isqrt (n : Nat) : Nat := if n = 0 then 0 else isqrtGo n 80 (2 ^ (Nat.log2 n / 2 + 1))

/-- √a (R130). -/
def opSqrt (a : FV) : Exact × Exc :=
  match a with
  | .nan _ => nanOf [a]
  | .inf n => if n then (.nan, excNV) else (.limit false, 0)
  | .fin n m e =>
    if m = 0 then (.zero n, 0)
    else if n then (.nan, excNV)
    else
      let sh : Nat := 200 + (if (e - 200) % 2 = 0 then 0 else 1)
      let x := m <<< sh
      let r := isqrt x
      (.num false r ((e - (sh : Int)) / 2) (r * r != x), 0)

/-- 1 ÷ √a (R130). -/
def opRsq (a : FV) : Exact × Exc :=
  match a with
  | .nan _ => nanOf [a]
  | .inf n => if n then (.nan, excNV) else (.zero false, 0)
  | .fin n m e =>
    if m = 0 then (.limit n, excDZ)
    else if n then (.nan, excNV)
    else
      -- 1 / √(m × 2^e) = √(2^sh / m) × 2^(-(e + sh) / 2), e + sh even
      let sh : Nat := 300 + (if (e + 300) % 2 = 0 then 0 else 1)
      let x := 2 ^ sh / m
      let r := isqrt x
      (.num false r (-((e + (sh : Int)) / 2)) (r * r * m != 2 ^ sh), 0)

/-- The integer that a mode rounds m × 2^e to (R132), as a magnitude, and whether it was not integral. -/
def roundInt (neg : Bool) (m : Nat) (e : Int) (mode u : Nat) : Nat × Bool := roundAt neg m e false 0 mode u

/-- FRND (R132): the integral value of a in the same format; no flag but NV. -/
def opRnd (mode u : Nat) (a : FV) : Exact × Exc :=
  match a with
  | .fin n m e => let k := (roundInt n m e mode u).1; (if k = 0 then .zero n else .num n k 0 false, 0)
  | .inf n => (.limit n, 0)
  | .nan s => nanOf [.nan s]

/-- a × 2^n (R134). -/
def opScale (a : FV) (n : Int) : Exact × Exc :=
  match a with
  | .fin s m e => (if m = 0 then .zero s else .num s m (e + n) false, 0)
  | .inf s => (.inf s, 0)
  | .nan s => nanOf [.nan s]

/-- The order of two values that are not NaN, -0 below +0 when `zeros` (R128, R129). -/
def FV.lt (zeros : Bool) (a b : FV) : Bool :=
  match a, b with
  | .inf n, .inf n' => n && !n'
  | .inf n, .fin _ _ _ => n
  | .fin _ _ _, .inf n' => !n'
  | .fin n m e, .fin n' m' e' =>
    if m = 0 && m' = 0 then zeros && n && !n'
    else
      let lo := min e e'
      let x : Int := (m <<< (e - lo).toNat : Nat)
      let y : Int := (m' <<< (e' - lo).toNat : Nat)
      decide ((if n then -x else x) < (if n' then -y else y))
  | _, _ => false

/-- FMIN and FMAX (R128) on encodings: the result is an operand's bits, or the canonical NaN. -/
def Fmt.minmax (f : Fmt) (isMax : Bool) (x y : Nat) : Nat × Exc :=
  let a := f.unpack x
  let b := f.unpack y
  let fl := if a.sig || b.sig then excNV else 0
  if a.isNan && b.isNan then (f.nan, fl)
  else if a.isNan then (y, fl)
  else if b.isNan then (x, fl)
  else if isMax then (if a.lt true b then y else x, fl)
  else (if b.lt true a then y else x, fl)

/-- The predicates of FCMP, in opcode order (R129). -/
inductive FCmp where
  | eq | ne | lt | le | gt | ge | un | or
  deriving DecidableEq, Repr

/-- FCMP.cc on values: the truth and NV (R129). -/
def FCmp.eval (c : FCmp) (a b : FV) : Bool × Exc :=
  let un := a.isNan || b.isNan
  let sig := if a.sig || b.sig then excNV else 0
  let any := if un then excNV else 0
  let lt := a.lt false b
  let gt := b.lt false a
  match c with
  | .eq => (!un && !lt && !gt, sig)
  | .ne => (un || lt || gt, sig)
  | .lt => (!un && lt, any)
  | .le => (!un && !gt, any)
  | .gt => (!un && gt, any)
  | .ge => (!un && !lt, any)
  | .un => (un, sig)
  | .or => (!un, sig)

/-- The class bits of an element (R133). -/
def Fmt.classOf (f : Fmt) (x : Nat) : Nat :=
  match f.unpack x with
  | .nan s => if s then 0x100 else 0x200
  | .inf n => if n then 0x001 else 0x080
  | .fin n m _ =>
    if m = 0 then (if n then 0x008 else 0x010)
    else if f.expo x = 0 then (if n then 0x004 else 0x020)
    else (if n then 0x002 else 0x040)

/-- FCVTI (R138): a float rounded to an integer in the mode and saturated to lo..hi. -/
def toInt (mode u : Nat) (lo hi : Int) (a : FV) : Int × Exc :=
  match a with
  | .nan _ => (0, excNV)
  | .inf n => (if n then lo else hi, excNV)
  | .fin n m e =>
    if decide (0 < e) && decide (200 < e + (Nat.log2 m : Int)) && m != 0 then (if n then lo else hi, excNV)
    else
      let r := roundInt n m e mode u
      let v : Int := if n then -(r.1 : Int) else r.1
      if hi < v then (hi, excNV)
      else if v < lo then (lo, excNV)
      else (v, if r.2 then excNX else 0)

/-- An integer as an exact value (R139): 0 gives +0. -/
def ofInt (x : Int) : Exact := if x = 0 then .zero false else .num (decide (x < 0)) x.natAbs 0 false

/-- A value converted to another format (R137): NaN canonical, NV when it signals. -/
def opCvt (a : FV) : Exact × Exc :=
  match a with
  | .nan s => nanOf [.nan s]
  | v => (v.exact, 0)

/-- Rounds what an operation formed and joins the flags (R125). -/
def Fmt.finish (f : Fmt) (mode : Nat) (sat : Bool) (u : Nat) (x : Exact × Exc) : Nat × Exc :=
  let r := f.round mode sat u x.1
  (r.1, x.2 ||| r.2)

end Sys2Proof.Machine
end

