-- ==== Sys2Proof/Machine/Nx4.lean ====
section
/-! DEFINITION. NX4 blocks (R55, R56, R69 to R71): element values, the block encoder of NXENC (R141) and the element decoder of
NXDEC (R142). -/

namespace Sys2Proof.Machine

/-- A value times 2^k. -/
def FV.scale (v : FV) (k : Int) : FV :=
  match v with
  | .fin n m e => .fin n m (e + k)
  | v => v

/-- The value of an element (R70): scale byte c, special byte s, code, and the outlier entry an escape with S[7] = 1 names. -/
def nx4Value (c s code : Nat) (outlier : FV) : FV :=
  if c = 255 then .nan false
  else if code ≠ 8 then (fmtE2.unpack code).scale ((c : Int) - 127)
  else if s < 128 then .fin (s.testBit 6) (8 + s % 8) (((s / 8 % 8 : Nat) : Int) - 4 + ((c : Int) - 127))
  else outlier

/-- Code i of the sixteen code bytes of a block, as one number (R69). -/
def nx4Code (codes : Nat) (i : Nat) : Nat := (codes >>> (4 * i)) % 16

/-- How many escapes stand before element i (R70). -/
def escapesBefore (codes i : Nat) : Nat := ((List.range i).filter (fun j => nx4Code codes j == 8)).length

/-- An encoded block: the sixteen code bytes as one number, scale, special byte. -/
structure Nx4Block where
  codes : Nat
  c     : Nat
  s     : Nat
  deriving DecidableEq, Repr

/-- The grid of the escape (R141): (1 + f ÷ 8) × 2^(e - 1) nearest to m × 2^k, as (e, f). -/
def escapeOf (m : Nat) (k : Int) : Nat × Nat :=
  let lg : Int := (Nat.log2 m : Int) + k
  let r := (roundAt false m k false (lg - 3) 0 0).1
  if r = 16 then ((lg + 2).toNat, 0) else ((lg + 1).toNat, r - 8)

/-- NXENC's block of 32 binary32 encodings (R141). -/
def nx4Encode (xs : List Nat) : Nx4Block :=
  let mags := xs.map (fun x => x % 2 ^ 31)
  let mb := mags.foldl max 0
  if mags.any (fun x => 0x7F80_0000 ≤ x) then ⟨0, 255, 0⟩
  else
    match fmt32.unpack mb with
    | .fin _ m e =>
      if m = 0 then ⟨0, 127, 0⟩
      else
        let lg : Int := (Nat.log2 m : Int) + e
        let c := (max (lg - 2 + 127) 0).toNat
        let k : Int := 127 - (c : Int)
        let q := mags.findIdx (fun x => x == mb)
        let esc : Bool := decide (-1 ≤ lg + k)
        let ef := escapeOf m (e + k)
        let s := if esc then (if (xs.getD q 0).testBit 31 then 64 else 0) + 8 * ef.1 + ef.2 else 0
        let code := fun (p : Nat) =>
          if esc && p == q then 8
          else (fmtE2.round 0 false 0 ((fmt32.unpack (xs.getD p 0)).scale k).exact).1
        ⟨(List.range 32).foldl (fun acc p => acc + (code p <<< (4 * p))) 0, c, s⟩
    | _ => ⟨0, 255, 0⟩

/-- Whether two values that are no NaN are equal as numbers. -/
def FV.sameNum (a b : FV) : Bool := !a.isNan && !b.isNan && !a.lt false b && !b.lt false a

/-- The word of lane position p that NXENC writes: codes 8 × (p div 8) to 8 × (p div 8) + 7 (R141). -/
def Nx4Block.word (b : Nx4Block) (p : Nat) : Word := BitVec.ofNat 32 (b.codes >>> (32 * (p / 8)))
/-- The scale and special byte (R141). -/
def Nx4Block.ctl (b : Nx4Block) : Word := BitVec.ofNat 32 (b.c + 256 * b.s)
/-- Whether position p's element differs, as a number, from the value encoded (R141): −0 encoded as +0 does not (DESIGN CHOICE,
assumption 60). -/
def Nx4Block.lossy (b : Nx4Block) (p x : Nat) : Bool :=
  !(nx4Value b.c b.s (nx4Code b.codes p) (.nan false)).sameNum (fmt32.unpack x)

/-- NXDEC's element (R142): code k of a with the block's c and s, rounded to a format. -/
def nx4Decode (f : Fmt) (a k c s : Nat) : Nat × Exc :=
  let r := f.round 0 false 0 (nx4Value c s (nx4Code a k) (.nan false)).exact
  (r.1, if r.2 &&& excOF = 0 then 0 else excOF ||| excNX)

end Sys2Proof.Machine
end

