-- ==== Sys2Proof/Machine/Alias.lean ====
section
/-! DEFINITION. Reading a decoded alias (R70, R71, R74, R76), and the byte that a read at the owner or at home finds. -/

namespace Sys2Proof.Machine

/-- An FP16 outlier entry's value (R70), or NaN beyond the list; `rd` reads bytes of memory. -/
def Window.outlier (w : Window) (rd : Nat → Byte) (n : Nat) : FV :=
  if w.olen ≤ n then .nan false
  else fmt16.unpack (ofBytes (tab 2 (fun i => rd (w.obase + 2 * n + i))))

/-- The offset of superblock q (R72). -/
def Window.offset (w : Window) (rd : Nat → Byte) (q : Nat) : Nat := ofBytes (tab 4 (fun i => rd (w.sobase + 4 * q + i)))

/-- The value of an element of a window's compact range, by element number (R69, R70, R74). -/
def Window.elem (w : Window) (rd : Nat → Byte) (elem : Nat) : FV :=
  let b := elem / 32
  let i := elem % 32
  let codes := ofBytes (tab 16 (fun k => rd (w.cbase + 18 * b + k)))
  let c := (rd (w.cbase + 18 * b + 16)).toNat
  let sp := (rd (w.cbase + 18 * b + 17)).toNat
  nx4Value c sp (nx4Code codes i) (w.outlier rd (w.offset rd (b / 128) + sp % 128 + escapesBefore codes i))

/-- A byte of a window's alias: the little-endian BF16 of R71. -/
def Window.aliasByte (w : Window) (rd : Nat → Byte) (pa : Nat) : Byte :=
  let a := pa - w.abase
  let v := (fmtB16.round 0 false 0 (w.elem rd (a / 2)).exact).1
  (toBytes 2 v).getD (a % 2) 0

/-- The memory bytes that a byte of a window's alias is decoded from (R74, R76). -/
def Window.aliasDeps (w : Window) (rd : Nat → Byte) (pa : Nat) : List Nat :=
  let elem := (pa - w.abase) / 2
  let b := elem / 32
  let i := elem % 32
  let codes := ofBytes (tab 16 (fun k => rd (w.cbase + 18 * b + k)))
  let sp := (rd (w.cbase + 18 * b + 17)).toNat
  let blk := tab 18 (fun i => w.cbase + 18 * b + i)
  if nx4Code codes i = 8 ∧ 128 ≤ sp then
    let n := w.offset rd (b / 128) + sp % 128 + escapesBefore codes i
    blk ++ tab 4 (fun i => w.sobase + 4 * (b / 128) + i) ++ (if n < w.olen then tab 2 (fun i => w.obase + 2 * n + i) else [])
  else blk

/-- A global byte as a read at its home finds it. An alias byte is decoded there from the lines at their homes (R74, R76); the number
bounds how far an outlier list or offset array may lie in another window's alias. -/
def State.homeRead (s : State) : Nat → Nat → Byte
  | 0, pa => s.mem.read pa
  | n + 1, pa =>
    match s.aliasOf pa with
    | none => s.mem.read pa
    | some w => w.aliasByte (s.homeRead n) pa

/-- The byte a read at home or P finds: an alias byte is decoded there (R74, R76). -/
def State.readHome (s : State) (l : Loc) : Byte :=
  if l.sp = .glob ∨ l.sp = .slice then s.homeRead 16 l.addr else s.homeByte l

/-- The byte of a global address at the line's owner (R194). -/
def State.ownerByte (s : State) (pa : Nat) : Byte :=
  if (s.aliasOf pa).isSome then s.homeRead 16 pa
  else match s.dirty? (lineOf pa) with
  | some c => c.bytes.getD (pa % 128) 0
  | none => s.mem.read pa

/-- The byte of a location that a read at device scope sees now: at the owner, or at P (R197). -/
def State.devByte (s : State) (l : Loc) : Byte :=
  match l.sp with
  | .glob => s.ownerByte l.addr
  | _ => s.readHome l

/-- The number in n bytes of global memory read at the owner, little-endian. -/
def State.ownerNum (s : State) (pa n : Nat) : Nat := ofBytes (tab n (fun i => s.ownerByte (pa + i)))

/-- Whether a location lies in an enabled alias (R75). -/
def State.inAlias (s : State) (l : Loc) : Bool := (l.sp == .glob || l.sp == .slice) && (s.aliasOf l.addr).isSome

/-- Whether reading a byte of memory at its home meets poison (R387). -/
def State.isPoison (s : State) (pa : Nat) : Bool :=
  if s.poison.isEmpty then false
  else match s.aliasOf pa with
    | some w => (w.aliasDeps (s.homeRead 15) pa).any (fun a => s.poison.contains (lineOf a))
    | none => s.poison.contains (lineOf pa)

/-- Whether reading a byte meets poison: one in memory may, one in a scratchpad may not (R387). -/
def State.poisoned (s : State) (l : Loc) : Bool := (l.sp == .glob || l.sp == .slice) && s.isPoison l.addr

end Sys2Proof.Machine
end

