-- ==== Sys2Proof/Machine/Xlate.lean ====
section
/-! DEFINITION. Translation (R332 to R338): page-table walks, the two TLB levels, and format-window ranges. -/

namespace Sys2Proof.Machine

/-- The sizes of R34, by PSZ code (R334, R335). -/
def pageSizes : List Nat :=
  [2 ^ 12, 2 ^ 14, 2 ^ 16, 2 ^ 18, 2 ^ 20, 2 ^ 21, 2 ^ 22, 2 ^ 24, 2 ^ 26, 2 ^ 28, 2 ^ 30, 2 ^ 32]

/-- The PSZ codes a leaf may hold at a level (R335). -/
def leafCodes : Nat → List Nat
  | 0 => [0, 1, 2, 3, 4]
  | 1 => [5, 6, 7, 8, 9]
  | 2 => [10, 11]
  | _ => []

/-- A leaf as a walk finds it: virtual base, size, frame, rights and kind. -/
structure Leaf where
  va   : Nat
  size : Nat
  pa   : Nat
  r    : Bool
  w    : Bool
  x    : Bool
  ord  : PageKind
  deriving DecidableEq, Repr

/-- ORD (R334). -/
def ordOf : Nat → Option PageKind
  | 0 => some .rc
  | 1 => some .so
  | 2 => some .uo
  | _ => none

/-- What a table entry is (R334, R336). -/
inductive Pte where
  | leaf (psz frame : Nat) (r w x : Bool) (ord : PageKind)
  | table (frame : Nat)
  | absent (np : Nat)
  | bad
  deriving DecidableEq, Repr

/-- Reads a table entry's fields. An entry with V = 0 is `absent`; one whose reserved fields break R334 is `bad`. -/
def pteOf (e : Nat) : Pte :=
  let psz := e / 2 ^ 60 % 16
  let ord := e / 2 ^ 58 % 4
  let frame := e / 2 ^ 12 % 2 ^ 40 * 4096
  let resv := e / 2 ^ 52 % 64 != 0 || e / 2 ^ 7 % 32 != 0 || e.testBit 1
  if !e.testBit 0 then .absent (e / 32 % 4)
  else if resv || e / 32 % 4 != 0 then .bad
  else if psz = 15 then
    (if ord != 0 || e.testBit 2 || e.testBit 3 || e.testBit 4 then .bad else .table frame)
  else if 12 ≤ psz then .bad
  else match ordOf ord with
    | some o => .leaf psz frame (e.testBit 2) (e.testBit 3) (e.testBit 4) o
    | none => .bad

/-- The address of the entry that indexes va at a level. -/
def pteAddr (table va level : Nat) : Nat := table + 8 * (va / 2 ^ (12 + 9 * level) % 512)

/-- The walk from a table at a level down (R334 to R337), its entries read at the owner. -/
def walkFrom (s : State) (va : Nat) : Nat → Nat → Option Leaf
  | level, table =>
    if !s.populated table 4096 then none
    else match pteOf (s.ownerNum (pteAddr table va level) 8) with
      | .leaf psz frame r w x ord =>
        let size := pageSizes.getD psz 1
        if (leafCodes level).contains psz && frame % size == 0 && s.populated frame size then
          some ⟨va / size * size, size, frame, r, w, x, ord⟩
        else none
      | .table frame =>
        match level with
        | 0 => none
        | l + 1 => walkFrom s va l frame
      | _ => none

/-- The walk of a context's page table for a virtual address (R334). -/
def State.walk (s : State) (ctx va : Nat) : Option Leaf :=
  if 2 ^ 57 ≤ va then none else walkFrom s va 4 (s.ctx ctx).root

/-- Where a requester's TLB entries are: a core's first level, then its tile's second; an engine has only the second (R338). -/
structure Walker where
  core : Option Nat
  tile : Nat
  ctx  : Nat
  deriving DecidableEq, Repr

/-- The bytes that one table entry of a page of a size maps (R335). -/
def entrySpan (size : Nat) : Nat := if size < 2 ^ 21 then 2 ^ 12 else if size < 2 ^ 30 then 2 ^ 21 else 2 ^ 30

/-- The entry of a TLB level that covers a virtual address: it was filled from the table entry that the address indexes (R335). -/
def tlbHit (tlb : List TlbEnt) (place ctx va : Nat) : Option TlbEnt :=
  tlb.find? (fun e => e.place == place && e.ctx == ctx && e.va ≤ va && va < e.va + e.size &&
    e.parts.contains ((va - e.va) / entrySpan e.size))

def TlbEnt.leaf (e : TlbEnt) : Leaf := ⟨e.va, e.size, e.pa, e.r, e.w, e.x, e.ord⟩
/-- A leaf found for a virtual address, as a TLB entry. -/
def Leaf.ent (l : Leaf) (place ctx va : Nat) : TlbEnt :=
  ⟨place, ctx, l.va, l.size, l.pa, l.r, l.w, l.x, l.ord, [(va - l.va) / entrySpan l.size]⟩

/-- The translation a requester uses for a virtual address: its first-level TLB, its tile's, or a walk (R338). -/
def State.lookup (s : State) (k : Walker) (va : Nat) : Option Leaf :=
  match k.core.bind (fun c => tlbHit s.tlb1 c k.ctx va) with
  | some e => some e.leaf
  | none =>
    match tlbHit s.tlb2 k.tile k.ctx va with
    | some e => some e.leaf
    | none => s.walk k.ctx va

/-- Two entries hold one translation of one page. -/
def TlbEnt.same (a b : TlbEnt) : Bool := { a with parts := [] } == { b with parts := [] }

/-- A TLB level with an entry put in front, or joined to the one that holds the same translation of the page; beyond `cap` entries of
its place the oldest go (DESIGN CHOICE, assumption 11). -/
def tlbAdd (tlb : List TlbEnt) (cap : Nat) (e : TlbEnt) : List TlbEnt :=
  if tlb.any e.same then tlb.map (fun x => if e.same x then { x with parts := e.parts ++ x.parts } else x)
  else
    let mine := (e :: tlb.filter (fun x => x.place == e.place)).take cap
    mine ++ tlb.filter (fun x => x.place != e.place)

/-- The TLBs after a translation: a walk fills both levels, a second-level hit the first (R338). -/
def State.touch (s : State) (k : Walker) (va : Nat) : State :=
  match k.core.bind (fun c => tlbHit s.tlb1 c k.ctx va) with
  | some _ => s
  | none =>
    match s.lookup k va with
    | none => s
    | some l =>
      let s := match tlbHit s.tlb2 k.tile k.ctx va with
        | some _ => s
        | none => { s with tlb2 := tlbAdd s.tlb2 32768 (l.ent k.tile k.ctx va) }
      match k.core with
      | some c => { s with tlb1 := tlbAdd s.tlb1 256 (l.ent c k.ctx va) }
      | none => s

/-- Drops the TLB entries a condition picks, on every core and tile. -/
def State.shootdown (s : State) (f : TlbEnt → Bool) : State :=
  { s with tlb1 := s.tlb1.filter (fun e => !f e), tlb2 := s.tlb2.filter (fun e => !f e) }

/-- Two ranges of bytes overlap. -/
def overlap (a n b m : Nat) : Bool := decide (a < b + m) && decide (b < a + n) && n != 0 && m != 0

end Sys2Proof.Machine
end

