-- ==== Sys2Proof/Machine/Handles.lean ====
section
/-! DEFINITION. The issuing fragment and what it reaches: the handle table (R167 to R169), the fixed handles, where a byte of a
handle lies (R165, R166, R409), and the checks that every memory instruction makes (R170). -/

namespace Sys2Proof.Machine

/-- A handle entry's fields (R168). -/
structure Hnd where
  kind  : Nat
  space : Nat
  rd    : Bool
  wr    : Bool
  atom  : Bool
  reuse : Nat
  rcnt  : Nat
  place : Nat
  home  : Nat
  fmt   : Nat
  swz   : Nat
  ndim  : Nat
  base  : Nat
  len   : Nat
  size  : List Nat
  strd  : List Nat
  raw   : BitVec 256
  deriving DecidableEq, Repr

/-- Reads an entry's fields. `size` and `strd` hold the tensor's sizes and byte strides by dimension, as SIZEd + 1 and
16 × STRIDEd (the contiguous dimension 0 has none). -/
def hndOf (x : BitVec 256) : Hnd where
  kind := (x.extractLsb' 253 3).toNat
  space := (x.extractLsb' 250 3).toNat
  rd := x.getLsbD 249
  wr := x.getLsbD 248
  atom := x.getLsbD 247
  reuse := (x.extractLsb' 245 2).toNat
  rcnt := (x.extractLsb' 241 4).toNat
  place := (x.extractLsb' 239 2).toNat
  home := (x.extractLsb' 236 3).toNat
  fmt := (x.extractLsb' 232 4).toNat
  swz := (x.extractLsb' 229 3).toNat
  ndim := (x.extractLsb' 226 3).toNat
  base := (x.extractLsb' 168 53).toNat * 16
  len := (x.extractLsb' 111 57).toNat
  size := tab 5 (fun d => (x.extractLsb' (88 + 16 * d) 16).toNat + 1)
  strd := tab 5 (fun d => if d = 0 then 0 else 16 * (x.extractLsb' (22 * (d - 1)) 22).toNat)
  raw := x

/-- The bytes of n elements of a tensor format (R168): .f32, .f16, .bf16, .e4m3, .e5m2, .nx4, .i8, .f64, .i32. -/
def fmtBytes (fmt n : Nat) : Nat :=
  match fmt with
  | 0 => 4 * n
  | 1 => 2 * n
  | 2 => 2 * n
  | 3 => n
  | 4 => n
  | 5 => 18 * n / 32
  | 6 => n
  | 7 => 8 * n
  | 8 => 4 * n
  | _ => 0

/-- The extent of a tensor (R168). -/
def Hnd.extent (h : Hnd) : Nat :=
  fmtBytes h.fmt (h.size.getD 0 1) +
    ((List.range h.ndim).map (fun d => if d = 0 then 0 else (h.size.getD d 1 - 1) * h.strd.getD d 0)).sum

/-- The number of bytes in a handle's bounds. -/
def Hnd.bytes (h : Hnd) : Nat := if h.kind = 2 then h.extent else h.len

/-- A fixed handle: a linear entry with every right (R169). -/
def fixedHnd (space len : Nat) : Hnd :=
  ⟨1, space, true, true, true, 0, 0, 0, 0, 0, 0, 0, 0, len, [1, 1, 1, 1, 1], [0, 0, 0, 0, 0], 0⟩

/-- The entry of handle i (R167): h0 slice, h1 block scratchpad, h2 cluster window, then the table. -/
def Launch.handle (l : Launch) (i : Nat) : Hnd :=
  match i with
  | 0 => fixedHnd 4 (4 * l.desc.slice)
  | 1 => fixedHnd 3 (128 * l.desc.spad)
  | 2 => fixedHnd 2 4194304
  | i + 3 => hndOf (l.handles.getD i 0)

/-- The issuing fragment with its group, block and launch. `own` is its Owned set: ACT, or for a lane word the holders (R268). -/
structure Iss where
  cur : Cursor
  g   : Group
  f   : Frag
  bid : Nat
  b   : Block
  l   : Launch
  own : Mask
  deriving DecidableEq, Repr

/-- The fragment at a place, if one stands there. -/
def State.fragAt (s : State) (c : Cursor) : Option Frag :=
  match Map.find? s.groups c.gid with
  | some g => match Map.find? g.table c.ent with
    | some (.frag f) => some f
    | _ => none
  | none => none

/-- The issuing fragment `cur` names. -/
def State.issuer? (s : State) : Option Iss :=
  match Map.find? s.groups s.cur.gid with
  | none => none
  | some g =>
    match Map.find? g.table s.cur.ent with
    | some (.frag f) =>
      match Map.find? s.blocks (s.cur.gid / 32) with
      | none => none
      | some b =>
        match Map.find? s.launches b.lid with
        | none => none
        | some l =>
          let own := match f.latch[f.latchAt]? with
            | some w => w.lanes &&& f.act
            | none => f.act
          some ⟨s.cur, g, f, s.cur.gid / 32, b, l, own⟩
    | _ => none

def Iss.gi (c : Iss) : Nat := c.cur.gid % 32
def Iss.tile (c : Iss) : Nat := c.b.core / 96
def Iss.walker (c : Iss) : Walker := ⟨some c.b.core, c.tile, c.l.ctx⟩
/-- The lanes that are not helper lanes. -/
def Iss.real (c : Iss) : Mask := c.g.lanes &&& ~~~c.g.helpers
/-- The handle of an index. -/
def Iss.handle (c : Iss) (i : Nat) : Hnd := c.l.handle i

/-- The block that stands in a slot of the issuing block's launch cluster (R166). -/
def State.slotBlock (s : State) (c : Iss) (slot : Nat) : Option Block :=
  if slot = c.b.cblk then some c.b
  else if c.b.child.isSome then none
  else (List.find? (fun p => p.2.lid == c.b.lid && p.2.cluster == c.b.cluster && p.2.cblk == slot
    && p.2.child.isNone) s.blocks).map Prod.snd

/-- The lane whose slice a form with one offset reaches (R409). -/
def Iss.sliceLane (c : Iss) : Option Nat := lowLane? (c.f.act &&& c.real)

/-- Whether bytes off .. off + n - 1 of a handle exist for the access (R165, R166, R170, R409). `lane` is none for the lane of
R409, which may not exist. -/
def State.inBounds (s : State) (c : Iss) (h : Hnd) (lane : Option Nat) (off : Int) (n : Nat) : Bool :=
  decide (0 ≤ off) && decide (off + (n : Int) ≤ (h.bytes : Int)) &&
    (if h.space = 2 then
      let a := h.base + off.toNat
      (List.range 8).all (fun slot =>
        !overlap a n (524288 * slot) 524288 ||
          (match s.slotBlock c slot with
           | some b => match Map.find? s.launches b.lid with
             | some l => decide (min (a + n) (524288 * (slot + 1)) ≤ 524288 * slot + 128 * l.desc.spad)
             | none => false
           | none => false)) && decide (a + n ≤ 4194304)
    else if h.space = 4 then
      match lane with
      | some L => bitOf c.real L
      | none => c.sliceLane.isSome
    else true)

/-- What an access needs of its page (R337). -/
inductive Acc where
  | r | w | x
  deriving DecidableEq, Repr

def Leaf.allows (l : Leaf) : Acc → Bool
  | .r => l.r
  | .w => l.w
  | .x => l.x

/-- Where byte off of a handle lies and its page kind; none when its translation fails (R335, R337). -/
def State.place (s : State) (c : Iss) (h : Hnd) (lane : Option Nat) (off : Nat) (acc : Acc) : Option (Loc × PageKind) :=
  let a := h.base + off
  match h.space with
  | 0 =>
    match s.lookup c.walker a with
    | some lf => if lf.allows acc then some (⟨.glob, lf.pa + (a - lf.va)⟩, lf.ord) else none
    | none => none
  | 1 => some (⟨.tpad, 33554432 * h.home + 65536 * (s.ctx c.l.ctx).tsOff + a⟩, .rc)
  | 2 =>
    let slot := a / 524288
    match s.slotBlock c slot with
    | some b => some (⟨.spad, 524288 * b.core + b.spbase + a % 524288⟩, .rc)
    | none => none
  | 3 => some (⟨.spad, 524288 * c.b.core + c.b.spbase + a⟩, .rc)
  | 4 =>
    match (match lane with | some L => some L | none => c.sliceLane) with
    | some L => some (⟨.slice, c.b.slbase + (96 * c.gi + L) * (4 * c.l.desc.slice) + a⟩, .rc)
    | none => none
  | _ => none

/-- Causes of R368 that end a block. -/
def causeHandle : Nat := 16
def causeRights : Nat := 17
def causeMisalign : Nat := 18
def causeBounds : Nat := 19
def causeAlias : Nat := 20
def causeDesc : Nat := 21
def causeBarrier : Nat := 22
def causeLease : Nat := 23
def causeDivergence : Nat := 24
def causeKilled : Nat := 25
def causeService : Nat := 26
def causeTileReset : Nat := 27
def causeCoreLost : Nat := 28
def causePoison : Nat := 29

/-- One access: the lane whose slice h0 reaches (none: the lane of R409), the lane that a failure reports (0xFF for a form with
one offset), byte offset and length. -/
structure Touch where
  lane : Option Nat
  det  : Nat
  off  : Int
  n    : Nat
  deriving DecidableEq, Repr

/-- What an access does to its bytes, for the checks of R170. -/
inductive AccKind where
  | load | store | atomic
  deriving DecidableEq, Repr

/-- Whether a handle has the right an access needs (R170 order 2). -/
def Hnd.right (h : Hnd) : AccKind → Bool
  | .load => h.rd
  | .store => h.wr
  | .atomic => h.atom

def AccKind.acc : AccKind → Acc
  | .load => .r
  | .store => .w
  | .atomic => .w

/-- Whether the handle's kind admits the access (R170 order 1). -/
def Hnd.usable (h : Hnd) (k : AccKind) : Bool :=
  h.kind == 1 || h.kind == 2 || (h.kind == 4 && k == .load)

/-- The lowest cause that an access fails by (R170), the last a failed translation (R283, R337). -/
def State.failure (s : State) (c : Iss) (h : Hnd) (idxOk : Bool) (k : AccKind) (align : Nat) (t : Touch) : Option Nat :=
  if !idxOk || !h.usable k then some causeHandle
  else if !h.right k then some causeRights
  else if 1 < align && t.off % (align : Int) != 0 then some causeMisalign
  else if !s.inBounds c h t.lane t.off t.n then some causeBounds
  else
    let locs := tab t.n (fun i => s.place c h t.lane (t.off.toNat + i) k.acc)
    if k != .load && locs.any (fun l => match l with | some (l, _) => s.inAlias l | none => false) then some causeAlias
    else if locs.any Option.isNone then some causeLease
    else none

/-- The fault of a list of accesses: the lowest cause, with the lowest lane that raised it. -/
def State.fault? (s : State) (c : Iss) (h : Hnd) (idxOk : Bool) (k : AccKind) (align : Nat) (ts : List Touch) :
    Option (Nat × Nat) :=
  ts.foldl (fun acc t =>
    match s.failure c h idxOk k align t with
    | none => acc
    | some cause =>
      match acc with
      | none => some (cause, t.det)
      | some (cause', d') => if cause < cause' ∨ (cause = cause' ∧ t.det < d') then some (cause, t.det) else acc) none

/-- The bytes of an access to a handle that translate fill the TLBs on the way (R338). -/
def State.touchAt (s : State) (c : Iss) (h : Hnd) (off n : Nat) : State :=
  if h.space = 0 then (s.touch c.walker (h.base + off)).touch c.walker (h.base + off + n - 1) else s

/-- Translation misses of a list of accesses fill the TLBs (R338). -/
def State.touchAll (s : State) (c : Iss) (h : Hnd) (ts : List Touch) : State :=
  ts.foldl (fun s t => s.touchAt c h t.off.toNat t.n) s

end Sys2Proof.Machine
end

