-- ==== Sys2Proof/Machine/Fetch.lean ====
section
/-! DEFINITION. Fetching code (R77, R88, R90, R97, R257). -/

namespace Sys2Proof.Machine

/-- Why code cannot be read. -/
inductive CodeErr where
  | handle | bounds | lease | poison
  deriving DecidableEq, Repr

/-- The cause that ends the block (R90, R257, R283, R387). -/
def CodeErr.cause : CodeErr → Nat
  | .handle => causeHandle
  | .bounds => causeBounds
  | .lease => causeLease
  | .poison => causePoison

/-- The line of a code address in the core's instruction cache. -/
def State.icLine (s : State) (core : Nat) (l : Loc) : Option ICLine :=
  s.icache.find? (fun x => x.core == core && x.sp == l.sp && x.line == lineOf l.addr)

/-- A byte of code: from the core's instruction cache, or memory (R97). A line that is read for a header, a block's end or a BRX table
alone is not kept there, and is read from memory each time: the spec does not say how long a fetched line stays (DESIGN CHOICE,
assumption 11). -/
def State.codeByte (s : State) (core : Nat) (l : Loc) : Byte :=
  match s.icLine core l with
  | some x => x.bytes.getD (l.addr % 128) 0
  | none => s.devByte l

/-- Bounds and kind of a unit of code. -/
def Iss.codeErr (c : Iss) (hnd : Nat) (off : Int) : Option CodeErr :=
  let h := c.handle hnd
  if h.kind ≠ 4 then some .handle
  else if off < 0 || decide ((h.len : Int) < off + 4) then some .bounds
  else none

/-- The unit at a byte offset of a code handle. A poisoned line that the cache does not hold is the fault POISON (R387). -/
def State.unitAt (s : State) (c : Iss) (hnd : Nat) (off : Int) : Except CodeErr Word :=
  match c.codeErr hnd off with
  | some r => .error r
  | none =>
    match s.place c (c.handle hnd) none (off.toNat / 4 * 4) .x with
    | none => .error .lease
    | some (l, _) =>
      if s.poisoned l && (s.icLine c.b.core l).isNone then .error .poison
      else
        let b := fun i => s.codeByte c.b.core ⟨l.sp, l.addr + i⟩
        .ok (b 3 ++ b 2 ++ b 1 ++ b 0)

/-- Up to n units of a code handle from a byte offset, and why the next could not be read. -/
def State.unitsFrom (s : State) (c : Iss) (hnd : Nat) : Nat → Nat → List Word × Option Nat
  | 0, _ => ([], none)
  | n + 1, off =>
    match s.unitAt c hnd off with
    | .error r => ([], some r.cause)
    | .ok w => let r := s.unitsFrom c hnd n (off + 4); (w :: r.1, r.2)

/-- Puts the line of a code address into the core's instruction cache, 512 lines at most (R25, R97; DESIGN CHOICE: the oldest line
goes, assumption 11). -/
def State.icFill (s : State) (c : Iss) (hnd : Nat) (off : Int) : State :=
  match c.codeErr hnd off with
  | some _ => s
  | none =>
    match s.place c (c.handle hnd) none (off.toNat / 4 * 4) .x with
    | none => s
    | some (l, _) =>
      let line := lineOf l.addr
      if (s.icLine c.b.core l).isSome || s.poisoned l then s
      else
        let e : ICLine := ⟨c.b.core, l.sp, line, tab 128 (fun i => s.devByte ⟨l.sp, line + i⟩)⟩
        let mine := (e :: s.icache.filter (fun x => x.core == c.b.core)).take 512
        { s with icache := mine ++ s.icache.filter (fun x => x.core != c.b.core) }

/-- A block header's fields (R44, R88). -/
structure Header where
  len    : Nat
  vlive  : Nat
  fuse   : Bool
  exlw   : Bool
  foff   : Int
  low    : Nat
  deriving DecidableEq, Repr

/-- The header's two units. -/
def headerOf (w0 w1 : Word) : Header :=
  ⟨(w0.extractLsb' 13 10).toNat, (w0.extractLsb' 7 6).toNat, w0.getLsbD 1, w0.getLsbD 0, (w1.extractLsb' 12 20).toInt,
    (w1.extractLsb' 0 8).toNat⟩

/-- What entering a block at an address finds (R88): its header, a reason of R94, or a cause that ends the block (R90). -/
inductive Found where
  | ok (h : Header)
  | bad (reason : Nat)
  | stop (cause : Nat)
  deriving DecidableEq, Repr

/-- The checks of R88 at an address of a code handle. A transfer reports every failure as TARGET (R94, R257, R260, R277;
DEDUCED, assumption 12), a fall-through FLOW or HEADER. -/
def State.header (s : State) (c : Iss) (hnd : Nat) (addr : Int) (transfer : Bool) : Found :=
  match s.unitAt c hnd addr with
  | .error r => .stop r.cause
  | .ok w0 =>
    if addr % 8 ≠ 0 ∨ opField w0 ≠ 0x1FE then .bad (if transfer then 2 else 1)
    else
      match s.unitAt c hnd (addr + 4) with
      | .error r => .stop r.cause
      | .ok w1 =>
        let h := headerOf w0 w1
        if h.len % 2 ≠ 0 ∨ h.len < 2 ∨ h.low ≠ 0 ∨ c.l.desc.vregs < h.vlive then .bad (if transfer then 2 else 3)
        else .ok h

/-- The byte offset of a code address (R257). -/
def codeOff (w : Word) : Nat := w.toNat % 2 ^ 24 * 8
/-- The handle of a code address (R257). -/
def codeHnd (w : Word) : Nat := w.toNat / 2 ^ 24
/-- The code address of a header (R257). -/
def codeAddr (hnd off : Nat) : Word := BitVec.ofNat 32 (hnd * 2 ^ 24 + off / 8)

end Sys2Proof.Machine
end

