-- ==== Sys2Proof/Machine/Ops.lean ====
section
/-! DEFINITION. The operations every meaning is built from: registers and masks of the issuing fragment, the split table (R246 to
R252), taking a trap and returning from one (R369 to R377), ending and evicting a block, and the end of an instruction (R63). -/

namespace Sys2Proof.Machine

/-! Registers -/

/-- Word r of lane L. -/
def Group.vGet (g : Group) (r L : Nat) : Word := laneGet (Map.get [] g.v r) L
def Group.sGet (g : Group) (n : Nat) : Word := Map.get 0 g.s n
def Group.kGet (g : Group) (n : Nat) : Mask := Map.get 0 g.k n

/-- Writes register r in the lanes for which `val` gives a word. -/
def Group.vPut (g : Group) (r : Nat) (val : Nat → Option Word) : Group :=
  let old := Map.get [] g.v r
  { g with v := Map.put g.v r (tab 96 (fun L => (val L).getD (laneGet old L))) }
def Group.sPut (g : Group) (n : Nat) (w : Word) : Group := { g with s := Map.put g.s n w }
def Group.kPut (g : Group) (n : Nat) (m : Mask) : Group := { g with k := Map.put g.k n m }

def State.setGroup (s : State) (gid : Nat) (g : Group) : State := { s with groups := Map.put s.groups gid g }
def State.setBlock (s : State) (bid : Nat) (b : Block) : State := { s with blocks := Map.put s.blocks bid b }
def State.setLaunch (s : State) (lid : Nat) (l : Launch) : State := { s with launches := Map.put s.launches lid l }

def State.modGroup (s : State) (gid : Nat) (f : Group → Group) : State :=
  match Map.find? s.groups gid with
  | some g => s.setGroup gid (f g)
  | none => s
def State.modBlock (s : State) (bid : Nat) (f : Block → Block) : State :=
  match Map.find? s.blocks bid with
  | some b => s.setBlock bid (f b)
  | none => s
def State.modLaunch (s : State) (lid : Nat) (f : Launch → Launch) : State :=
  match Map.find? s.launches lid with
  | some l => s.setLaunch lid (f l)
  | none => s

/-- Entry e of a split table. -/
def Group.entry (g : Group) (e : Nat) : Entry := Map.get .free g.table e
def Group.setEntry (g : Group) (e : Nat) (x : Entry) : Group := { g with table := Map.put g.table e x }
def Group.modFrag (g : Group) (e : Nat) (f : Frag → Frag) : Group :=
  match g.entry e with
  | .frag x => g.setEntry e (.frag (f x))
  | _ => g
def State.modFrag (s : State) (c : Cursor) (f : Frag → Frag) : State := s.modGroup c.gid (fun g => g.modFrag c.ent f)

/-- Groups of a block by number. -/
def State.groupsOf (s : State) (bid : Nat) : List (Nat × Group) := s.groups.filter (fun p => p.1 / 32 == bid)

/-- The number of groups of a block of N lanes (R241). -/
def groupCount (lanes : Nat) : Nat := ceilDiv lanes 96

/-- Lanes of group i of a block of N lanes that exist, helper lanes included, and its helper lanes (R241). -/
def groupLanes (lanes i : Nat) : Mask × Mask :=
  let n := min 96 (lanes - 96 * i)
  let q := ceilDiv n 4 * 4
  (maskOf (fun L => decide (L < q)), maskOf (fun L => decide (n ≤ L ∧ L < q)))

/-! Masks and scalars of the issuing fragment -/

/-- Mask register n as the fragment reads it: k0 is ACT (R244). -/
def Iss.k (c : Iss) (n : Nat) : Mask := if n = 0 then c.f.act else c.g.kGet n

/-- Scalar n as the fragment reads it: s29 to s31 are ACT (R244). -/
def Iss.s (c : Iss) (n : Nat) : Word :=
  if n = 29 then c.f.act.extractLsb' 0 32
  else if n = 30 then c.f.act.extractLsb' 32 32
  else if n = 31 then c.f.act.extractLsb' 64 32
  else c.g.sGet n

/-- The Active lanes of an instruction (R86). -/
def Iss.active (c : Iss) (e : Enc) : Mask :=
  let k := c.k e.p.msk.toNat
  c.own &&& (if e.p.inv then ~~~k else k)

/-- Contrib: Active, not helper lanes, and existing (R99). -/
def Iss.contrib (c : Iss) (active : Mask) : Mask := active &&& c.real

/-- The number of beats in which a set has a lane (R86). -/
def beatsOf (m : Mask) : Nat :=
  ((List.range 3).filter (fun b => m.extractLsb' (32 * b) 32 != 0)).length

/-- What an instruction writes: the group with its registers, and the lanes whose activity bit it writes 0 (R245). -/
structure Eff where
  g     : Group
  clear : Mask
  deriving DecidableEq, Repr

/-- A scalar write; a write to s29 to s31 is a write to the activity mask (R111, R245). -/
def Eff.sPut (x : Eff) (act : Mask) (n : Nat) (w : Word) : Eff :=
  if n < 29 then { x with g := x.g.sPut n w }
  else
    let beat : Mask := (w.zeroExtend 96) <<< (32 * (n - 29))
    let lanes : Mask := (0xFFFFFFFF#96) <<< (32 * (n - 29))
    { x with clear := x.clear ||| (act &&& lanes &&& ~~~beat) }

/-- A write of `bits` to mask n in the lanes of `wr` (R112); k0 is the activity mask (R245). -/
def Eff.kPut (x : Eff) (act : Mask) (n : Nat) (wr bits : Mask) : Eff :=
  if n = 0 then { x with clear := x.clear ||| (act &&& wr &&& ~~~bits) }
  else { x with g := x.g.kPut n ((x.g.kGet n &&& ~~~wr) ||| (bits &&& wr)) }

/-! The split table -/

/-- Every lane of a group that has not exited (R243, R250). -/
def Group.alive (g : Group) : Mask :=
  let t := g.table.foldl (fun m p => match p.2 with
    | .frag f => m ||| f.act
    | .fusion r => m ||| r.arr
    | .free => m) 0
  g.defer.foldl (fun m d => m ||| d.nmask ||| d.arr) t

/-- The top deferral record of an entry (R247). -/
def Group.topDefer (g : Group) (ent : Nat) : Option Defer := (g.defer.filter (fun d => d.owner == ent)).getLast?

/-- Replaces the top deferral record of an entry, or removes it. -/
def Group.setTop (g : Group) (ent : Nat) (d : Option Defer) : Group :=
  let go := g.defer.reverse
  let i := go.findIdx (fun x => x.owner == ent)
  { g with defer := ((match d with
      | some d => go.set i d
      | none => go.eraseIdx i)).reverse }

/-- The innermost fusion point of a fragment: code handle and header, or none for the block end (R248). -/
def Group.inner (g : Group) (ent : Nat) (f : Frag) : Option (Nat × Nat) :=
  match g.topDefer ent with
  | some d => some (d.hnd, d.fpc)
  | none =>
    match f.fe with
    | none => none
    | some r => match g.entry r with
      | .fusion r => some (r.hnd, r.fpc)
      | _ => none

/-- A new fragment. -/
def newFrag (hnd pc blk : Nat) (act : Mask) (fe : Option Nat) (now : Nat) : Frag :=
  ⟨hnd, pc, blk, act, fe, .ready, now, false, 0, false, false, now, [], 0, none, none, none, none⟩

/-- The lanes C leave EXP of every fusion record of the group (R250). -/
def Group.gone (g : Group) (m : Mask) : Group :=
  { g with table := g.table.map (fun p => match p.2 with
      | .fusion r => (p.1, .fusion { r with exp := r.exp &&& ~~~m })
      | x => (p.1, x)) }

/-- The first fusion record whose ARR covers its EXP (R252). -/
def Group.covered (g : Group) : Option Nat :=
  (List.find? (fun p => match p.2 with
    | .fusion r => r.exp &&& ~~~r.arr == 0
    | _ => false) g.table).map Prod.fst

/-- A change to the split table that is still to be made: lanes arrive, or a fragment enters a block (R249). -/
inductive Move where
  | arrive (ent : Nat) (lanes : Mask)
  | enter (ent addr : Nat) (transfer : Bool)
  deriving DecidableEq, Repr

/-- A block entry that failed (R88, R90): entry, address, and what was found. -/
structure BadEntry where
  ent   : Nat
  addr  : Nat
  found : Found
  deriving DecidableEq, Repr

/-- Arrive, Fuse and Enter of R249, one change at a time (R252). `look` reads headers; `now` is the place in the issue order. The
header that a fusion, a popped deferral record or its deferred lanes enter is checked as a transfer's, so that one that fails gives
TARGET: the spec names the reasons of a transfer and of a fall-through only (DESIGN CHOICE, assumption 12). -/
def Group.moves (look : Nat → Nat → Bool → Found) (now : Nat) : Nat → List Move → Group → List BadEntry →
    Group × List BadEntry
  | 0, _, g, bad => (g, bad)
  | n + 1, [], g, bad =>
    match g.covered with
    | none => (g, bad)
    | some r =>
      match g.entry r with
      | .fusion x =>
        let g' := g.setEntry r (.frag (newFrag x.hnd x.fpc x.fpc x.arr x.fe now))
        if x.arr = 0 then Group.moves look now n [.arrive r 0] g' bad
        else Group.moves look now n [.enter r x.fpc true] g' bad
      | _ => (g, bad)
  | n + 1, .enter ent addr tr :: ms, g, bad =>
    match g.entry ent with
    | .frag f =>
      match look f.hnd addr tr with
      | .ok h =>
        let g' := g.setEntry ent (.frag { f with pc := addr + 8, blk := addr })
        if h.fuse && g.inner ent f == some (f.hnd, addr) then Group.moves look now n (.arrive ent f.act :: ms) g' bad
        else Group.moves look now n ms g' bad
      | r => Group.moves look now n ms (g.setEntry ent (.frag { f with pc := addr })) (⟨ent, addr, r⟩ :: bad)
    | _ => Group.moves look now n ms g bad
  | n + 1, .arrive ent m :: ms, g, bad =>
    match g.entry ent with
    | .frag f =>
      let f' := { f with act := f.act &&& ~~~m }
      let g' := g.setEntry ent (.frag f')
      match g.topDefer ent with
      | some d =>
        let d' := { d with arr := d.arr ||| (m &&& f.act) }
        if f'.act ≠ 0 then Group.moves look now n ms (g'.setTop ent (some d')) bad
        else
          let idle := { f' with st := .ready, latch := [], latchAt := 0, park := none, pool := none, buf := none, hnd := d.hnd }
          if d'.nmask ≠ 0 then
            let g1 := (g'.setTop ent (some { d' with nmask := 0 })).setEntry ent
              (.frag { idle with act := d'.nmask, pc := d.pcn, blk := d.blk })
            if d.pcn = d.blk then Group.moves look now n (.enter ent d.pcn true :: ms) g1 bad
            else Group.moves look now n ms g1 bad
          else
            let g1 := (g'.setTop ent none).setEntry ent (.frag { idle with act := d'.arr, pc := d.fpc })
            if d'.arr = 0 then Group.moves look now n (.arrive ent 0 :: ms) g1 bad
            else Group.moves look now n (.enter ent d.fpc true :: ms) g1 bad
      | none =>
        match f.fe with
        | none =>
          let g1 := { g'.gone (m &&& f.act) with exitAt := now }
          if f'.act = 0 then Group.moves look now n ms (g1.setEntry ent .free) bad
          else Group.moves look now n ms g1 bad
        | some r =>
          let g1 := match g'.entry r with
            | .fusion x => g'.setEntry r (.fusion { x with arr := x.arr ||| (m &&& f.act) })
            | _ => g'
          if f'.act = 0 then Group.moves look now n ms (g1.setEntry ent .free) bad
          else Group.moves look now n ms g1 bad
    | _ => Group.moves look now n ms g bad

/-- Bound on the changes one instruction can cause: each one frees or fills an entry or a record. -/
def moveFuel : Nat := 200

/-! Traps, faults and block ends -/

/-- The detail of a form that names no lane (R368). -/
def noLane : Nat := 255

/-- The detail that a fault's cause carries (R368): the lane for causes 16 to 20 and POISON, else 0. -/
def faultDetail (cause lane : Nat) : Nat := if cause ≤ 20 ∨ cause = 29 then lane else 0

/-- A trap record of a fragment (R370). -/
def mkTrap (f : Frag) (cause detail : Nat) (lanes : Mask) (addr : Nat) : TrapRec :=
  ⟨cause, detail, f.hnd, f.pc, lanes, 0, addr, []⟩

/-- The trap registers that a record sets (R370). -/
def TrapRec.regs (r : TrapRec) (blk : Nat) : TrapRegs :=
  ⟨BitVec.ofNat 8 r.hnd, BitVec.ofNat 8 r.detail, BitVec.ofNat 8 r.cause, BitVec.ofNat 27 r.pc, r.lanes,
    BitVec.ofNat 7 r.word, BitVec.ofNat 32 r.addr, blk, false, r.latch, r.pc, none⟩

/-- A block stops with a cause, none of its lanes to run again; it counts as ended after its drains (R251). -/
def State.endBlock (s : State) (bid cause detail : Nat) : State :=
  match Map.find? s.blocks bid with
  | none => s
  | some b =>
    if b.st = .ending ∨ b.st = .over then s
    else
      let s := s.setBlock bid { b with st := .ending, cause := cause, detail := detail }
      { s with groups := s.groups.map (fun p => if p.1 / 32 = bid then (p.1, { p.2 with table := [], defer := [] }) else p) }

/-- The blocks of a block's launch cluster (R235); a child is alone (R299). A block that has ended has left the table or is ending,
and counts as arrived. -/
def State.clusterOf (s : State) (bid : Nat) : List Nat :=
  match Map.find? s.blocks bid with
  | none => []
  | some b =>
    if b.child.isSome then [bid]
    else (s.blocks.filter (fun p => p.2.lid == b.lid && p.2.cluster == b.cluster && p.2.child.isNone && p.2.st != .ending && p.2.st != .over)).map
      Prod.fst

/-- Whether a block may still be evicted for a reason of its own. -/
def Block.live (b : Block) : Bool := b.st == .running || b.st == .stopping .preempt

/-- Whether a block is being evicted. -/
def Block.stopping (b : Block) : Bool :=
  match b.st with
  | .stopping _ => true
  | _ => false

/-- A block is to be evicted, and with it every block of its launch cluster (R295, R365, R374, R381); the first reason of its own that a
block gives stands. -/
def State.evict (s : State) (bid : Nat) (why : Evict) : State :=
  let s := (s.clusterOf bid).foldl (fun s b => s.modBlock b (fun x =>
    if x.st = .running then { x with st := .stopping .preempt } else x)) s
  s.modBlock bid (fun x => if x.live then { x with st := .stopping why } else x)

/-- The place of the instruction a fragment stands at, with its Active lanes. -/
def Frag.site (f : Frag) (lanes : Mask) : Site := ⟨f.hnd, f.pc, f.blk, f.latch, f.latchAt, lanes⟩

/-- A fragment put back at an instruction in STATE 2 for the fault-service duty (R369). -/
def Frag.putBack (f : Frag) (at_ : Site) : Frag :=
  { f with st := .pending, trap := none, latch := [], latchAt := 0, park := none, pool := none, buf := none,
           hnd := at_.hnd, pc := at_.pc, blk := at_.blk }

/-- The start of each slot of a block's launch cluster in the core scratchpads (R166), 0 for a slot that holds no block. -/
def State.slotStarts (s : State) (b : Block) : List Nat :=
  let mate := fun (i : Nat) => if i = b.cblk then some b
    else if b.child.isSome then none
    else (List.find? (fun p => p.2.lid == b.lid && p.2.cluster == b.cluster && p.2.cblk == i && p.2.child.isNone) s.blocks).map Prod.snd
  tab 8 (fun i => match mate i with | some m => 524288 * m.core + m.spbase | none => 0)

/-- A fault of an instruction at a site, of the fragment at a place, ends the block. With the fault-service duty host-assisted the block
is evicted, and its image holds that fragment at the instruction in STATE 2 and, within an EXLW, the list and the word (R6, R269,
R369). A fragment that stands at the instruction (`stays`) is put back at once, another when the image is written; `left` is what
remains of the instruction. While the block is already stopping the registers and the cause stay those of the first fault (DESIGN
CHOICE, assumption 46). -/
def State.faultAt (s : State) (cur : Cursor) (at_ : Site) (r : TrapRec) (stays : Bool) (evs : List IqEv)
    (eng : Option (Engine × Option Nat)) : State :=
  let bid := cur.gid / 32
  match Map.find? s.blocks bid, Map.find? s.groups cur.gid with
  | some b, some g =>
    if s.assisted 3 && (b.live || b.stopping) then
      let r := if at_.latch.isEmpty then r else { r with word := at_.latchAt, latch := at_.latch }
      let x : Late := ⟨cur.gid % 32, cur.ent, at_, stays, if stays then s.fragAt cur else none, g.trap, evs, eng.map Prod.fst,
        s.slotStarts b, eng.bind Prod.snd⟩
      let s := s.modBlock bid (fun b => { b with late := b.late ++ [x] })
      let s := if stays then s.modFrag cur (fun f => f.putBack at_) else s
      if b.live then
        let s := s.modGroup cur.gid (fun g => { g with trap := r.regs at_.blk })
        (s.evict bid .service).modBlock bid (fun b => { b with cause := r.cause, detail := r.detail })
      else s
    else s.endBlock bid r.cause r.detail
  | some _, none => s.endBlock bid r.cause r.detail
  | none, _ => s

/-- A fault of the fragment at a place, at the instruction it stands at. -/
def State.faultBlock (s : State) (cur : Cursor) (r : TrapRec) : State :=
  match s.fragAt cur with
  | some f => s.faultAt cur { f.site r.lanes with hnd := r.hnd, pc := r.pc } r true [] none
  | none => s.endBlock (cur.gid / 32) r.cause r.detail

/-- Whether some fragment of a group is in the trap handler. -/
def Group.handling (g : Group) : Bool :=
  g.table.any (fun p => match p.2 with
    | .frag f => f.st == .handler
    | _ => false)

/-- Delivers a trap to the fragment of `c` (R372): STATE 3, the trap registers, and the handler's entry, checked as a transfer
target (R88). -/
def State.deliver (s : State) (c : Iss) (r : TrapRec) : State :=
  let hnd := codeHnd c.l.desc.trap
  let off := codeOff c.l.desc.trap
  let f := { c.f with st := .handler, trap := none, hnd := hnd, latch := [], latchAt := 0, park := none, buf := none }
  let s := s.modGroup c.cur.gid (fun g => { g.setEntry c.cur.ent (.frag f) with trap := { r.regs c.f.blk with fresh := some s.seq } })
  match s.header c hnd off true with
  | .ok _ => s.modFrag c.cur (fun f => { f with pc := off + 8, blk := off })
  | .bad reason => s.faultBlock c.cur (mkTrap { f with pc := off } 1 reason c.f.act off)
  | .stop cause => s.faultBlock c.cur (mkTrap { f with pc := off } cause (faultDetail cause noLane) c.f.act 0)

/-- Takes a trap in the group (R369, R372, R375): delivered, or held in STATE 2 behind a fragment in the handler, or, with no
handler or in the handler, the block's end. -/
def State.takeTrap (s : State) (c : Iss) (r : TrapRec) : State :=
  if c.l.desc.trap = 0 || c.f.st == .handler then s.faultBlock c.cur r
  else
    match Map.find? s.groups c.cur.gid with
    | none => s
    | some g =>
      if g.handling then s.modFrag c.cur (fun f => { f with st := .pending, trap := some r })
      else s.deliver c r

/-- A fault that the issuing instruction meets before it acts, as (cause, lane), with its Active lanes (R170, R368, R370). -/
def State.stopBlock (s : State) (c : Iss) (r : Nat × Nat) (lanes : Mask) : State :=
  s.faultBlock c.cur (mkTrap c.f r.1 (faultDetail r.1 r.2) lanes 0)

/-- Opcodes that a prefix may stand before (R85). -/
def takesPrefix (op : Nat) : Bool :=
  (0x060 ≤ op && op ≤ 0x082) || (0x0E0 ≤ op && op ≤ 0x100) || (0x140 ≤ op && op ≤ 0x158) || (0x170 ≤ op && op ≤ 0x173) ||
    (0x176 ≤ op && op ≤ 0x181) || op == 0x191

/-- The Active lanes of any instruction: of an opcode that takes a prefix those the mask picks (R86), else the fragment's (R370). -/
def Iss.activeOf (c : Iss) (i : Instr) : Mask :=
  match opcodeOf i with
  | some (op, e) => if takesPrefix op.toNat then c.active e else c.own
  | none => c.own

/-- An illegal-instruction trap (R93, R94) of the instruction at the fragment's PC. -/
def State.illegal (s : State) (c : Iss) (i : Instr) (reason : Nat) : State :=
  s.takeTrap c (mkTrap c.f 1 reason (c.activeOf i) 0)

/-- A block entry that failed becomes the trap or fault of the fragment there: reported at the header (R88, R93). -/
def State.badEntry (s : State) (gid : Nat) (b : BadEntry) : State :=
  match { s with cur := ⟨gid, b.ent⟩ }.issuer? with
  | none => s
  | some c =>
    let r := mkTrap { c.f with pc := b.addr } 1 0 c.f.act 0
    match b.found with
    | .ok _ => s
    | .bad reason => s.takeTrap c { r with detail := reason, addr := if reason = 2 then b.addr else 0 }
    | .stop cause => s.faultBlock c.cur { r with cause := cause, detail := faultDetail cause noLane }

/-- Whether every lane of a block that is not a helper lane has exited (R251). -/
def State.allExited (s : State) (bid : Nat) : Bool :=
  (s.groupsOf bid).all (fun p => p.2.alive &&& p.2.lanes &&& ~~~p.2.helpers == 0)

/-- Ends a block all of whose lanes have exited (R251). -/
def State.checkExit (s : State) (bid : Nat) : State :=
  if s.allExited bid then s.endBlock bid 0 0 else s

/-- Makes changes to a group's split table and takes the traps they cause (R249, R252). -/
def State.moves (s : State) (c : Iss) (ms : List Move) : State :=
  match Map.find? s.groups c.cur.gid with
  | none => s
  | some g =>
    let r := g.moves (fun hnd a tr => s.header c hnd a tr) s.seq moveFuel ms []
    let s := s.setGroup c.cur.gid r.1
    let s := r.2.foldl (fun s b => s.badEntry c.cur.gid b) s
    s.checkExit c.bid

/-- The byte offset at which the block of a fragment ends (R88), when its header can be read. -/
def State.blockEnd (s : State) (c : Iss) (f : Frag) : Option Nat :=
  match s.unitAt c f.hnd f.blk, s.unitAt c f.hnd (f.blk + 4 : Nat) with
  | .ok w0, .ok w1 => some (f.blk + 4 * (headerOf w0 w1).len)
  | _, _ => none

/-- A fall-through into the next block when the PC has reached the end of this one (R88, R252). -/
def State.fallThrough (s : State) (c : Iss) : State :=
  match s.fragAt c.cur with
  | none => s
  | some f =>
    match s.blockEnd c f with
    | some e => if e ≤ f.pc then s.moves c [.enter c.cur.ent f.pc false] else s
    | none => s

/-- Adds to a performance counter (R367). -/
def Group.tally (g : Group) (n k : Nat) : Group := { g with perf := Map.put g.perf n (Map.get 0 g.perf n + k) }

/-- An instruction that goes to completion: ICNT rises by 1 in the given lanes (R63), counter 0 by 1 (R367). -/
def Group.count (g : Group) (m : Mask) : Group :=
  { g.tally 0 1 with icnt := tab 96 (fun L => if bitOf m L then laneGet g.icnt L + 1 else laneGet g.icnt L) }

/-- Moves the fragment past its instruction: to the next unit, or, for a lane word, to the next word of the list and past the EXLW
after the last (R268). -/
def Frag.past (f : Frag) (units : Nat) : Frag :=
  let f := { f with st := if f.st == FState.waiting then .ready else f.st }
  if f.latch.isEmpty then { f with pc := f.pc + 4 * units }
  else if f.latchAt + 1 < f.latch.length then { f with latchAt := f.latchAt + 1 }
  else { f with latch := [], latchAt := 0, pc := f.pc + 4 }

/-- Whether a fragment stands between two words of an EXLW. -/
def Frag.inList (f : Frag) : Bool := !f.latch.isEmpty

/-- An instruction's register writes take effect, lanes leave by a write to the activity mask (R245), and the PC advances. `later`
holds a fall-through back while a load of the activity mask is in flight. -/
def State.advance (s : State) (c : Iss) (e : Enc) (x : Eff) (later : Bool) : State :=
  let s := s.setGroup c.cur.gid x.g
  if x.clear ≠ 0 && c.f.act &&& ~~~x.clear == 0 then s.moves c [.arrive c.cur.ent x.clear]
  else
    let s := s.modFrag c.cur (fun f => f.past e.units)
    let s := if x.clear = 0 then s else s.moves c [.arrive c.cur.ent x.clear]
    if later then s else s.fallThrough c

/-- The end of an instruction that went to completion, counted in the given lanes (R63). -/
def State.finish (s : State) (c : Iss) (e : Enc) (x : Eff) (count : Mask) (later : Bool) : State :=
  s.advance c e { x with g := x.g.count count } later

/-- The end of a per-lane instruction: the beats it issued, those of the fragment's lanes, are counted too (R86, R367). -/
def State.finishV (s : State) (c : Iss) (e : Enc) (x : Eff) (active : Mask) (later : Bool) : State :=
  s.finish c e { x with g := x.g.tally 1 (beatsOf c.own) } active later

/-- The effect that writes nothing yet. -/
def Iss.eff (c : Iss) : Eff := ⟨c.g, 0⟩

end Sys2Proof.Machine
end

