-- ==== Sys2Proof/Machine/Operands.lean ====
section
/-! DEFINITION. Operands (R80 to R87): what a code reads in each type, the source lane of operand A, and destinations. -/

namespace Sys2Proof.Machine

/-- The types an operand is read in (R81). -/
inductive Ty where
  | i32 | n32 | i64 | i16x2 | f32 | f64 | f16x2 | bf16x2
  deriving DecidableEq, Repr

/-- 64-bit types read register pairs (R82). -/
def Ty.wide : Ty → Bool
  | .i64 => true
  | .f64 => true
  | _ => false

/-- The type of an integer form's variant (R92). -/
def intTy (v : BitVec 2) : Ty :=
  match v.toNat with
  | 0 => .i32
  | 1 => .n32
  | 2 => .i64
  | _ => .i16x2

/-- The type of a float form's variant (R92). -/
def floatTy (v : BitVec 2) : Ty :=
  match v.toNat with
  | 0 => .f32
  | 1 => .f16x2
  | 2 => .bf16x2
  | _ => .f64

/-- The values of codes 0x61 to 0x69 in a lane (R81); the lane's own codes read 0 in a form without lanes, which never names them
(R109). -/
def Iss.special (c : Iss) (L n : Nat) : Word :=
  let w := fun (x : Nat) => BitVec.ofNat 32 x
  match n with
  | 0x61 => w L
  | 0x62 => w (96 * c.gi + L)
  | 0x63 => w c.gi
  | 0x64 => w c.b.bidx
  | 0x65 => w (c.b.bidx / 2 ^ 32)
  | 0x66 => w (min c.l.nblk 0xFFFF_FFFF)
  | 0x67 => w c.b.lanes
  | 0x68 => w (groupCount c.b.lanes)
  | 0x69 => w (if c.b.child.isSome then 0 else c.b.cblk)
  | _ => 0

/-- The binary32 constants of codes 0x6A to 0x6F (R38, R57). -/
def const32 : List Nat := [0x3F80_0000, 0xBF80_0000, 0x3F00_0000, 0x4000_0000, 0x7F80_0000, 0x7FC0_0000]

/-- The integers of codes 0x70 to 0x77 (R38). -/
def smallInts : List Nat := [1, 2, 3, 4, 8, 16, 32, 96]

/-- A binary32 pattern converted to another format, rounded rne, with no flag (R81). -/
def cvt32 (f : Fmt) (x : Nat) : Nat := (f.round 0 false 0 (opCvt (fmt32.unpack x)).1).1

/-- The same 16-bit element twice. -/
def both (x : Nat) : DWord := BitVec.ofNat 64 (x + 65536 * x)

/-- A binary32 value as a type reads it: the pattern itself, or converted for the other float types (R81). -/
def fromF32 (ty : Ty) (x : Nat) : DWord :=
  match ty with
  | .f64 => BitVec.ofNat 64 (cvt32 fmt64 x)
  | .f16x2 => both (cvt32 fmt16 x)
  | .bf16x2 => both (cvt32 fmtB16 x)
  | _ => BitVec.ofNat 64 x

/-- An integer as a type reads it (R81). -/
def fromInt (ty : Ty) (n : Nat) : DWord :=
  let r := fun (f : Fmt) => (f.round 0 false 0 (ofInt (n : Int))).1
  match ty with
  | .i16x2 => both n
  | .f32 => BitVec.ofNat 64 (r fmt32)
  | .f64 => BitVec.ofNat 64 (r fmt64)
  | .f16x2 => both (r fmt16)
  | .bf16x2 => both (r fmtB16)
  | _ => BitVec.ofNat 64 n

/-- The literal word as a type reads it (R81). -/
def fromLit (ty : Ty) (w : Word) : DWord :=
  match ty with
  | .i64 => w.signExtend 64
  | .f64 => fromF32 .f64 w.toNat
  | .f16x2 => fromF32 .f16x2 w.toNat
  | .bf16x2 => fromF32 .bf16x2 w.toNat
  | _ => w.zeroExtend 64

/-- A source code that is not a register, in lane L (R81). -/
def Iss.readSpecial (c : Iss) (e : Enc) (code : Code) (L : Nat) (ty : Ty) : DWord :=
  let n := code.toNat
  if n = 0x7F then fromLit ty (e.lit.getD 0)
  else if n ≤ 0x60 then 0
  else if n ≤ 0x69 then (c.special L n).zeroExtend 64
  else if n ≤ 0x6F then fromF32 ty (const32.getD (n - 0x6A) 0)
  else fromInt ty (smallInts.getD (n - 0x70) 0)

/-- A vector register, or pair, of a lane; zero in every word for a source lane that does not exist (R87). -/
def Iss.readVec (c : Iss) (r : Nat) (src : Option Nat) (ty : Ty) : DWord :=
  match src with
  | none => 0
  | some L => if ty.wide then c.g.vGet (r + 1) L ++ c.g.vGet r L else (c.g.vGet r L).zeroExtend 64

/-- A scalar register, or pair (R80, R82). -/
def Iss.readSca (c : Iss) (n : Nat) (ty : Ty) : DWord :=
  if ty.wide then c.s (n + 1) ++ c.s n else (c.s n).zeroExtend 64

/-- An operand of lane L whose register words come from lane `src` (R80, R81, R87). -/
def Iss.read (c : Iss) (e : Enc) (code : Code) (L : Nat) (src : Option Nat) (ty : Ty) : DWord :=
  let n := code.toNat
  if n < 0x40 then c.readVec n src ty
  else if n < 0x60 then c.readSca (n - 0x40) ty
  else c.readSpecial e code L ty

/-- The lane operand A of lane L reads with the prefix's XL (R87); none for a lane that does not exist. -/
def Iss.source (c : Iss) (e : Enc) (L : Nat) : Option Nat :=
  let p := e.p
  let q := 4 * (L / 4)
  let j := match p.xl.toNat with
    | 0 => L
    | 1 => L ^^^ 1
    | 2 => L ^^^ 2
    | 3 => L ^^^ 3
    | 4 => q
    | 5 => q + 1
    | 6 => q + 2
    | 7 => q + 3
    | 8 => (L + 1) % 96
    | 9 => (L + 95) % 96
    | 10 => (c.g.vGet p.d4.toNat L).toNat
    | 11 => (c.s (p.d4.toNat - 0x40)).toNat
    | _ => q + (3 - L % 4)
  if p.xl = 0 then some L
  else if j < 96 && bitOf c.g.lanes j then some j else none

/-- Operand a of a vector instruction in lane L. -/
def Iss.a (c : Iss) (e : Enc) (ty : Ty) (L : Nat) : DWord := c.read e e.a L (c.source e L) ty
/-- Operand b. -/
def Iss.b' (c : Iss) (e : Enc) (ty : Ty) (L : Nat) : DWord := c.read e e.b L (some L) ty
/-- Operand d, in D4. -/
def Iss.d (c : Iss) (e : Enc) (ty : Ty) (L : Nat) : DWord := c.read e e.p.d4 L (some L) ty

/-- Results by lane. -/
abbrev Lanes := List (Nat × DWord)

/-- A vector destination (R86, R102): the Active lanes' results, zero in Owned lanes that are not Active under the zero policy; both
words when wide; discarded for 0x60. -/
def Iss.putVec (c : Iss) (e : Enc) (x : Eff) (wide : Bool) (active : Mask) (res : Lanes) : Eff :=
  let r := e.dst.toNat
  if 0x40 ≤ r then x
  else
    let val := fun (i : Nat) (L : Nat) =>
      if bitOf active L then (Map.find? res L).map (fun (w : DWord) => w.extractLsb' (32 * i) 32)
      else if e.p.zero && bitOf c.own L then some (0 : Word) else none
    let g := x.g.vPut r (val 0)
    { x with g := if wide then g.vPut (r + 1) (val 1) else g }

/-- A mask destination (R86, R106). -/
def Iss.putMask (c : Iss) (e : Enc) (x : Eff) (active : Mask) (truth : Mask) : Eff :=
  let wr := if e.p.zero then c.own else active
  x.kPut c.f.act e.dst.toNat wr (truth &&& active)

/-- A scalar destination: one word, or a pair; discarded for 0x60 (R80, R109). -/
def Iss.putSca (c : Iss) (x : Eff) (dst : Code) (wide : Bool) (w : DWord) : Eff :=
  let n := dst.toNat
  if n < 0x40 || 0x60 ≤ n then x
  else
    let x := x.sPut c.f.act (n - 0x40) (w.extractLsb' 0 32)
    if wide then x.sPut c.f.act (n - 0x40 + 1) (w.extractLsb' 32 32) else x

/-- A scalar source operand of a form that issues once (R80). -/
def Iss.sa (c : Iss) (e : Enc) (code : Code) (ty : Ty) : DWord := c.read e code 0 (some 0) ty

end Sys2Proof.Machine
end

