-- ==== Sys2Proof/Machine/Flags.lean ====
section
/-! DEFINITION. Sticky flags and the arithmetic trap (R65 to R68, R122), rounding modes and draws (R60, R64). -/

namespace Sys2Proof.Machine

/-- The lanes of a result list in which exception bit i arose. -/
def excLanes (fl : List (Nat × Exc)) (i : Nat) : Mask :=
  fl.foldl (fun m p => if p.2.getLsbD i then m ||| (1#96 <<< p.1) else m) 0

/-- Sets the flags that an instruction raised (R65). -/
def Flags.raise (f : Flags) (fl : List (Nat × Exc)) : Flags :=
  ⟨f.nv ||| excLanes fl 0, f.dz ||| excLanes fl 1, f.oflow ||| excLanes fl 2, f.uf ||| excLanes fl 3, f.nx ||| excLanes fl 4⟩

/-- FLAGS.ARITH as RDSR gives it: each flag over the lanes that are not helper lanes (R66). -/
def Flags.word (f : Flags) (real : Mask) : Word :=
  let bit := fun (m : Mask) => if m &&& real = 0 then 0#1 else 1#1
  (bit f.nx ++ bit f.uf ++ bit f.oflow ++ bit f.dz ++ bit f.nv).zeroExtend 32

/-- WRSR of FLAGS.ARITH: a 0 clears that flag in every lane (R66). -/
def Flags.keep (f : Flags) (w : Word) : Flags :=
  let k := fun (i : Nat) (m : Mask) => if w.getLsbD i then m else 0
  ⟨k 0 f.nv, k 1 f.dz, k 2 f.oflow, k 3 f.uf, k 4 f.nx⟩

/-- ARITH.CTL as RDSR gives it (R67). -/
def arithCtl (fpe : BitVec 5) (drm : BitVec 3) : Word := (fpe ++ (0#5) ++ drm).zeroExtend 32

/-- The rounding mode in force (R60, R67). -/
def Iss.mode (c : Iss) (e : Enc) : Nat := if e.p.rnd = 6 then c.g.drm.toNat else e.p.rnd.toNat

/-- The draw of result element `elem` in lane L (R63, R64): ICNT before the instruction issued. -/
def Iss.draw (c : Iss) (L elem : Nat) : Nat :=
  Sys2Proof.Machine.draw (laneGet c.g.icnt L) elem L c.gi (BitVec.ofNat 64 c.b.bidx) c.l.desc.seed

/-- The enabled exceptions that arose in any lane, and the lanes in which they arose (R68). -/
def Iss.enabledExc (c : Iss) (fl : List (Nat × Exc)) : Exc × Mask :=
  fl.foldl (fun acc p =>
    let x := p.2 &&& c.l.desc.fpe
    if x = 0 then acc else (acc.1 ||| x, acc.2 ||| (1#96 <<< p.1))) (0, 0)

/-- Whether an enabled exception arose in a lane of Contrib (R122). -/
def Iss.arithTraps (c : Iss) (active : Mask) (fl : List (Nat × Exc)) : Bool :=
  fl.any (fun p => bitOf (c.contrib active) p.1 && p.2 &&& c.l.desc.fpe != 0)

/-- The arithmetic trap of the issuing fragment: TRAP.WORD and the latched list for a lane word (R68, R269). -/
def Iss.arithRec (c : Iss) (exc : Exc) (lanes : Mask) : TrapRec :=
  { mkTrap c.f 3 exc.toNat lanes 0 with
    word := if c.f.inList then c.f.latchAt else 0, latch := c.f.latch }

/-- The end of an instruction that can raise IEEE exceptions (R125): the flags stand; then the arithmetic trap, with no destination
written and nothing counted, or completion. -/
def State.finishFp (s : State) (c : Iss) (e : Enc) (active : Mask) (fl : List (Nat × Exc)) (x : Eff) : State :=
  if c.arithTraps active fl then
    let t := c.enabledExc fl
    let s := s.setGroup c.cur.gid { c.g with fl := c.g.fl.raise fl }
    s.takeTrap { c with g := { c.g with fl := c.g.fl.raise fl } } (c.arithRec t.1 t.2)
  else s.finishV c e { x with g := { x.g with fl := x.g.fl.raise fl } } active false

end Sys2Proof.Machine
end

