-- ==== Sys2Proof/Machine/Check.lean ====
section
/-! DEFINITION. Why an instruction is illegal where it issues (R93, R94): what its word gives, and the reasons that depend on the
state: absent features (R354), EXLW (R265), profiles (R8) and the handler's limits (R373). -/

namespace Sys2Proof.Machine

/-- Words of the scalar file that an opcode writes at DST. -/
def scalarWords (op : Nat) (v : BitVec 2) : Nat :=
  if 0x31 ≤ op ∧ op ≤ 0x36 then 1
  else if 0x20 ≤ op ∧ op ≤ 0x3B then (if v = 2 then 2 else 1)
  else if op = 0x174 then (if v = 1 then 2 else 1)
  else if 0x182 ≤ op ∧ op ≤ 0x189 then (if v = 2 then 2 else 1)
  else if op = 0x18A then (if v = 3 then 2 else 1)
  else if [0x191, 0x1E2, 0x1F8, 0x1F9].contains op then 2
  else if [0x3C, 0x88, 0x1A3, 0x1A5, 0x1A8, 0x1C8, 0x1E3, 0x1E4, 0x1E5, 0x1F0, 0x1F6].contains op then 1
  else if op = 0x1A9 ∧ v = 1 then 1
  else 0

/-- Opcodes whose DST is a mask register: VCMP, FCMP, the K operations and S2K. -/
def maskDest (op : Nat) : Bool :=
  op == 0x3D || (0x74 ≤ op && op ≤ 0x79) || (0x83 ≤ op && op ≤ 0x87) || (0xE6 ≤ op && op ≤ 0xED)

/-- Whether an instruction writes k0 or s29 to s31 (R245). -/
def writesK0 (op : Nat) (e : Enc) : Bool :=
  let n := e.dst.toNat
  let w := scalarWords op e.var
  (maskDest op && n == 0) || (w != 0 && 0x40 ≤ n && n < 0x60 && 0x5D ≤ n + w - 1)

/-- Opcodes that raise HANDLER in STATE 3 (R373). -/
def notInHandler (op : Nat) : Bool :=
  [0x002, 0x003, 0x009, 0x00A, 0x1F2, 0x1AB, 0x1AA, 0x1AC, 0x1E4, 0x1E5].contains op

/-- The feature an opcode needs (R354). -/
def needsFeature (op : Nat) (v : BitVec 2) : Option Nat :=
  if op = 0x1AD then some 0
  else if 0x1E0 ≤ op ∧ op ≤ 0x1E3 then some 3
  else if 0x1E4 ≤ op ∧ op ≤ 0x1E6 then some 4
  else if op = 0x1C2 ∧ v = 0 then some 6
  else none

/-- Whether a tile carries profile W (R13). -/
def profileW (tile : Nat) : Bool := tile == 6 || tile == 7

/-- The header of the block the fragment is in has bit [0] set (R265). -/
def State.exlwOk (s : State) (c : Iss) : Bool :=
  match s.unitAt c c.f.hnd c.f.blk with
  | .ok w => w.getLsbD 0
  | .error _ => false

/-- The reasons above 10 that depend on the state, the lowest that applies: 12 EXLW, 13 PROFILE, 16 HANDLER. -/
def State.lateReason (s : State) (c : Iss) (op : Nat) (e : Enc) : Option Nat :=
  if (op == 0x009 || op == 0x00A) && !s.exlwOk c then some 12
  else if op == 0x1C2 && ((e.var == 0 && profileW c.tile) || (e.var == 2 && !profileW c.tile)) then some 13
  else if 0x1C3 ≤ op && op ≤ 0x1C7 && e.var == 3 && !profileW c.tile then some 13
  else if c.f.st == .handler && (notInHandler op || writesK0 op e) then some 16
  else if op == 0x1F5 && c.f.st != .handler then some 16
  else none

/-- The reason an instruction is illegal here (R94), `low` being a reason its own entry finds that may lie below those of its
word. -/
def State.reason (s : State) (c : Iss) (i : Instr) (low : Option Nat) : Option Nat :=
  match opcodeOf i with
  | some (op, e) =>
    if (match needsFeature op.toNat e.var with | some d => !s.feat d | none => false) then some 4
    else if low.isSome then low
    else match staticReason i with
      | some r => some r
      | none => s.lateReason c op.toNat e
  | none => staticReason i

/-- The meaning of an instruction: the fault when no fragment issues it, the trap of an illegal instruction, or its effect. -/
def issuing (i : Instr) (s : State) (eff : Iss → State) : Out :=
  match s.issuer? with
  | none => .fault .noIssuer
  | some c =>
    match s.reason c i none with
    | some r => .next (s.illegal c i r)
    | none => .next (eff c)

end Sys2Proof.Machine
end

