-- ==== Sys2Proof/Machine/IntAlu.lean ====
section
/-! DEFINITION. Integer arithmetic on elements (R99, R101 to R109): the exact result of each operation, wrapped or clamped once, and
the common effects of the vector, scalar and mask forms. -/

namespace Sys2Proof.Machine

/-- W of an element (R99). -/
def Ty.bits : Ty → Nat
  | .i64 | .f64 => 64
  | .i16x2 | .f16x2 | .bf16x2 => 16
  | _ => 32

/-- Elements of an operand (R59). -/
def Ty.count : Ty → Nat
  | .i16x2 | .f16x2 | .bf16x2 => 2
  | _ => 1

/-- The bits of element i (R59). -/
def Ty.raw (ty : Ty) (x : DWord) (i : Nat) : Nat := (x.toNat >>> (16 * i)) % 2 ^ ty.bits

/-- Bits read signed. -/
def signedOf (w n : Nat) : Int := if n < 2 ^ (w - 1) then n else (n : Int) - 2 ^ w

/-- Element i as a number: unsigned under .n32, signed under the other integer types (R99). -/
def Ty.val (ty : Ty) (x : DWord) (i : Nat) : Int :=
  if ty = .n32 then ty.raw x i else signedOf ty.bits (ty.raw x i)

/-- Least and greatest value of an integer type. -/
def Ty.lo (ty : Ty) : Int := if ty = .n32 then 0 else -2 ^ (ty.bits - 1)
def Ty.hi (ty : Ty) : Int := if ty = .n32 then 2 ^ 32 - 1 else 2 ^ (ty.bits - 1) - 1

/-- Clamp(x) (R99). -/
def Ty.clamp (ty : Ty) (x : Int) : Int := max ty.lo (min x ty.hi)

/-- Wrap(x), as bits (R99). -/
def Ty.wrap (ty : Ty) (x : Int) : Nat := (x % 2 ^ ty.bits).toNat

/-- The result of exact element values, clamped under SAT, then wrapped and put in place (R102). -/
def Ty.join (ty : Ty) (sat : Bool) (f : Nat → Int) : DWord :=
  let el := fun i => ty.wrap (if sat then ty.clamp (f i) else f i)
  if ty.count = 2 then BitVec.ofNat 64 (el 0 + 65536 * el 1) else BitVec.ofNat 64 (el 0)

/-- An operation: the exact result for element i of operands a, b and d. -/
abbrev IOp := Ty → Bool → Nat → DWord → DWord → DWord → Int

def iMov : IOp := fun ty _ i a _ _ => ty.val a i
def iAdd : IOp := fun ty _ i a b _ => ty.val a i + ty.val b i
def iSub : IOp := fun ty _ i a b _ => ty.val a i - ty.val b i
def iMul : IOp := fun ty _ i a b _ => ty.val a i * ty.val b i
/-- ⌊a × b ÷ 2^32⌋ (R101). -/
def iMulh : IOp := fun ty _ i a b _ => ty.val a i * ty.val b i / 2 ^ 32
def iMad : IOp := fun ty _ i a b d => ty.val a i * ty.val b i + ty.val d i
/-- VDIV (R104): toward zero; all ones by zero, which SAT leaves as it is. -/
def iDiv : IOp := fun ty _ i a b _ =>
  if ty.val b i = 0 then (if ty = .n32 then ty.hi else -1) else (ty.val a i).tdiv (ty.val b i)
/-- VREM (R104). -/
def iRem : IOp := fun ty _ i a b _ => if ty.val b i = 0 then ty.val a i else (ty.val a i).tmod (ty.val b i)
def iAnd : IOp := fun ty _ i a b _ => (ty.raw a i &&& ty.raw b i : Nat)
def iOr : IOp := fun ty _ i a b _ => (ty.raw a i ||| ty.raw b i : Nat)
def iXor : IOp := fun ty _ i a b _ => (ty.raw a i ^^^ ty.raw b i : Nat)
def iNot : IOp := fun ty _ i a _ _ => -1 - (ty.raw a i : Int)
def iMin : IOp := fun ty _ i a b _ => min (ty.val a i) (ty.val b i)
def iMax : IOp := fun ty _ i a b _ => max (ty.val a i) (ty.val b i)
def iAbs : IOp := fun ty _ i a _ _ => ((ty.val a i).natAbs : Int)
def iNeg : IOp := fun ty _ i a _ _ => -ty.val a i

/-- The shift count of element i (R103). -/
def shiftCount (ty : Ty) (i : Nat) (b : DWord) : Nat :=
  match ty with
  | .i64 => b.toNat % 64
  | .i16x2 => (b.toNat >>> (16 * i)) % 16
  | _ => b.toNat % 32

def iShl : IOp := fun ty _ i a b _ => ty.val a i * 2 ^ shiftCount ty i b
def iShr : IOp := fun ty _ i a b _ => (ty.raw a i >>> shiftCount ty i b : Nat)
def iSar : IOp := fun ty _ i a b _ => signedOf ty.bits (ty.raw a i) / 2 ^ shiftCount ty i b

/-- Leading zeros, ones and reversal (R101). -/
def iClz : IOp := fun ty _ i a _ _ =>
  (((List.range ty.bits).reverse.takeWhile (fun j => !(ty.raw a i).testBit j)).length : Nat)
def iPopc : IOp := fun ty _ i a _ _ => (((List.range ty.bits).filter (fun j => (ty.raw a i).testBit j)).length : Nat)
def iBrev : IOp := fun ty _ i a _ _ =>
  (((List.range ty.bits).map (fun j => if (ty.raw a i).testBit j then 2 ^ (ty.bits - 1 - j) else 0)).sum : Nat)

/-- Position and width of a bit field (R103). -/
def fieldPos (b : DWord) : Nat := b.toNat % 32
def fieldWidth (b : DWord) : Nat := min (b.toNat / 256 % 64) (32 - fieldPos b)

/-- VBFE (R103). -/
def iBfe : IOp := fun ty _ i a b _ =>
  let w := fieldWidth b
  let x := (ty.raw a i >>> fieldPos b) % 2 ^ w
  if w = 0 then 0 else if ty = .n32 then x else signedOf w x

/-- VBFI (R103): `d` outside the field. -/
def iBfi : IOp := fun ty _ i a b d =>
  let p := fieldPos b
  let w := fieldWidth b
  let x := ty.raw d i
  let keep := x - (x >>> p) % 2 ^ w * 2 ^ p
  (keep + ty.raw a i % 2 ^ w * 2 ^ p : Nat)

/-- VDOT4 (R108): byte elements, signed under .i32. -/
def iDot4 : IOp := fun ty _ i a b d =>
  let byte := fun (x : DWord) (j : Nat) =>
    let v := (x.toNat >>> (8 * j)) % 256
    if ty = .n32 then (v : Int) else signedOf 8 v
  ty.val d i + ((List.range 4).map (fun j => byte a j * byte b j)).sum

/-- The six conditions of R106. -/
inductive Cond where
  | eq | ne | lt | le | gt | ge
  deriving DecidableEq, Repr

def Cond.eval : Cond → Int → Int → Bool
  | .eq, a, b => a == b
  | .ne, a, b => a != b
  | .lt, a, b => a < b
  | .le, a, b => a ≤ b
  | .gt, a, b => b < a
  | .ge, a, b => b ≤ a

/-- A comparison of two operands: every element satisfies the condition (R106). -/
def Cond.all (cc : Cond) (ty : Ty) (a b : DWord) : Bool :=
  (List.range ty.count).all (fun i => cc.eval (ty.val a i) (ty.val b i))

/-- The type in which a control word is read: always one 32-bit word (R102). -/
def Ty.ctl (_ : Ty) : Ty := .n32

/-- The common vector effect (R102): results of the Active lanes to DST, one word or a pair. -/
def State.vec (s : State) (c : Iss) (e : Enc) (wide : Bool) (f : Nat → DWord) : State :=
  let active := c.active e
  s.finishV c e (c.putVec e c.eff wide active ((lanesOf active).map (fun L => (L, f L)))) active false

/-- A vector integer instruction (R102); `ctl` when b is a control word. -/
def State.vecInt (s : State) (c : Iss) (e : Enc) (ctl : Bool) (op : IOp) : State :=
  let ty := intTy e.var
  let bTy := if ctl then ty.ctl else ty
  s.vec c e ty.wide (fun L =>
    ty.join e.p.sat (fun i => op ty e.p.sat i (c.a e ty L) (c.b' e bTy L) (c.d e ty L)))

/-- VCMP (R106). -/
def State.vecCmp (s : State) (c : Iss) (e : Enc) (cc : Cond) : State :=
  let ty := intTy e.var
  let active := c.active e
  let truth := maskOf (fun L => bitOf active L && cc.all ty (c.a e ty L) (c.b' e ty L))
  s.finishV c e (c.putMask e c.eff active truth) active false

/-- A scalar instruction's result to DST (R109). -/
def State.sca (s : State) (c : Iss) (e : Enc) (wide : Bool) (w : DWord) : State :=
  s.finish c e (c.putSca c.eff e.dst wide w) c.own false

/-- A scalar integer instruction (R109); d is the destination's old value (R110). -/
def State.scaInt (s : State) (c : Iss) (e : Enc) (ctl : Bool) (op : IOp) : State :=
  let ty := intTy e.var
  let bTy := if ctl then ty.ctl else ty
  s.sca c e ty.wide (ty.join false (fun i => op ty false i (c.sa e e.a ty) (c.sa e e.b bTy) (c.sa e e.dst ty)))

/-- SCMP (R109). -/
def State.scaCmp (s : State) (c : Iss) (e : Enc) (cc : Cond) : State :=
  let ty := intTy e.var
  s.sca c e false (if cc.all ty (c.sa e e.a ty) (c.sa e e.b ty) then 1 else 0)

/-- A mask instruction on the Owned lanes (R112). -/
def State.maskOp (s : State) (c : Iss) (e : Enc) (bits : Mask) : State :=
  s.finish c e (c.eff.kPut c.f.act e.dst.toNat c.own bits) c.own false

end Sys2Proof.Machine
end

