-- ==== Sys2Proof/Machine/Order.lean ====
section
/-! DEFINITION. The ordering machine (R191 to R210): the guards and effects of its steps. A step answers none when its guard does
not hold. -/

namespace Sys2Proof.Machine

/-! What an unperformed event holds back -/

/-- The bytes an event of an issue queue touches. -/
def IqEv.touches (e : IqEv) : List Nat :=
  match e.kind with
  | .load _ bs _ => bs.map Prod.fst
  | .fence _ => []
  | .atom a r => tab r.n (fun i => a + i)
  | .bar a _ => tab 16 (fun i => a + i)
  | .stcq a _ => tab 4 (fun i => a + i)
  | .jinit a => tab 16 (fun i => a + i)
  | .plins _ _ _ _ _ => []

/-- Whether an event is a memory access or a fence, and not a pool insert. -/
def IqEv.isAccess (e : IqEv) : Bool :=
  match e.kind with
  | .plins _ _ _ _ _ => false
  | _ => true

/-- The issuing fragment of an event, or its group with a fragment that no longer stands (its block has ended). -/
def State.issOf (s : State) (gid ent : Nat) : Option Iss :=
  match Map.find? s.groups gid, Map.find? s.blocks (gid / 32) with
  | some g, some b =>
    match Map.find? s.launches b.lid with
    | some l =>
      let f := (s.fragAt ⟨gid, ent⟩).getD (newFrag 0 0 0 0 none 0)
      some ⟨⟨gid, ent⟩, g, f, gid / 32, b, l, f.act⟩
    | none => none
  | _, _ => none

/-- Where entries of a STCQ may lie while its fetch-add is unperformed (R188, R190), as runs with a first byte, a length and a page kind:
in the handle at or above the displacement; the handle is contiguous within 4 KiB of its space. -/
def State.entryRuns (s : State) (c : Iss) (q : StcqReq) : List (Loc × Nat × PageKind) :=
  let h := c.handle q.handle
  let lo := h.base + q.disp.toNat
  let hi := h.base + min h.bytes (q.disp + 4 * (2 ^ 32 + (q.cnt : Int))).toNat
  (List.range (hi / 4096 + 1 - lo / 4096)).filterMap (fun k =>
    let a := max lo (4096 * (lo / 4096 + k))
    let e := min hi (4096 * (lo / 4096 + k + 1))
    if a < e then (s.place c h q.lane (a - h.base) .w).map (fun x => (x.1, e - a, x.2)) else none)

/-- What holds of a STCQ in an issue queue and the fragment that issued it. -/
def State.ofStcq (s : State) (p : IqEv) (f : Iss → StcqReq → Bool) : Bool :=
  match p.kind with
  | .stcq _ q => match s.issOf p.gid p.ent with
    | some c => f c q
    | none => false
  | _ => false

/-- Whether an event is a STCQ that may write one of the bytes. -/
def State.mayEnter (s : State) (p : IqEv) (sp : Space) (as : List Nat) : Bool :=
  s.ofStcq p (fun c q => (s.entryRuns c q).any (fun r => r.1.sp == sp &&
    as.any (fun a => decide (r.1.addr ≤ a) && decide (a < r.1.addr + r.2.1))))

/-- Whether an event is a STCQ whose entries may lie on a page of some kinds. -/
def State.mayLie (s : State) (p : IqEv) (kinds : PageKind → Bool) : Bool :=
  s.ofStcq p (fun c q => (s.entryRuns c q).any (fun r => kinds r.2.2))

/-- The bytes of a STCQ's entries when its fetch-add returns `base` (R188). -/
def State.entryLocs (s : State) (c : Iss) (q : StcqReq) (base : Nat) : List Loc :=
  (tab (4 * q.cnt) (fun i => (s.place c (c.handle q.handle) q.lane (q.disp + 4 * base + i).toNat .w).map Prod.fst)).filterMap id

/-- Whether an event is a STCQ that would write one of the bytes, were its fetch-add performed now. -/
def State.wouldEnter (s : State) (p : IqEv) (sp : Space) (as : List Nat) : Bool :=
  s.ofStcq p (fun c q => match p.kind with
    | .stcq a _ => (s.entryLocs c q (ofBytes (tab 4 (fun i => s.readHome ⟨p.sp, a + i⟩)))).any (fun l => l.sp == sp && as.contains l.addr)
    | _ => false)

/-- An engine translates through its tile's second-level TLB (R338). -/
def Engine.walker (e : Engine) : Walker := ⟨none, e.tile, e.ctx⟩

/-- Byte `off` of an end of a transfer (R165, R166), when its page translates. -/
def State.endAt (s : State) (e : Engine) (p : EndPt) (off : Nat) : Option (Loc × Option Leaf) :=
  match p with
  | .pt sp a => some (⟨sp, a + off⟩, none)
  | .win starts o => some (⟨.spad, starts.getD ((o + off) / 524288) 0 + (o + off) % 524288⟩, none)
  | .va a => (s.lookup e.walker (a + off)).map (fun l => (⟨.glob, l.pa + (a + off - l.va)⟩, some l))

/-- Scopes from narrow to wide as numbers. -/
def Scope.rank : Scope → Nat
  | .grp => 0
  | .blk => 1
  | .cls => 2
  | .tile => 3
  | .dev => 4
  | .sys => 5

/-- Whether an acquire at a scope, of bytes of a space, may read a value that contains an engine's add, and so join that engine (R207):
one that has added there, or one that still runs. -/
def State.mayJoin (s : State) (sp : Space) (as : List Nat) (sc : Scope) : Bool :=
  let at_ := fun (l : Loc) => l.sp == sp && as.any (fun a => decide (l.addr ≤ a) && decide (a < l.addr + 4))
  s.added.any (fun p => at_ p.1 && decide (p.2.rank ≤ sc.rank)) ||
    s.engines.any (fun p => decide (p.2.sigma.rank ≤ sc.rank) && (match p.2.done with
      | .counter k _ => match s.endAt p.2 k 0 with
        | some (l, _) => at_ l
        | none => false
      | _ => false))

/-- Whether an event holds back later accesses of its group to pages of a kind (R200). -/
def IqEv.holds (e : IqEv) (ord : PageKind) : Bool :=
  match e.kind with
  | .load _ _ (some _) => ord != .uo
  | .fence sc => ord != .uo || sc == .dev || sc == .sys
  | _ => false

/-- An earlier PLTAKE of the group is in progress (R323). -/
def State.taking (s : State) (gid seq : Nat) : Bool :=
  match Map.find? s.groups gid with
  | some g => g.table.any (fun p => match p.2 with
    | .frag f => match f.pool with
      | some r => decide (r.seq < seq)
      | none => false
    | _ => false)
  | none => false

/-- An unperformed acquire that may join an engine thread: the join orders every page kind (R207, R219). -/
def State.joins (s : State) (p : IqEv) : Bool :=
  match p.kind with
  | .load _ bs (some sc) => s.mayJoin p.sp (bs.map Prod.fst) sc
  | _ => false

/-- An earlier acquire, fence or take of the group holds an access (R200, R207, R323). -/
def State.held (s : State) (gid seq : Nat) (ord : PageKind) : Bool :=
  s.taking gid seq ||
  s.iq.any (fun p => p.gid == gid && decide (p.seq < seq) && (p.holds ord || s.joins p))

/-- An event touches one of the bytes. -/
def IqEv.meets (p : IqEv) (sp : Space) (as : List Nat) : Bool := p.sp == sp && p.touches.any (fun a => as.contains a)

/-- An earlier event of the group touches one of the bytes, or may enter it (R190, R196, R204). -/
def State.before (s : State) (gid id : Nat) (sp : Space) (as : List Nat) : Bool :=
  s.iq.any (fun p => p.gid == gid && decide (p.id < id) && (p.meets sp as || s.mayEnter p sp as))

/-- An earlier event of the group touches one of the bytes of a compressing store's pointer, or would enter it now: its fetch-add waits
for no other access (R188, R204). -/
def State.beforeAdd (s : State) (gid id : Nat) (sp : Space) (as : List Nat) : Bool :=
  s.iq.any (fun p => p.gid == gid && decide (p.id < id) && (p.meets sp as || s.wouldEnter p sp as))

/-- An earlier strongly ordered access of the group is unperformed (R173, R200). -/
def State.soBefore (s : State) (gid id : Nat) : Bool :=
  s.iq.any (fun p => p.gid == gid && decide (p.id < id) && p.ord == .so) ||
    s.sq.any (fun w => w.gid == gid && decide (w.id < id) && w.ord == .so)

def WEv.hits (w : WEv) (sp : Space) (as : List Nat) : Bool := w.sp == sp && w.bytes.any (fun b => as.contains b.1)

/-- The group made the write or has read it (R198). -/
def WEv.known (w : WEv) (gid : Nat) : Bool := w.gid == gid || w.obs.contains gid

/-- An earlier write in a list that the group knows touches one of the bytes. -/
def knownIn (ws : List WEv) (gid id : Nat) (sp : Space) (as : List Nat) : Bool :=
  ws.any (fun w => w.known gid && decide (w.gid ≠ gid ∨ w.id < id) && w.hits sp as)

/-- The writes that are not in the coherence order yet (R194). -/
def State.unjoined (s : State) : List WEv := s.sq ++ s.clv ++ s.cbuf

/-- A write waits for one that a group saw or made before it (R196, R198). -/
def State.preceded (s : State) (w : WEv) : Bool := s.unjoined.any (fun u => w.pre.contains u.id)

/-- Write `a` is bound to join the coherence order before write `b`, by at most n bonds (R198). -/
def mustPrecede (ws : List WEv) (a : Nat) : Nat → WEv → Bool
  | 0, _ => false
  | n + 1, b => b.pre.contains a || ws.any (fun u => b.pre.contains u.id && mustPrecede ws a n u)

def State.must (s : State) (a b : WEv) : Bool := mustPrecede s.unjoined a.id s.unjoined.length b

/-- Changes every write that is not in the coherence order yet. -/
def State.mapWrites (s : State) (f : WEv → WEv) : State :=
  { s with sq := s.sq.map f, clv := s.clv.map f, cbuf := s.cbuf.map f }

/-- An earlier write of the group is not yet performed at a scope (R193); UO writes count when `uo`. -/
def State.unwritten (s : State) (gid seq : Nat) (sc : Scope) (uo : Bool) : Bool :=
  let own := fun (w : WEv) => w.gid == gid && decide (w.seq < seq) && (uo || w.ord != .uo)
  let q := s.sq.any own
  let c := s.clv.any own
  let t := s.guests.any (fun g => g.dirty && g.writers.any (fun p => p.1 == gid && decide (p.2.1 < seq) && (uo || p.2.2 != .uo)))
  match sc with
  | .grp => false
  | .blk => q
  | .cls | .tile => q || c
  | .dev => q || c || t
  | .sys => q || c || t || s.cbuf.any (fun w => w.gid == gid && decide (w.seq < seq))

/-- An earlier read, atomic or fence of the group is unperformed; a STCQ counts by its entries too. -/
def State.unread (s : State) (gid seq : Nat) (uo : Bool) : Bool :=
  s.iq.any (fun p => p.gid == gid && decide (p.seq < seq) && p.isAccess && (uo || p.ord != .uo || s.mayLie p (· != .uo)))

/-- Every earlier access of the group is performed at a scope (R187, R200). -/
def State.performed (s : State) (gid seq : Nat) (sc : Scope) (uo : Bool) : Bool :=
  !s.unread gid seq uo && !s.unwritten gid seq sc uo

/-! Homes -/

/-- The tile whose base die holds a byte, none for a core's scratchpad (R165). -/
def State.dieOf (s : State) (l : Loc) : Option Nat :=
  match l.sp with
  | .glob | .slice => some (s.homeTile l.addr)
  | .tpad => some (l.addr / 33554432)
  | .spad => none

/-- Records that a tile's log holds, of 32 bytes each (DESIGN CHOICE, assumption 53). -/
def logRoom : Nat := 1048576

/-- A tile takes messages: it is in RUN (R385), and its log has room, for a full one makes its senders wait (R384). -/
def State.tileUp (s : State) (t : Nat) : Bool := (s.tileRec t).st == .run && decide ((s.tileRec t).log.length < logRoom)

/-- The place of a byte answers (R385). -/
def State.answers (s : State) (l : Loc) : Bool :=
  match s.dieOf l with
  | some t => s.tileUp t
  | none => (s.tileRec (l.addr / 524288 / 96)).st == .run

def State.setTile (s : State) (t : Nat) (x : Tile) : State := { s with tiles := Map.put s.tiles t x }

/-- What a message's sequence number counts by: its line, or what else it changes (R384). -/
def LogMsg.key : LogMsg → Nat × Nat × Nat
  | .byte l _ => (0, match l.sp with
      | .glob | .slice => 0
      | .spad => 1
      | .tpad => 2, lineOf l.addr)
  | .steal c _ => (1, 0, c)
  | .take p => (2, 0, p)
  | .pool p => (3, 0, p)

/-- A message to a tile is logged by the tile that sent it (R384). -/
def State.logTo (s : State) (src t : Nat) (m : LogMsg) : State :=
  let log := (s.tileRec t).log
  s.setTile t { s.tileRec t with log := log ++ [⟨src, (log.filter (fun e => e.msg.key == m.key)).length, false, m⟩] }

/-- A byte written at home or P by a party of tile `src`; a message from outside the home's tile is logged (R384). -/
def State.putAt (s : State) (src : Nat) (l : Loc) (b : Byte) : State :=
  let s := s.putHome l b
  match s.dieOf l with
  | some t => if t = src then s else s.logTo src t (.byte l b)
  | none => s

/-- A line's bit in the bitmap of a running decant (R345). -/
def State.mark (s : State) (line : Nat) : State :=
  { s with decants := s.decants.map (fun p =>
      if p.2.old ≤ line ∧ line < p.2.old + p.2.size ∧ !p.2.marked.contains line then
        (p.1, { p.2 with marked := p.2.marked ++ [line] })
      else p) }

/-- A group has seen position n of a byte's coherence order (R198). -/
def State.see (s : State) (gid : Nat) (as : List (Nat × Nat)) : State :=
  s.modGroup gid (fun g => { g with seen := as.foldl (fun m p => Map.put m p.1 (max p.2 (Map.get 0 m p.1))) g.seen })

/-- Bytes of a line join the coherence order at its next position (R194), known to the groups given; `home` when home holds them from
then on. -/
def State.join (s : State) (home : Bool) (as gids : List Nat) : State :=
  let n := s.co + 1
  let s := { s with co := n, ver := if home then as.foldl (fun m a => Map.put m a n) s.ver else s.ver }
  let s := gids.foldl (fun s g => s.see g (as.map (fun a => (a, n)))) s
  (as.map lineOf).eraseDups.foldl (fun s l => s.mark l) s

/-- Bytes as a line holds them at home. -/
def State.homeLine (s : State) (line : Nat) : List Byte := tab 128 (fun i => s.mem.read (line + i))
def State.homeVers (s : State) (line : Nat) : List Nat := tab 128 (fun i => Map.get 0 s.ver (line + i))

/-- WRITEBACK(t, line) (R195). -/
def State.doWriteback (s : State) (tile line : Nat) : Option State :=
  match List.find? (fun c => c.dirty && c.place == tile && c.line == line) s.guests with
  | none => none
  | some c =>
    if !s.answers ⟨.glob, line⟩ then none
    else
      let vs := s.homeVers line
      let s := (List.range 128).foldl (fun s i =>
        if c.vers.getD i 0 = vs.getD i 0 then s
        else
          let s := s.putAt tile ⟨.glob, line + i⟩ (c.bytes.getD i 0)
          { s with ver := Map.put s.ver (line + i) (c.vers.getD i 0) }) s
      some { s with guests := s.guests.map (fun x =>
        if x.dirty && x.place == tile && x.line == line then { x with dirty := false, writers := [] } else x) }

/-- WRITEBACK of any dirty guest of a line but the one tile `keep` holds. -/
def State.cleanBut (s : State) (keep : Option Nat) (line : Nat) : State :=
  match s.dirty? line with
  | some c => if keep = some c.place then s else (s.doWriteback c.place line).getD s
  | none => s

/-- DROP of an L1 copy or a clean guest (R195). -/
def State.doDrop (s : State) (inL1 : Bool) (place line : Nat) : Option State :=
  if inL1 then
    if s.l1.any (fun x => x.place == place && x.line == line) then
      some { s with l1 := s.l1.filter (fun x => !(x.place == place && x.line == line)) }
    else none
  else if s.guests.any (fun x => !x.dirty && x.place == place && x.line == line) then
    some { s with guests := s.guests.filter (fun x => !(!x.dirty && x.place == place && x.line == line)) }
  else none

/-- Lines of a core's first-level data cache, 128 KiB (R25), and of a tile's cellar, 160 MiB (R14). -/
def l1Lines : Nat := 1024
def cellarLines : Nat := 1310720

/-- How long a copy stays, by its reuse class (R171): stream, normal, counted, keep. -/
def Copy.rank (c : Copy) : Nat :=
  match c.cls.1 with
  | 1 => 0
  | 0 => 1
  | 2 => 2
  | _ => 3

/-- The copy that goes when room is needed: of the lowest rank, and of those the oldest (DESIGN CHOICE, assumption 11). -/
def victim (cs : List Copy) : Option Copy :=
  cs.foldl (fun acc c => match acc with
    | some v => if c.rank ≤ v.rank then some c else acc
    | none => some c) none

/-- Keep lines beyond the share that the control loop grants in a cellar count as normal (R171). -/
def State.demoted (s : State) (tile : Nat) (c : Copy) : Copy :=
  let keeps := (s.guests.filter (fun x => x.place == tile && x.cls.1 == 3)).length
  if c.cls.1 = 3 ∧ Config.keepShare tile < keeps then { c with cls := (0, 0) } else c

/-- A guest enters the cellar of its tile, in front; a full cellar first loses its victim, which a dirty one leaves by WRITEBACK. None
when its home does not answer. -/
def State.putGuest (s : State) (c : Copy) : Option State :=
  let rest := s.guests.filter (fun x => !(x.place == c.place && x.line == c.line))
  let s' := { s with guests := c :: rest }
  if ((rest.filter (fun x => x.place == c.place)).length < cellarLines) then some s'
  else match victim ((rest.filter (fun x => x.place == c.place)).map (s.demoted c.place)) with
    | none => some s'
    | some v =>
      if v.dirty then (s'.doWriteback v.place v.line).bind (fun s => s.doDrop false v.place v.line)
      else s'.doDrop false v.place v.line

/-- A copy enters a core's first-level cache, in front; a full one loses its victim. -/
def State.putL1 (s : State) (c : Copy) : State :=
  let rest := s.l1.filter (fun x => !(x.place == c.place && x.line == c.line))
  let s' := { s with l1 := c :: rest }
  let mine := rest.filter (fun x => x.place == c.place)
  if mine.length < l1Lines then s'
  else match victim mine with
    | none => s'
    | some v => (s'.doDrop true v.place v.line).getD s'

/-- FILL-G(t, line) (R195): home's bytes, replacing any clean copy there; `cls` is the reuse class of the fetch (R171). A lane-slice line
is never copied (R205). -/
def State.doFillG (s : State) (tile line : Nat) (cls : Nat × Nat) : Option State :=
  if s.homeTile line = tile || s.sliceLine line || (s.aliasOf line).isSome || s.poison.contains line || !s.answers ⟨.glob, line⟩ then none
  else if (List.find? (fun c => c.dirty && c.place == tile && c.line == line) s.guests).isSome then none
  else s.putGuest ⟨tile, line, s.homeLine line, s.homeVers line, [], false, [], cls⟩

/-- FILL-L1(c, line) (R195). A copy filled from a guest that is stale for a group is stale for it (DEDUCED, assumption 13). -/
def State.doFillL1 (s : State) (core line : Nat) (cls : Nat × Nat) : Option State :=
  let tile := core / 96
  if s.clv.any (fun w => w.core == core && w.sp == .glob && w.line == line) || s.sliceLine line || (s.aliasOf line).isSome
      || s.poison.contains line then none
  else
    let s := if s.homeTile line = tile || (s.guest? tile line).isSome then s else (s.doFillG tile line cls).getD s
    let src : Option Copy :=
      if s.homeTile line = tile then some ⟨tile, line, s.homeLine line, s.homeVers line, [], false, [], cls⟩ else s.guest? tile line
    src.map (fun c => s.putL1 { c with place := core, dirty := false, writers := [], cls := cls })

/-- Copies go stale for a group according to a scope (R201). -/
def State.stale (s : State) (gid core tile : Nat) (sc : Scope) : State :=
  let add := fun (c : Copy) => if c.stale.contains gid then c else { c with stale := gid :: c.stale }
  let l1 := s.l1.map (fun c => if c.place == core then add c else c)
  let gs := s.guests.map (fun c => if c.place == tile && !c.dirty then add c else c)
  match sc with
  | .grp | .blk => s
  | .cls | .tile => { s with l1 := l1 }
  | .dev | .sys => { s with l1 := l1, guests := gs }

/-! Writes -/

/-- The bytes of a write that do not lie in an enabled alias: memory under an alias is not written, by a write that began before the
window was enabled either (R74). -/
def State.outside (s : State) (w : WEv) : WEv := { w with bytes := w.bytes.filter (fun b => (s.aliasOf b.1).isNone) }

/-- A write reaches home (H), after WRITEBACK of any dirty guest (R195). An aligned 128-byte STB beat ends the line's poison
(R387). -/
def State.atHome (s : State) (w : WEv) : State :=
  let w := s.outside w
  let s := s.cleanBut none w.line
  let s := w.bytes.foldl (fun s b => s.putAt w.tile ⟨.glob, b.1⟩ b.2) s
  let s := if w.whole then { s with poison := s.poison.filter (· != w.line) } else s
  s.join true (w.bytes.map Prod.fst) (w.gid :: w.obs)

/-- Bytes put into a copy at a position of the coherence order. -/
def Copy.take (c : Copy) (bs : List (Nat × Byte)) (n : Nat) : Copy :=
  bs.foldl (fun c b => { c with bytes := c.bytes.set (b.1 - c.line) b.2, vers := c.vers.set (b.1 - c.line) n }) c

/-- What stands for the position of a write that is not in the coherence order yet: later than every position (R198). -/
def unjoinedAt (id : Nat) : Nat := 2 ^ 48 + id

/-- The core's L1 copy of a write's line takes its bytes when it rises to C (R195). -/
def State.l1Take (s : State) (w : WEv) : State :=
  { s with l1 := s.l1.map (fun c => if c.place == w.core && c.line == w.line then c.take w.bytes (unjoinedAt w.id) else c) }

/-- The core's L1 copy holds a write's bytes at the position the write has joined at; its bytes stay. -/
def State.l1Joined (s : State) (w : WEv) (n : Nat) : State :=
  { s with l1 := s.l1.map (fun c => if c.place == w.core && c.line == w.line then
      { c with vers := c.vers.map (fun v => if v = unjoinedAt w.id then n else v) } else c) }

/-- An access of a group to a UO page is performed: it has passed the earlier acquires of the group that are pending (R219). -/
def State.passes (s : State) (gid seq : Nat) (ord : PageKind) : State :=
  if ord = .uo then
    { s with iq := s.iq.map (fun p => match p.kind with
        | .load _ _ (some _) => if p.gid = gid ∧ p.seq < seq then { p with late := true } else p
        | _ => p) }
  else s

/-- RISE-C(w): from Q to C, or to H or P (R195, R196, R200). -/
def State.doRiseC (s : State) (id : Nat) : Option State :=
  match s.sq.find? (fun w => w.id == id) with
  | none => none
  | some w =>
    let as := w.bytes.map Prod.fst
    let rel := match w.rel with
      | some sc => s.performed w.gid w.seq sc false
      | none => true
    let rest := s.sq.filter (fun x => x.id != id)
    if s.held w.gid w.seq w.ord || s.before w.gid id w.sp as || knownIn rest w.gid id w.sp as || !rel then none
    else if w.sp ≠ .glob then
      if s.answers ⟨w.sp, w.line⟩ then
        let s := if w.sp == .slice && w.whole then { s with poison := s.poison.filter (· != w.line) } else s
        some (w.bytes.foldl (fun s b => s.putAt w.tile ⟨w.sp, b.1⟩ b.2) { s with sq := rest })
      else none
    else if w.ord = .so then
      if s.soBefore w.gid id || knownIn (s.clv ++ s.cbuf) w.gid id w.sp as || s.preceded w || !s.answers ⟨.glob, w.line⟩ then none
      else some ({ s with sq := rest }.atHome w)
    else some (({ s with sq := rest, clv := s.clv ++ [w] }.l1Take w).passes w.gid w.seq w.ord)

/-- A use of a copy: a counted line is hit once more, and is a stream line after the last hit (R171). -/
def Copy.hit (c : Copy) : Copy :=
  if c.cls.1 = 2 then { c with cls := if c.cls.2 ≤ 1 then (1, 0) else (2, c.cls.2 - 1) } else c

/-- A write joins the coherence order in the cellar of its tile, which holds the line dirty unless it is its home (R195). A write to
a poisoned line goes on to home at once, and so does one whose full cellar cannot make room. A line that the cellar holds dirty
already is hit, and keeps its class (R171). -/
def State.toTile (s : State) (w : WEv) : State :=
  let w := s.outside w
  if w.bytes.isEmpty then s
  else if s.homeTile w.line = w.tile || s.poison.contains w.line then s.atHome w
  else
    let t := s.cleanBut (some w.tile) w.line
    let old := match List.find? (fun c => c.dirty && c.place == w.tile && c.line == w.line) t.guests with
      | some c => c.hit
      | none => ⟨w.tile, w.line, t.homeLine w.line, t.homeVers w.line, [], true, [], w.cls⟩
    let t := t.join false (w.bytes.map Prod.fst) (w.gid :: w.obs)
    (t.putGuest { old.take w.bytes t.co with
      dirty := true, stale := [], writers := (w.gid, w.seq, w.ord) :: old.writers }).getD (s.atHome w)

/-- RISE-T(w) (R195): not before the writes that a group saw or made before it (R196, R198). -/
def State.doRiseT (s : State) (id : Nat) : Option State :=
  match s.clv.find? (fun w => w.id == id) with
  | none => none
  | some w =>
    if s.preceded w || !s.answers ⟨.glob, w.line⟩ then none
    else
      let s := { s with clv := s.clv.filter (fun x => x.id != id) }.toTile w
      some (s.l1Joined w s.co)

/-- Whether a combine-buffer entry is visible to the core's other groups (R203). -/
def State.ntVisible (s : State) (w : WEv) : Bool := !s.held w.gid w.seq .rc

/-! Reads -/

/-- A byte of a number. -/
def byteOf (w : Word) (i : Nat) : Byte := w.extractLsb' (8 * i) 8

/-- A word with one byte replaced. -/
def setByteOf (w : Word) (i : Nat) (b : Byte) : Word :=
  (w &&& ~~~(0xFF#32 <<< (8 * i))) ||| (b.zeroExtend 32 <<< (8 * i))

/-- A byte arrives in its register. s29 to s31 gather here until the whole write is made (R111). -/
def Group.arrive (g : Group) (d : Dest) (b : Byte) : Group :=
  match d with
  | .drop _ => g
  | .buf ent i => g.modFrag ent (fun f => { f with buf := f.buf.map (fun bs => bs.set i b) })
  | .vec r L i => g.vPut r (fun j => if j = L then some (setByteOf (g.vGet r L) i b) else none)
  | .sca n i => g.sPut n (setByteOf (g.sGet n) i b)

/-- Scalars that are views of the activity mask among an event's destinations (R111). -/
def IqEv.maskRegs (e : IqEv) : List Nat :=
  let of := fun (d : Dest) => match d with
    | .sca n _ => if 29 ≤ n then [n] else []
    | _ => []
  match e.kind with
  | .load _ bs _ => (bs.map (fun p => of p.2)).flatten.eraseDups
  | .atom _ a => match a.dest with
    | .sca n _ => [n, if 4 < a.n then n + 1 else n].filter (fun r => 29 ≤ r)
    | _ => []
  | .stcq _ q => [q.dst, q.dst + 1].filter (fun r => 29 ≤ r)
  | _ => []

/-- An event of an issue queue is performed: it leaves IQ(g), and the last one of an instruction that writes s29 to s31 writes the
activity mask (R111, R245). -/
def State.leave (s : State) (e : IqEv) : State :=
  let s := { s with iq := s.iq.filter (fun p => p.id != e.id), parts := s.parts.filter (fun p => p.id != e.id) }
  let regs := e.maskRegs
  if regs.isEmpty || s.iq.any (fun p => p.gid == e.gid && p.ent == e.ent && p.seq == e.seq) then s
  else
    match { s with cur := ⟨e.gid, e.ent⟩ }.issuer? with
    | none => s
    | some c =>
      let x := regs.foldl (fun x n => Eff.sPut x c.f.act n (c.g.sGet n)) c.eff
      if x.clear = 0 then s.fallThrough c
      else (s.moves c [.arrive e.ent x.clear]).fallThrough c

/-- An event brings an operand of a matrix instruction, which has not issued yet (R148). -/
def IqEv.feeds (e : IqEv) : Bool :=
  match e.kind with
  | .load _ bs _ => bs.any (fun p => match p.2 with
    | .buf _ _ => true
    | _ => false)
  | _ => false

/-- A fault found when an event is performed, after its instruction issued: the instruction's fault (R369, assumption 14). Where the
fault-service duty takes it, what the instruction has not performed is kept for its retry; a matrix instruction reads its operands
anew. -/
def State.lateFault (s : State) (e : IqEv) (cause lane : Nat) : State :=
  let mine := fun (p : IqEv) => p.gid == e.gid && p.ent == e.ent && p.seq == e.seq
  let gone := fun (p : IqEv) => p.id == e.id || (s.assisted 3 && mine p)
  let left := if e.feeds then [] else s.iq.filter mine
  let t := { s with iq := s.iq.filter (fun p => !gone p), parts := s.parts.filter (fun p => p.id != e.id) }
  t.faultAt ⟨e.gid, e.ent⟩ e.site ⟨cause, faultDetail cause lane, e.site.hnd, e.site.pc, e.site.lanes, 0, 0, []⟩ e.feeds left none

/-- The lane that a POISON fault names (R368): the lowest that reads one of the bytes. -/
def IqEv.laneOf (e : IqEv) (hit : Nat → Bool) : Nat :=
  let of := fun (d : Dest) => match d with
    | .vec _ L _ => L
    | .drop L => L
    | _ => noLane
  match e.kind with
  | .load _ bs _ => (bs.filter (fun p => hit p.1)).foldl (fun m p => min m (of p.2)) noLane
  | .atom _ a => of a.dest
  | _ => noLane

/-- The latest write among some, in the core's issue order. -/
def latest (ws : List WEv) : Option WEv :=
  ws.foldl (fun acc w => match acc with
    | some v => if v.id < w.id then some w else acc
    | none => some w) none

/-- The write that tiers 1 and 2 serve a byte from (R197): the group's own latest in its store queue, unless the group has made a
later one that is in the combine buffer (R184); with `t2`, else the latest of the core's writes at C and in the combine buffer, but
for one that is bound to follow a write that the group makes after the read (R198). -/
def State.fromWrites (s : State) (e : IqEv) (core a : Nat) (t2 : Bool) : Option WEv :=
  let own := latest (s.sq.filter (fun w => w.gid == e.gid && decide (w.id < e.id) && w.hits e.sp [a]))
  if !t2 then own
  else
    let later := s.unjoined.filter (fun u => u.gid == e.gid && decide (e.id ≤ u.id) && u.hits e.sp [a])
    let mine := fun (w : WEv) => w.core == core && decide (w.gid ≠ e.gid ∨ w.id < e.id) && w.hits .glob [a] &&
      !later.any (fun u => s.must u w)
    let two := s.clv.filter mine ++ s.cbuf.filter (fun w => mine w && (w.gid == e.gid || s.ntVisible w))
    match own with
    | some w => if two.any (fun x => x.gid == e.gid && decide (w.id < x.id)) then latest two else some w
    | none => latest two

def WEv.byte (w : WEv) (a : Nat) : Byte := Map.get 0 w.bytes a

/-- The group of a read sees a write that is not in the coherence order yet (R198): the writes to the byte that it made or saw before
come first, those it made after the read later. None when the write is bound otherwise. -/
def State.observe (s : State) (e : IqEv) (a : Nat) (w : WEv) : Option State :=
  let us := s.unjoined.filter (fun u => u.id != w.id && u.hits e.sp [a] && u.known e.gid)
  let first := us.filter (fun u => decide (u.gid ≠ e.gid ∨ u.id < e.id))
  let then_ := us.filter (fun u => decide (u.gid = e.gid ∧ e.id ≤ u.id))
  if first.any (fun u => s.must w u) || then_.any (fun u => s.must u w) then none
  else some (s.mapWrites (fun u =>
    if u.id = w.id then
      { u with obs := if u.known e.gid then u.obs else e.gid :: u.obs, pre := (u.pre ++ first.map WEv.id).eraseDups }
    else if then_.any (fun v => v.id == u.id) then { u with pre := (w.id :: u.pre).eraseDups }
    else u))

/-- The bytes of a global line that tiers 3 to 5 give (R197), for the addresses left: state after any fills and write-backs, bytes
and positions by address; none when the line is poisoned or its home does not answer. -/
inductive Served where
  | bytes (s : State) (bs : List (Nat × Byte × Nat))
  | poison
  | wait

/-- The line that a reader by number has read at its home ahead (R76, R151), unless its group has seen the line newer since. -/
def State.keptPart (s : State) (id : Nat) (seen : Map Nat) (line : Nat) : Option Part :=
  s.parts.find? (fun p => p.id == id && p.line == line &&
    (List.range 128).all (fun i => decide (Map.get 0 seen (p.line + i) ≤ p.vers.getD i 0)))

/-- What a reader knows of a byte at its home (R76). -/
def State.partByte (s : State) (id : Nat) (seen : Map Nat) (a : Nat) : Byte :=
  match s.keptPart id seen (lineOf a) with
  | some p => p.bytes.getD (a % 128) 0
  | none => s.homeRead 15 a

/-- Home's bytes, after WRITEBACK when home is behind what the reader has seen (R198). -/
def State.serveHome (s : State) (id : Nat) (seen : Map Nat) (as : List Nat) : Served :=
  let line := lineOf (as.headD 0)
  if !s.answers ⟨.glob, line⟩ then .wait
  else
    let s := if as.any (fun a => decide (Map.get 0 s.ver a < Map.get 0 seen a)) then s.cleanBut none line else s
    if as.any s.isPoison then .poison
    else .bytes s (as.map (fun a => match s.aliasOf a, s.keptPart id seen line with
      | some w, _ => (a, w.aliasByte (s.partByte id seen) a, Map.get 0 s.ver a)
      | none, some p => (a, p.bytes.getD (a - line) 0, p.vers.getD (a - line) 0)
      | none, none => (a, s.mem.read a, Map.get 0 s.ver a)))

/-- The owner's bytes (R194, R197). -/
def State.serveOwner (s : State) (id : Nat) (seen : Map Nat) (as : List Nat) : Served :=
  let line := lineOf (as.headD 0)
  match s.dirty? line with
  | some c =>
    if (s.aliasOf line).isSome then s.serveHome id seen as
    else .bytes s (as.map (fun a => (a, c.bytes.getD (a - line) 0, c.vers.getD (a - line) 0)))
  | none => s.serveHome id seen as

/-- A guest is used: a clean stream line is not kept after it (R171). -/
def useGuest (tile line : Nat) (gs : List Copy) : List Copy :=
  gs.filterMap (fun c =>
    if c.place == tile && c.line == line then (if c.cls.1 = 1 && !c.dirty then none else some c.hit) else some c)

/-- A copy of a line is neither stale for a group nor behind what it has seen of some of its bytes (R198, R201). -/
def Copy.freshFor (c : Copy) (gid : Nat) (seen : Map Nat) (as : List Nat) : Bool :=
  !c.stale.contains gid && as.all (fun a => decide (Map.get 0 seen a ≤ c.vers.getD (a - c.line) 0))

/-- The copy in the core's first-level cache, and the guest of its tile, that serve a reader (R197). -/
def State.l1Copy (s : State) (gid core line : Nat) (seen : Map Nat) (as : List Nat) : Option Copy :=
  s.l1.find? (fun c => c.place == core && c.line == line && c.freshFor gid seen as)
def State.guestCopy (s : State) (gid tile line : Nat) (seen : Map Nat) (as : List Nat) : Option Copy :=
  s.guests.find? (fun c => c.place == tile && c.line == line && (c.dirty || c.freshFor gid seen as))

/-- Tiers 3 to 5 of a reader, in order; a copy that is stale for it or behind what it has seen is passed over (R197, R198). An acquire
skips tier 3. What tier 5 fetches stays as a guest unless its class is stream (R171). -/
def State.serveTiers (s : State) (id gid : Nat) (seen : Map Nat) (core tile : Nat) (as : List Nat) (acq : Bool)
    (cls : Nat × Nat) : Served :=
  let line := lineOf (as.headD 0)
  let give := fun (s : State) (c : Copy) => Served.bytes s (as.map (fun a => (a, c.bytes.getD (a - line) 0, c.vers.getD (a - line) 0)))
  if (s.aliasOf line).isSome then s.serveHome id seen as
  else match (if acq then none else s.l1Copy gid core line seen as) with
  | some c => give { s with l1 := s.l1.map (fun x => if x.place == core && x.line == line then x.hit else x) } c
  | none =>
    if s.homeTile line = tile then s.serveHome id seen as
    else
      match s.guestCopy gid tile line seen as with
      | some c => give { s with guests := useGuest tile line s.guests } c
      | none =>
        match s.serveHome id seen as with
        | .bytes s bs => .bytes (if cls.1 = 1 then s else (s.doFillG tile line cls).getD s) bs
        | r => r

/-- What a group has seen of the coherence order (R198). -/
def State.seenOf (s : State) (gid : Nat) : Map Nat :=
  match Map.find? s.groups gid with
  | some g => g.seen
  | none => []

/-- The places below the writes of tiers 1 and 2: P, the owner, or tiers 3 to 5 (R197). -/
def State.serveBelow (s : State) (e : IqEv) (core : Nat) (as : List Nat) (acq : Option Scope) (owner : Bool) : Served :=
  if e.sp ≠ .glob then
    if !s.answers ⟨e.sp, as.headD 0⟩ then .wait
    else if as.any (fun a => s.poisoned ⟨e.sp, a⟩) then .poison
    else .bytes s (as.map (fun a => (a, s.readHome ⟨e.sp, a⟩, 0)))
  else if owner then s.serveOwner e.id (s.seenOf e.gid) as
  else s.serveTiers e.id e.gid (s.seenOf e.gid) core (core / 96) as acq.isSome e.cls

/-- The bytes of a read that lie in writes of tiers 1 and 2 (R197, R198). -/
def State.serveWrites (s : State) (e : IqEv) (ws : List (Nat × WEv)) : Served :=
  match ws.foldl (fun (acc : Option State) p => acc.bind (fun s => s.observe e p.1 p.2)) (some s) with
  | none => .wait
  | some s' => .bytes s' (ws.map (fun p => (p.1, p.2.byte p.1, 0)))

/-- The bytes of a read below tiers 1 and 2, with the positions its group sees (R198). -/
def State.serveRest (s : State) (e : IqEv) (core : Nat) (as : List Nat) (acq : Option Scope) (owner : Bool) : Served :=
  match s.serveBelow e core as acq owner with
  | .bytes s' got => .bytes (if e.sp == .glob then s'.see e.gid (got.map (fun p => (p.1, p.2.2))) else s') got
  | r => r

/-- A block that ends or is evicted waits for no other group's combine-buffer entries (R210). -/
def State.closing (s : State) (gid : Nat) : Bool :=
  match Map.find? s.blocks (gid / 32) with
  | some b => b.st != .running
  | none => false

/-- A read that a closing block has left (R210): some bytes in other groups' entries of the combine buffer, the others below (DEDUCED,
assumption 65). -/
def State.serveClosing (s : State) (e : IqEv) (core : Nat) (as : List Nat) (acq : Option Scope) (owner : Bool)
    (ws : List (Nat × WEv)) : Served :=
  match s.serveWrites e ws with
  | .bytes s' got =>
    let rest := as.filter (fun a => !ws.any (fun p => p.1 == a))
    if rest.isEmpty then .bytes s' got
    else match s'.serveRest e core rest acq owner with
      | .bytes s' more => .bytes s' (got ++ more)
      | r => r
  | r => r

/-- The values of a read of one line (R197), all from one place (R196): the group's store queue, the core's writes, or a place below. A
read whose bytes lie in several waits until its group's or core's writes have risen, but for a closing block's (R210). The writes it
reads and the positions it sees are recorded (R198). -/
def State.serveRead (s : State) (e : IqEv) (core : Nat) (as : List Nat) (acq : Option Scope) : Served :=
  let owner := e.ord == .so || acq == some .dev || acq == some .sys
  let other := fun (x : WEv) => x.gid != e.gid && s.cbuf.any (fun y => y.id == x.id)
  if e.sp == .glob && owner && knownIn (s.clv ++ s.cbuf) e.gid e.id .glob as then
    let known := fun (a : Nat) => (s.clv ++ s.cbuf).filter (fun x => x.known e.gid && decide (x.gid ≠ e.gid ∨ x.id < e.id) && x.hits .glob [a])
    if s.closing e.gid && as.all (fun a => (known a).all other && (s.fromWrites e core a false).isNone) then
      s.serveClosing e core as acq owner (as.filterMap (fun a => (latest (known a)).map (fun x => (a, x))))
    else .wait
  else
    let w := fun (a : Nat) => s.fromWrites e core a (e.sp == .glob && !owner)
    if as.all (fun a => (w a).isNone) then s.serveRest e core as acq owner
    else
      let ws := as.filterMap (fun a => (w a).map (fun x => (a, x)))
      let inSq := fun (x : WEv) => s.sq.any (fun y => y.id == x.id)
      if ws.length < as.length || (ws.any (fun p => inSq p.2) && ws.any (fun p => !inSq p.2)) then
        if s.closing e.gid && ws.all (fun p => other p.2) then s.serveClosing e core as acq owner ws else .wait
      else s.serveWrites e ws

/-- An access of a group that is not to be performed yet (R196, R200). -/
def State.tooEarly (s : State) (e : IqEv) (as : List Nat) : Bool :=
  s.held e.gid e.seq e.ord || s.before e.gid e.id e.sp as || (e.ord == .so && s.soBefore e.gid e.id)

/-- The byte that a read gave at an address. -/
def gotAt (got : List (Nat × Byte × Nat)) (a : Nat) : Byte :=
  match List.find? (fun p => p.1 == a) got with
  | some p => p.2.1
  | none => 0

/-- A reader reads a line at its home ahead of what it decodes from it (R76), unless it has already, or the line gives no plain bytes. -/
def State.takePart (s : State) (id line : Nat) (seen : Map Nat) : Option State :=
  if s.parts.any (fun p => p.id == id && p.line == line) || !s.answers ⟨.glob, line⟩ || s.poison.contains line || (s.aliasOf line).isSome
  then none
  else
    let behind := (List.range 128).any (fun i => decide (Map.get 0 s.ver (line + i) < Map.get 0 seen (line + i)))
    let s := if behind then s.cleanBut none line else s
    some { s with parts := ⟨id, line, s.homeLine line, s.homeVers line⟩ :: s.parts }

/-- What a reader has read ahead is used up. -/
def State.dropParts (s : State) (id : Nat) : State := { s with parts := s.parts.filter (fun p => p.id != id) }

/-- Whether a reader's decoding of a global byte depends on a line (R76). -/
def State.decodes (s : State) (id a line : Nat) : Bool :=
  match s.aliasOf a with
  | some w => (w.aliasDeps (s.partByte id []) a).any (fun x => lineOf x == line)
  | none => false

/-- A pending read of a decoded alias reads, at its home, one line that it depends on (R76): lines may then hold values of different
ages when the read is performed. -/
def State.loadPart (s : State) (id line : Nat) : Option State :=
  match s.iq.find? (fun e => e.id == id) with
  | none => none
  | some e =>
    match e.kind with
    | .load _ bs _ =>
      let as := (bs.map Prod.fst).eraseDups
      if s.tooEarly e as || e.sp != .glob || !as.any (fun a => s.decodes id a line) then none
      else s.takePart id line (s.seenOf e.gid)
    | _ => none

/-- A read is performed: its bytes arrive, it leaves IQ(g), and an acquire makes copies stale (R195, R201). -/
def State.landed (s : State) (e : IqEv) (core : Nat) (bs : List (Nat × Dest)) (acq : Option Scope) (got : List (Nat × Byte × Nat)) : State :=
  let s := (s.modGroup e.gid (fun g => bs.foldl (fun g p => g.arrive p.2 (gotAt got p.1)) g)).passes e.gid e.seq e.ord
  let s := s.leave e
  match acq with
  | some sc => s.stale e.gid core (core / 96) sc
  | none => s

/-- READ(r) of a load, or the completion of a fence (R195 to R201). A plain read may return a mixture of the old and new bytes that an
engine writes, whatever the group's other reads return (R211; DEDUCED, assumption 49). -/
def State.doRead (s : State) (id : Nat) : Option State :=
  match s.iq.find? (fun e => e.id == id) with
  | none => none
  | some e =>
    match Map.find? s.blocks (e.gid / 32) with
    | none => none
    | some b =>
      match e.kind with
      | .fence sc =>
        let wide := sc == .dev || sc == .sys
        if s.performed e.gid e.seq sc wide then some ((s.leave e).stale e.gid b.core (b.core / 96) sc) else none
      | .load _ bs acq =>
        let as := (bs.map Prod.fst).eraseDups
        if s.tooEarly e as then none
        else
          match s.serveRead e b.core as acq with
          | .wait => none
          | .poison => some (s.lateFault e causePoison (e.laneOf (fun a => s.poisoned ⟨e.sp, a⟩)))
          | .bytes s' got => some (s'.landed e b.core bs acq got)
      | _ => none

/-- An earlier read of a drained entry's group to its bytes takes its value at home in the same step, where no write of tiers 1 and 2
serves it (R203); `s` is the state before the drain. -/
def State.readAfter (s t : State) (core : Nat) (e : IqEv) : Option State :=
  match e.kind with
  | .load _ bs acq =>
    let as := (bs.map Prod.fst).eraseDups
    if t.tooEarly e as || as.any (fun a => (s.fromWrites e core a true).isSome) then none
    else match t.serveHome e.id (t.seenOf e.gid) as with
      | .bytes t got => some ((t.see e.gid (got.map (fun p => (p.1, p.2.2)))).landed e core bs acq got)
      | _ => none
  | _ => none

/-- DRAIN-NT(w) (R203). It waits for no earlier read of its group: one that is pending returns the drained value or an older one, and
an older one it can still take before, in a step of its own. -/
def State.doDrainNt (s : State) (id : Nat) : Option State :=
  match s.cbuf.find? (fun w => w.id == id) with
  | none => none
  | some w =>
    let as := w.bytes.map Prod.fst
    let isRead := fun (p : IqEv) => match p.kind with
      | .load .. => true
      | _ => false
    let mine := s.iq.filter (fun p => p.gid == w.gid && decide (p.id < id) && (p.meets .glob as || s.mayEnter p .glob as))
    if !s.ntVisible w || mine.any (fun p => !isRead p) || s.preceded w || !s.answers ⟨.glob, w.line⟩ then none
    else
      let t := { s with cbuf := s.cbuf.filter (fun x => x.id != id) }.atHome w
      mine.foldl (fun acc e => acc.bind (fun t => s.readAfter t w.core e)) (some t)

/-- A read made where the instruction issues: bytes, a wait until it may be performed, or poison. -/
inductive Sync where
  | got (s : State) (bs : List Byte)
  | poison
  | wait

/-- Reads bytes at issue as the group's own read (R197), at the owner when `so` or `acq` ask for it. -/
def State.readSync (s : State) (c : Iss) (acq : Option Scope) (ls : List (Loc × PageKind)) : Sync :=
  let keys := (ls.map (fun l => (l.1.sp, lineOf l.1.addr, l.2))).eraseDups
  let r := keys.foldl (fun (acc : Sync × List (Space × Nat × Byte)) k =>
    match acc.1 with
    | .got s _ =>
      let as := ((ls.filter (fun l => l.1.sp == k.1 && lineOf l.1.addr == k.2.1 && l.2 == k.2.2)).map (fun l => l.1.addr)).eraseDups
      let e : IqEv := ⟨s.nextId, c.cur.gid, c.cur.ent, s.seq, k.1, k.2.2, .fence .grp, c.f.site c.own, (0, 0), false⟩
      if s.tooEarly e as then (.wait, [])
      else match s.serveRead e c.b.core as acq with
        | .wait => (.wait, [])
        | .poison => (.poison, [])
        | .bytes s' got => (.got s' [], acc.2 ++ got.map (fun p => (k.1, p.1, p.2.1)))
    | _ => acc) (.got s [], [])
  match r.1 with
  | .got s' _ => .got s' (ls.map (fun l => match List.find? (fun p => p.1 == l.1.sp && p.2.1 == l.1.addr) r.2 with
      | some p => p.2.2
      | none => 0))
  | x => x

/-! Read-modify-writes -/

/-- The new value of an atomic (R185, R186). -/
def AtomReq.value (a : AtomReq) (old : Nat) : Nat :=
  let ty := intTy a.var
  let int := fun (op : IOp) =>
    (ty.join false (fun i => op ty false i (BitVec.ofNat 64 old) (BitVec.ofNat 64 a.arg) 0)).toNat
  match a.op with
  | .add => int iAdd
  | .min => int iMin
  | .max => int iMax
  | .and => int iAnd
  | .or => int iOr
  | .xor => int iXor
  | .xchg => a.arg
  | .cas => if old = a.cmp then a.arg else old
  | .fadd =>
    let f := match a.var.toNat with
      | 0 => fmt32
      | 1 => fmt16
      | 2 => fmtB16
      | _ => fmt64
    let el := fun (i : Nat) =>
      let w := f.bits
      (f.finish 0 false 0 (opAdd 0 (f.unpack (old / 2 ^ (w * i) % 2 ^ w)) (f.unpack (a.arg / 2 ^ (w * i) % 2 ^ w)))).1
    if f.bits = 16 then el 0 + 65536 * el 1 else el 0

/-- Whether an atomic writes: a CAS that finds another value does not (R186). -/
def AtomReq.writes (a : AtomReq) (old : Nat) : Bool := a.op != .cas || old == a.cmp

/-- A barrier object's fields (R227) and its bytes with new ones. -/
structure Bar where
  phase : Bool
  rem   : Nat
  init  : Nat
  pend  : Word
  deriving DecidableEq, Repr

def barOf (x : Nat) : Bar :=
  ⟨x.testBit 0, x / 2 ^ 16 % 2 ^ 16, x / 2 ^ 48 % 2 ^ 16, BitVec.ofNat 32 (x / 2 ^ 96)⟩

/-- The object with new fields, its reserved fields unchanged (R227). -/
def Bar.pack (b : Bar) (x : Nat) : Nat :=
  (if b.phase then 1 else 0) + x / 2 % 2 ^ 15 * 2 + b.rem % 2 ^ 16 * 2 ^ 16 + x / 2 ^ 32 % 2 ^ 16 * 2 ^ 32
    + b.init % 2 ^ 16 * 2 ^ 48 + x / 2 ^ 64 % 2 ^ 32 * 2 ^ 64 + b.pend.toNat * 2 ^ 96

/-- Update of R228. -/
def Bar.update (b : Bar) (arrivals : Nat) (bytes : Word) : Bar :=
  let b := { b with rem := (b.rem + 2 ^ 16 - arrivals) % 2 ^ 16, pend := b.pend + bytes }
  if b.rem = 0 ∧ b.pend = 0 then { b with phase := !b.phase, rem := b.init } else b

/-- The number in n bytes of a place at its point of coherence. -/
def State.numAt (s : State) (l : Loc) (n : Nat) : Nat := ofBytes (tab n (fun i => s.readHome ⟨l.sp, l.addr + i⟩))

/-- Bytes written at home or P in one atomic step of a party of tile `src`, known to the groups given (R194, R195). -/
def State.rmw (s : State) (src : Nat) (l : Loc) (n new : Nat) (gids : List Nat) : State :=
  let s := (toBytes n new).mapIdx (fun i b => (i, b)) |>.foldl (fun s p => s.putAt src ⟨l.sp, l.addr + p.1⟩ p.2) s
  if l.sp = .glob then s.join true (tab n (fun i => l.addr + i)) gids else s

/-- The kind of a unit whose lanes reach its line by pages of several kinds: SO, else RC, else UO (R173, R174; DESIGN CHOICE,
assumption 61). -/
def strongest (ks : List PageKind) : PageKind := if ks.contains .so then .so else if ks.contains .rc then .rc else .uo

/-- Accesses of one instruction gathered into one unit per line (R196), in order of first appearance. -/
def byLine {α : Type} (xs : List (Loc × PageKind × α)) : List (Space × Nat × PageKind × List (Nat × α)) :=
  let keys := (xs.map (fun x => (x.1.sp, lineOf x.1.addr))).eraseDups
  keys.map (fun k =>
    let mine := xs.filter (fun x => x.1.sp == k.1 && lineOf x.1.addr == k.2)
    (k.1, k.2, strongest (mine.map (fun x => x.2.1)), mine.map (fun x => (x.1.addr, x.2.2))))

/-- Some lane reaches a line by a page on which an acquire or a release counts (R183). -/
def onRc {α : Type} (xs : List (Loc × PageKind × α)) (sp : Space) (line : Nat) : Bool :=
  xs.any (fun x => x.1.sp == sp && lineOf x.1.addr == line && (sp != .glob || x.2.1 == .rc))

/-- Bytes stored by one instruction, one unit per line (R196); later bytes replace earlier ones (R179). -/
def gather (xs : List (Loc × PageKind × Byte)) : List (Space × Nat × PageKind × List (Nat × Byte)) :=
  (byLine xs).map (fun u => (u.1, u.2.1, u.2.2.1, u.2.2.2.foldl (fun m x => Map.put m x.1 x.2) []))

/-- The reuse class of a handle, with its count (R171). -/
def Hnd.cls (h : Hnd) : Nat × Nat := (h.reuse, h.rcnt)

/-- Stores of the group enter its store queue, or with `nt` the core's combine buffer (R190, R203), numbered from `id`, each behind
the writes to its bytes that the group made earlier or saw (R196, R198). -/
def State.enterWrites (s : State) (c : Iss) (id seq : Nat) (rel : Option Scope) (nt stb : Bool) (cls : Nat × Nat)
    (xs : List (Loc × PageKind × Byte)) : State :=
  let us := gather xs
  let ws : List WEv := us.mapIdx (fun i u =>
    let ord := if u.1 = .glob then u.2.2.1 else .rc
    let old := (s.unjoined.filter (fun w => w.known c.cur.gid && decide (w.gid ≠ c.cur.gid ∨ w.id < id) &&
      w.hits u.1 (u.2.2.2.map Prod.fst))).map WEv.id
    ⟨id + i, c.cur.gid, c.b.core, c.tile, seq, u.1, u.2.1, ord, if onRc xs u.1 u.2.1 then rel else none, u.2.2.2, [], old,
      stb && u.2.2.2.length == 128, cls⟩)
  let toCb := fun (w : WEv) => nt && w.sp == .glob && w.ord != .so
  { s with sq := s.sq ++ ws.filter (fun w => !toCb w), cbuf := s.cbuf ++ ws.filter toCb }

/-- Numbers kept for the entry writes of a STCQ. -/
def entryIds : Nat := 400

/-- Entries of a STCQ that have just entered come before what its group has stored to their bytes since it issued (R196). -/
def State.bindLater (s : State) (gid id : Nat) : State :=
  let ws := s.sq.filter (fun w => w.gid == gid && decide (id ≤ w.id) && decide (w.id < id + entryIds))
  s.mapWrites (fun u => if u.gid = gid ∧ id + entryIds ≤ u.id then
    { u with pre := (ws.filter (fun w => w.hits u.sp (u.bytes.map Prod.fst))).map WEv.id ++ u.pre } else u)

/-- The bytes of a fetch-add that went before an earlier compressing store's entries, which must then avoid them (R188, R196). -/
def State.addFirst (s : State) (gid id : Nat) (l : Loc) : State :=
  { s with iq := s.iq.map (fun p => match p.kind with
      | .stcq a q => if p.gid = gid ∧ p.id < id then
          { p with kind := .stcq a { q with avoid := q.avoid ++ tab 4 (fun i => ⟨l.sp, l.addr + i⟩) } } else p
      | _ => p) }

/-- The entries of a STCQ would fall on bytes that a later fetch-add has passed it for. -/
def State.entersAvoided (s : State) (e : IqEv) (old : Nat) : Bool :=
  s.ofStcq e (fun c q => (s.entryLocs c q old).any (fun l => q.avoid.contains l))

/-- The entries of a STCQ whose fetch-add returned `base` (R188): the entry check, and then the old pointer and the count in S[D] and
S[D+1] and the entries as word stores. A check that fails leaves the pointer's advance and nothing else. -/
def State.stcqEntries (s : State) (e : IqEv) (q : StcqReq) (base : Nat) (off0 : Int) : State :=
  match s.issOf e.gid e.ent with
  | none => s.leave e
  | some c =>
    let h := c.handle q.handle
    let at_ := fun (k : Nat) => off0 + 4 * ((base : Int) + k)
    let ts := q.data.mapIdx (fun k p => (⟨q.lane, p.1, at_ k, 4⟩ : Touch))
    match s.fault? c h true .store 1 ts with
    | some r => s.lateFault e r.1 r.2
    | none =>
      let xs := (q.data.mapIdx (fun k p => (tab 4 (fun i =>
        (s.place c h q.lane ((at_ k).toNat + i) .w).map (fun l => (l.1, l.2, byteOf p.2 i)))).filterMap id)).flatten
      let s := s.modGroup e.gid (fun g => (g.sPut q.dst (BitVec.ofNat 32 base)).sPut (q.dst + 1) (BitVec.ofNat 32 q.cnt))
      (((s.touchAll c h ts).enterWrites c (e.id + 1) e.seq none false false h.cls xs).bindLater e.gid (e.id + 1)).leave e

/-- ATOMIC(a) (R195, R204): an atomic, a barrier update (R228 to R232), a STCQ's fetch-add or a JINIT, at home or P. A fetch-add goes
before an earlier compressing store's whose entries do not reach its pointer, and that one's entries keep off it from then on: it
waits while its own queue's pointer would put one there (R188, R196; assumption 28). -/
def State.doAtomic (s : State) (id : Nat) : Option State :=
  match s.iq.find? (fun e => e.id == id) with
  | none => none
  | some e =>
    let as := e.touches
    let l : Loc := ⟨e.sp, as.headD 0⟩
    let adds := match e.kind with
      | .stcq _ _ => true
      | _ => false
    let early := if adds then
        s.held e.gid e.seq e.ord || s.beforeAdd e.gid e.id e.sp as || (e.ord == .so && s.soBefore e.gid e.id) ||
          s.entersAvoided e (s.numAt l 4)
      else s.tooEarly e as
    let relOk := match e.kind with
      | .bar _ (.update n _ _) => n = 0 || s.performed e.gid e.seq .cls false
      | _ => true
    if early || knownIn (s.sq ++ s.clv ++ s.cbuf) e.gid id e.sp as || !s.answers l || !relOk then none
    else
      let tile := match Map.find? s.blocks (e.gid / 32) with | some b => b.core / 96 | none => 0
      let s := if e.sp = .glob then s.cleanBut none (lineOf l.addr) else s
      let hit := fun (a : Nat) => s.poisoned ⟨e.sp, a⟩
      if as.any hit then some (s.lateFault e causePoison (e.laneOf hit))
      else
        let s := s.passes e.gid e.seq e.ord
        let old := s.numAt l as.length
        let seeOld := fun (s : State) => if e.sp = .glob then s.see e.gid (as.map (fun a => (a, Map.get 0 s.ver a))) else s
        match e.kind with
        | .atom _ a =>
          let s := if a.writes old then s.rmw tile l a.n (a.value old) [e.gid] else seeOld s
          let put := fun (g : Group) => (toBytes a.n old).mapIdx (fun i b => (i, b)) |>.foldl (fun g p =>
            match a.dest with
            | .drop _ => g
            | .buf _ _ => g
            | .vec r L _ => g.arrive (.vec (r + p.1 / 4) L (p.1 % 4)) p.2
            | .sca r _ => g.arrive (.sca (r + p.1 / 4) (p.1 % 4)) p.2) g
          some ((s.modGroup e.gid put).leave e)
        | .bar _ (.init a) =>
          let b : Bar := ⟨false, a, a, 0⟩
          some ((s.rmw tile l 16 (b.pack old) [e.gid]).leave e)
        | .bar _ (.update n bytes dest) =>
          let b := barOf old
          if n ≠ 0 ∧ b.rem = 0 then
            some (s.lateFault e causeBarrier 0)
          else
            let s := s.rmw tile l 16 ((b.update n bytes).pack old) [e.gid]
            let s := match dest with
              | some r => s.modGroup e.gid (fun g => g.sPut r (if b.phase then 1 else 0))
              | none => s
            some (s.leave e)
        | .stcq _ q =>
          let s := (s.rmw tile l 4 ((old + q.cnt) % 2 ^ 32) [e.gid]).addFirst e.gid id l
          some (s.stcqEntries e q old q.disp)
        | .jinit _ => some ((s.rmw tile l 16 0 [e.gid]).leave e)
        | _ => none

/-- The meaning of a step whose guard may not hold: then nothing changes. -/
def stepped (s : State) (r : Option State) : Out := .next (r.getD s)

end Sys2Proof.Machine
end

