-- ==== Sys2Proof/Machine/MemOps.lean ====
section
/-! DEFINITION. Loads, stores, atomics, fences, the compressing store and prefetch (R176 to R190, R409). -/

namespace Sys2Proof.Machine

/-! The memory operand -/

/-- The handle a memory operand names (R176): index, whether a scalar holds an index at all (R170), displacement. -/
def Iss.memHandle (c : Iss) (e : Enc) (code : Code) : Nat × Bool × Int :=
  let n := code.toNat
  if n < 0x40 then (n, true, 0)
  else if n < 0x60 then
    let w := (c.s (n - 0x40)).toNat
    (w % 256, decide (w < 256), 0)
  else
    let w := e.lit.getD 0
    (w.toNat / 2 ^ 24, true, (w.extractLsb' 0 24).toInt)

/-- off(L) of R176. -/
def Iss.off (c : Iss) (e : Enc) (L : Nat) : Int :=
  ((c.read e e.a L (some L) .n32).toNat : Int) + (c.memHandle e e.b).2.2

/-- Element size by VAR (R177). -/
def sizeOf_ (v : BitVec 2) : Nat :=
  match v.toNat with
  | 0 => 4
  | 1 => 8
  | 2 => 2
  | _ => 1

/-- The scope that VAR gives an acquire or a release (R183). -/
def scopeOf (v : BitVec 2) : Scope :=
  match v.toNat with
  | 0 => .cls
  | 1 => .tile
  | 2 => .dev
  | _ => .sys

/-- A memory access that an instruction names: the handle, and whether its index exists. -/
structure Target where
  h  : Hnd
  ok : Bool

def Iss.target (c : Iss) (e : Enc) : Target :=
  let m := c.memHandle e e.b
  ⟨c.handle m.1, m.2.1⟩

/-- The next free event numbers, and the place in the issue order. -/
def State.takeIds (s : State) (n : Nat) : State := { s with nextId := s.nextId + n }

/-- Reads enter IQ(g), one event per line (R190, R192, R196), with the reuse class of the handle that reaches each line. An acquire adds
nothing on an SO or UO page (R183). -/
def State.enterReads (s : State) (c : Iss) (acq : Option Scope) (lanes : Mask) (cls : Space → Nat → Nat × Nat)
    (xs : List (Loc × PageKind × Dest)) : State :=
  let es : List IqEv := (byLine xs).mapIdx (fun i u =>
    ⟨s.nextId + i, c.cur.gid, c.cur.ent, s.seq, u.1, u.2.2.1,
      .load u.2.1 u.2.2.2 (if onRc xs u.1 u.2.1 then acq else none), c.f.site lanes, cls u.1 u.2.1, false⟩)
  { s with iq := s.iq ++ es }.takeIds es.length

/-- The locations of the bytes of an access. -/
def State.bytesAt (s : State) (c : Iss) (h : Hnd) (t : Touch) (acc : Acc) : List (Nat × Loc × PageKind) :=
  (tab t.n (fun i => (s.place c h t.lane (t.off.toNat + i) acc).map (fun l => (i, l.1, l.2)))).filterMap id

/-- Zero in the words a load will fill, so that narrow loads zero-extend and helper lanes that fail read zero (R177, R178); the
zero policy on the other Owned lanes. -/
def Iss.clearDst (c : Iss) (e : Enc) (active : Mask) (wide : Bool) : Eff :=
  c.putVec e c.eff wide active ((lanesOf active).map (fun L => (L, 0)))

/-- A per-lane load (R181, R182): `off` by lane; `slice` whether each lane reaches its own slice (R409). -/
def State.loadV (s : State) (c : Iss) (e : Enc) (off : Nat → Int) (slice : Bool) (n align : Nat) (acq : Option Scope) : State :=
  let t := c.target e
  let active := c.active e
  let touch := fun (L : Nat) => (⟨if slice then some L else none, L, off L, n⟩ : Touch)
  let ls := lanesOf active
  match s.fault? c t.h t.ok .load align ((ls.filter (bitOf c.real)).map touch) with
  | some r => s.stopBlock c r active
  | none =>
    let go := ls.filter (fun L => bitOf c.real L || (s.failure c t.h t.ok .load align (touch L)).isNone)
    let dst := e.dst.toNat
    let xs := (go.map (fun L => (s.bytesAt c t.h (touch L) .r).map (fun b =>
      (b.2.1, b.2.2, if dst < 0x40 then Dest.vec (dst + b.1 / 4) L (b.1 % 4) else .drop L)))).flatten
    ((s.touchAll c t.h (go.map touch)).enterReads c acq active (fun _ _ => t.h.cls) xs).finishV c e (c.clearDst e active (n == 8)) active false

/-- Whether the beats of a STB begin at lines (R175, R387), by the place of the first word moved. -/
def State.beatsAligned (s : State) (c : Iss) (h : Hnd) (off : Nat → Int) (ls : List Nat) : Bool :=
  match ls.head? with
  | some L => match s.place c h none (off L).toNat .w with
    | some (l, _) => l.addr % 128 == 4 * (L % 32)
    | none => false
  | none => false

/-- A per-lane store (R181, R182, R184). -/
def State.storeV (s : State) (c : Iss) (e : Enc) (off : Nat → Int) (slice : Bool) (n align : Nat) (rel : Option Scope)
    (nt stb : Bool) : State :=
  let t := c.target e
  let active := c.active e
  let touch := fun (L : Nat) => (⟨if slice then some L else none, L, off L, n⟩ : Touch)
  let ls := (lanesOf active).filter (bitOf c.real)
  match s.fault? c t.h t.ok .store align (ls.map touch) with
  | some r => s.stopBlock c r active
  | none =>
    let xs := (ls.map (fun L => (s.bytesAt c t.h (touch L) .w).map (fun b =>
      (b.2.1, b.2.2, byteOf (c.g.vGet (e.dst.toNat + b.1 / 4) L) (b.1 % 4))))).flatten
    let stb := stb && s.beatsAligned c t.h off ls
    let s := s.touchAll c t.h (ls.map touch)
    let s := (s.enterWrites c s.nextId s.seq rel nt stb t.h.cls xs).takeIds xs.length
    s.finishV c e c.eff active false

/-- LDS (R180): s29 to s31 gather the bytes and write the activity mask when the last has come (R111). -/
def State.loadS (s : State) (c : Iss) (e : Enc) : State :=
  let t := c.target e
  let n := sizeOf_ e.var
  let touch : Touch := ⟨none, noLane, c.off e 0, n⟩
  match s.fault? c t.h t.ok .load 1 [touch] with
  | some r => s.stopBlock c r c.own
  | none =>
    let d := e.dst.toNat - 0x40
    let none_ := 0x60 ≤ e.dst.toNat
    let xs := (s.bytesAt c t.h touch .r).map (fun b =>
      (b.2.1, b.2.2, if none_ then Dest.drop noLane else .sca (d + b.1 / 4) (b.1 % 4)))
    let g := if none_ then c.g else if n = 8 then (c.g.sPut d 0).sPut (d + 1) 0 else c.g.sPut d 0
    ((s.touchAll c t.h [touch]).enterReads c none c.own (fun _ _ => t.h.cls) xs).finish c e ⟨g, 0⟩ c.own (!none_ && decide (29 ≤ d + (if n = 8 then 1 else 0)))

/-- STS (R180). -/
def State.storeS (s : State) (c : Iss) (e : Enc) : State :=
  let t := c.target e
  let n := sizeOf_ e.var
  let touch : Touch := ⟨none, noLane, c.off e 0, n⟩
  match s.fault? c t.h t.ok .store 1 [touch] with
  | some r => s.stopBlock c r c.own
  | none =>
    let w := c.sa e e.dst (if n = 8 then .i64 else .n32)
    let xs := (s.bytesAt c t.h touch .w).map (fun b => (b.2.1, b.2.2, w.extractLsb' (8 * b.1) 8))
    let s := s.touchAll c t.h [touch]
    let s := (s.enterWrites c s.nextId s.seq none false false t.h.cls xs).takeIds xs.length
    s.finish c e c.eff c.own false

/-- Bytes of an atomic's element (R185). -/
def atomSize (op : AOp) (v : BitVec 2) : Nat :=
  if op = .fadd then (if v = 3 then 8 else 4) else if v = 2 then 8 else 4

/-- An atomic's request from the words of its registers (R185, R186). -/
def atomReq (op : AOp) (v : BitVec 2) (word : Nat → Word) (dest : Dest) : AtomReq :=
  let n := atomSize op v
  let val := fun (i : Nat) => (tab (n / 4) (fun j => (word (i + j)).toNat <<< (32 * j))).sum
  if op = .cas then ⟨op, v, n, val (n / 4), val 0, dest⟩ else ⟨op, v, n, val 0, 0, dest⟩

/-- Atomics enter IQ(g), each its own event, in ascending lane order (R179, R190). -/
def State.enterAtoms (s : State) (c : Iss) (lanes : Mask) (xs : List (Loc × PageKind × IqKind)) : State :=
  let es : List IqEv := xs.mapIdx (fun i x =>
    ⟨s.nextId + i, c.cur.gid, c.cur.ent, s.seq, x.1.sp, x.2.1, x.2.2, c.f.site lanes, (0, 0), false⟩)
  { s with iq := s.iq ++ es }.takeIds es.length

/-- ATOMV (R185, R186). -/
def State.atomV (s : State) (c : Iss) (e : Enc) (op : AOp) : State :=
  let t := c.target e
  let active := c.active e
  let n := atomSize op e.var
  let touch := fun (L : Nat) => (⟨some L, L, c.off e L, n⟩ : Touch)
  let ls := (lanesOf active).filter (bitOf c.real)
  match s.fault? c t.h t.ok .atomic n (ls.map touch) with
  | some r => s.stopBlock c r active
  | none =>
    let r := e.dst.toNat
    let xs := ls.filterMap (fun L => (s.place c t.h (some L) (touch L).off.toNat .w).map (fun l =>
      (l.1, l.2, IqKind.atom l.1.addr (atomReq op e.var (fun i => c.g.vGet (r + i) L) (.vec r L 0)))))
    ((s.touchAll c t.h (ls.map touch)).enterAtoms c active xs).finishV c e (c.putVec e c.eff (n == 8) active []) active false

/-- ATOMS (R185, R186). -/
def State.atomS (s : State) (c : Iss) (e : Enc) (op : AOp) : State :=
  let t := c.target e
  let n := atomSize op e.var
  let touch : Touch := ⟨none, noLane, c.off e 0, n⟩
  match s.fault? c t.h t.ok .atomic n [touch] with
  | some r => s.stopBlock c r c.own
  | none =>
    let r := e.dst.toNat - 0x40
    let xs := ((s.place c t.h none touch.off.toNat .w).map (fun l =>
      (l.1, l.2, IqKind.atom l.1.addr (atomReq op e.var (fun i => c.s (r + i)) (.sca r 0))))).toList
    ((s.touchAll c t.h [touch]).enterAtoms c c.own xs).finish c e c.eff c.own (decide (29 ≤ r + (n / 4 - 1)))

/-- FENCE (R187). -/
def State.fence (s : State) (c : Iss) (e : Enc) (sc : Scope) : State :=
  let ev : IqEv := ⟨s.nextId, c.cur.gid, c.cur.ent, s.seq, .glob, .rc, .fence sc, c.f.site c.own, (0, 0), false⟩
  ({ s with iq := s.iq ++ [ev] }.takeIds 1).finish c e c.eff c.own false

/-- STCQ (R188): the fetch-add enters IQ(g); numbers are kept for the entry writes that follow it. -/
def State.stcq (s : State) (c : Iss) (e : Enc) : State :=
  let t := c.target e
  let active := c.active e
  let ls := lanesOf (c.contrib active)
  let d := e.dst.toNat - 0x40
  let touch : Touch := ⟨none, noLane, (c.s d).toNat, 4⟩
  match s.fault? c t.h t.ok .atomic 4 [touch] with
  | some r => s.stopBlock c r active
  | none =>
    let m := c.memHandle e e.b
    let q : StcqReq := ⟨m.1, c.sliceLane, ((c.s (d + 1)).toNat : Int) + m.2.2, ls.length, d,
      ls.map (fun L => (L, c.g.vGet e.a.toNat L)), []⟩
    let xs := ((s.place c t.h none touch.off.toNat .w).map (fun l => (l.1, l.2, IqKind.stcq l.1.addr q))).toList
    (((s.touchAll c t.h [touch]).enterAtoms c active xs).takeIds entryIds).finishV c e c.eff active (decide (28 ≤ d))

/-- PFCH (R189): the lines asked for enter the first-level cache and the cellar, where a FILL may be taken; `.cel` fetches only at
home. No register and no value that a party reads depends on it. -/
def State.prefetch (s : State) (c : Iss) (e : Enc) : State :=
  let t := c.target e
  let s' := (lanesOf (c.own &&& c.real)).foldl (fun s L =>
    match s.failure c t.h t.ok .load 1 ⟨some L, L, c.off e L, 1⟩ with
    | some _ => s
    | none => match s.place c t.h (some L) (c.off e L).toNat .r with
      | some (l, o) => if e.var = 0 ∧ l.sp = .glob ∧ o ≠ .so then (s.doFillL1 c.b.core (lineOf l.addr) t.h.cls).getD s else s
      | none => s) s
  s'.finish c e c.eff c.own false

/-- The block that a LDB or STB moves: lane L reaches the word at off + 4 × L (R182). -/
def Iss.blockOff (c : Iss) (e : Enc) (L : Nat) : Int := c.off e 0 + 4 * (L : Int)

/-- R180 -/
def execLdv (e : Enc) (s : State) : Out := issuing (.ldv e) s (fun c => s.loadV c e (c.off e) true (sizeOf_ e.var) 1 none)
/-- R180 -/
def execStv (e : Enc) (s : State) : Out :=
  issuing (.stv e) s (fun c => s.storeV c e (c.off e) true (sizeOf_ e.var) 1 none false false)
/-- R180, R183 -/
def execLdvAcq (e : Enc) (s : State) : Out :=
  issuing (.ldvAcq e) s (fun c => s.loadV c e (c.off e) true 4 4 (some (scopeOf e.var)))
/-- R180, R183 -/
def execStvRel (e : Enc) (s : State) : Out :=
  issuing (.stvRel e) s (fun c => s.storeV c e (c.off e) true 4 4 (some (scopeOf e.var)) false false)
/-- R180 -/
def execLds (e : Enc) (s : State) : Out := issuing (.lds e) s (fun c => s.loadS c e)
/-- R180 -/
def execSts (e : Enc) (s : State) : Out := issuing (.sts e) s (fun c => s.storeS c e)
/-- R182 -/
def execLdb (e : Enc) (s : State) : Out := issuing (.ldb e) s (fun c => s.loadV c e (c.blockOff e) false 4 4 none)
/-- R182 -/
def execStb (e : Enc) (s : State) : Out := issuing (.stb e) s (fun c => s.storeV c e (c.blockOff e) false 4 4 none false true)
/-- R184 -/
def execStnt (e : Enc) (s : State) : Out :=
  issuing (.stnt e) s (fun c => s.storeV c e (c.off e) true (sizeOf_ e.var) 1 none true false)
/-- R185 -/
def execAtomvAdd (e : Enc) (s : State) : Out := issuing (.atomvAdd e) s (fun c => s.atomV c e .add)
/-- R185 -/
def execAtomvMin (e : Enc) (s : State) : Out := issuing (.atomvMin e) s (fun c => s.atomV c e .min)
/-- R185 -/
def execAtomvMax (e : Enc) (s : State) : Out := issuing (.atomvMax e) s (fun c => s.atomV c e .max)
/-- R185 -/
def execAtomvAnd (e : Enc) (s : State) : Out := issuing (.atomvAnd e) s (fun c => s.atomV c e .and)
/-- R185 -/
def execAtomvOr (e : Enc) (s : State) : Out := issuing (.atomvOr e) s (fun c => s.atomV c e .or)
/-- R185 -/
def execAtomvXor (e : Enc) (s : State) : Out := issuing (.atomvXor e) s (fun c => s.atomV c e .xor)
/-- R185 -/
def execAtomvXchg (e : Enc) (s : State) : Out := issuing (.atomvXchg e) s (fun c => s.atomV c e .xchg)
/-- R186 -/
def execAtomvCas (e : Enc) (s : State) : Out := issuing (.atomvCas e) s (fun c => s.atomV c e .cas)
/-- R185 -/
def execAtomvFadd (e : Enc) (s : State) : Out := issuing (.atomvFadd e) s (fun c => s.atomV c e .fadd)
/-- R185 -/
def execAtomsAdd (e : Enc) (s : State) : Out := issuing (.atomsAdd e) s (fun c => s.atomS c e .add)
/-- R185 -/
def execAtomsMin (e : Enc) (s : State) : Out := issuing (.atomsMin e) s (fun c => s.atomS c e .min)
/-- R185 -/
def execAtomsMax (e : Enc) (s : State) : Out := issuing (.atomsMax e) s (fun c => s.atomS c e .max)
/-- R185 -/
def execAtomsAnd (e : Enc) (s : State) : Out := issuing (.atomsAnd e) s (fun c => s.atomS c e .and)
/-- R185 -/
def execAtomsOr (e : Enc) (s : State) : Out := issuing (.atomsOr e) s (fun c => s.atomS c e .or)
/-- R185 -/
def execAtomsXor (e : Enc) (s : State) : Out := issuing (.atomsXor e) s (fun c => s.atomS c e .xor)
/-- R185 -/
def execAtomsXchg (e : Enc) (s : State) : Out := issuing (.atomsXchg e) s (fun c => s.atomS c e .xchg)
/-- R186 -/
def execAtomsCas (e : Enc) (s : State) : Out := issuing (.atomsCas e) s (fun c => s.atomS c e .cas)
/-- R185 -/
def execAtomsFadd (e : Enc) (s : State) : Out := issuing (.atomsFadd e) s (fun c => s.atomS c e .fadd)
/-- R187 -/
def execFenceGrp (e : Enc) (s : State) : Out := issuing (.fenceGrp e) s (fun c => s.fence c e .grp)
/-- R187 -/
def execFenceBlk (e : Enc) (s : State) : Out := issuing (.fenceBlk e) s (fun c => s.fence c e .blk)
/-- R187 -/
def execFenceCls (e : Enc) (s : State) : Out := issuing (.fenceCls e) s (fun c => s.fence c e .cls)
/-- R187 -/
def execFenceTile (e : Enc) (s : State) : Out := issuing (.fenceTile e) s (fun c => s.fence c e .tile)
/-- R187 -/
def execFenceDev (e : Enc) (s : State) : Out := issuing (.fenceDev e) s (fun c => s.fence c e .dev)
/-- R187 -/
def execFenceSys (e : Enc) (s : State) : Out := issuing (.fenceSys e) s (fun c => s.fence c e .sys)
/-- R188 -/
def execStcq (e : Enc) (s : State) : Out := issuing (.stcq e) s (fun c => s.stcq c e)
/-- R189 -/
def execPfch (e : Enc) (s : State) : Out := issuing (.pfch e) s (fun c => s.prefetch c e)

end Sys2Proof.Machine
end

