-- ==== Sys2Proof/Machine/Copy.lean ====
section
/-! DEFINITION. Copies, batches and collectives at issue (R216 to R226, R236): operands, checks, and the engine thread they fork
(R207). -/

namespace Sys2Proof.Machine

/-- The fragment waits at its instruction and tests again later (STATE 1, R253). It is not ready meanwhile (R302). -/
def State.waitAt (s : State) (c : Iss) : State :=
  s.modFrag c.cur (fun f => { f with st := if f.st = .ready then .waiting else f.st, starved := false })

/-- Copies a core may have in flight (R217). -/
def copyLimit : Nat := 128

/-- Whether a core's copy queue is full (R217). A COLR's thread takes a place there too: R217 has a COLR wait for the queue and does not
say whether it counts (DESIGN CHOICE, assumption 50). -/
def State.queueFull (s : State) (core : Nat) : Bool :=
  decide (copyLimit ≤ (s.engines.filter (fun p => p.2.core == core)).length)

/-- A place that a transfer names: handle index, whether the index is one, byte offset (R216). -/
structure Opnd where
  idx : Nat
  ok  : Bool
  off : Nat
  deriving DecidableEq, Repr

/-- A copy operand (R216). -/
def Iss.copyOpnd (c : Iss) (code : Code) : Opnd :=
  let n := code.toNat
  if n < 0x40 then ⟨n, true, 0⟩
  else
    let w := (c.s (n - 0x40)).toNat
    ⟨w % 256, decide (w < 256), (c.s (n - 0x40 + 1)).toNat⟩

/-- A barrier or join word names a handle and an offset (R222, R296). -/
def wordOpnd (w : Word) : Opnd := ⟨w.toNat / 2 ^ 24, true, w.toNat % 2 ^ 24⟩

/-- The lowest cause by which n bytes of a place fail (R170, R218): a lane slice is never one end of a transfer. A handle of the table
with the slice's space fails as h0 does, and a transfer of no bytes is still checked for HANDLE and RIGHTS (DESIGN CHOICE, assumption
62). -/
def State.opndFailure (s : State) (c : Iss) (o : Opnd) (k : AccKind) (align n : Nat) : Option Nat :=
  let h := c.handle o.idx
  if !o.ok || o.idx = 0 || h.space = 4 || !h.usable k then some causeHandle
  else if !h.right k then some causeRights
  else if n = 0 then none
  else s.failure c h true k align ⟨none, noLane, o.off, n⟩

/-- The lowest cause by which a barrier word's object fails (R170, R218): a space other than spad or cluster is BARRIER. -/
def State.barrierFailure (s : State) (c : Iss) (w : Word) : List (Option Nat) :=
  let o := wordOpnd w
  let h := c.handle o.idx
  [s.failure c h true .atomic 16 ⟨none, noLane, o.off, 16⟩, if h.space = 2 ∨ h.space = 3 then none else some causeBarrier]

/-- The lowest of several causes. -/
def lowestCause (l : List (Option Nat)) : Option Nat := (l.filterMap id).min?

/-- The end of a transfer that a place names (R165, R166). -/
def State.endPt (s : State) (c : Iss) (o : Opnd) : EndPt :=
  let h := c.handle o.idx
  let a := h.base + o.off
  match h.space with
  | 0 => .va a
  | 1 => .pt .tpad (33554432 * h.home + 65536 * (s.ctx c.l.ctx).tsOff + a)
  | 2 => .win (tab 8 (fun i => match s.slotBlock c i with | some b => 524288 * b.core + b.spbase | none => 0)) a
  | 4 => match s.place c h none o.off .w with
    | some (l, _) => .pt .slice l.addr
    | none => .va 0
  | _ => .pt .spad (524288 * c.b.core + c.b.spbase + a)

/-- The scope codes of CPYS and COLR (R222, R236). -/
def sigmaOf (v : BitVec 2) : Scope := scopeOf v

/-- FORK (R207): engine thread E, in the open set when it completes a batch (R226); `hs` and `hd` are the handles of its ends. -/
def State.fork (s : State) (c : Iss) (sigma : Scope) (kind : EngKind) (hs hd : Hnd) (src dst : EndPt) (n : Nat) (done : Compl)
    (open_ : Bool) : State :=
  let id := s.nextId
  let e : Engine := ⟨c.cur.gid, c.cur.ent, c.f.site c.own, c.b.core, c.tile, c.l.ctx, s.seq, sigma, kind, src, dst, n, [], [], done, [],
    (hs.cls, hd.cls)⟩
  let s := { s with engines := Map.put s.engines id e }.takeIds 1
  let s := match kind with
    | .coll _ => s
    | _ => s.modGroup c.cur.gid (fun g => g.tally 5 1)
  if open_ then s.modGroup c.cur.gid (fun g => { g with openSet := g.openSet ++ [(id, sigma)] }) else s

/-- An instruction that forks: the wait for the copy queue, the checks of R218, then the thread. `act` gets the state and gives the
state after the fork. -/
def State.forking (s : State) (c : Iss) (e : Enc) (cause : Option Nat) (act : State → State) : State :=
  if s.queueFull c.b.core then s.waitAt c
  else
    match cause with
    | some r => s.stopBlock c (r, noLane) c.own
    | none =>
      let s := act s
      match Map.find? s.groups c.cur.gid with
      | some g => s.finish { c with g := g } e ⟨g, 0⟩ c.own false
      | none => s

/-- The credit of a .bar copy (R230): the object's place and the bytes to take off. -/
def State.creditAt (s : State) (c : Iss) (w : Word) (n : Nat) : Compl :=
  let o := wordOpnd w
  match s.place c (c.handle o.idx) none o.off .w with
  | some (l, _) => .credit l n
  | none => .batch

/-- CPY and CPY.bar (R219, R222). -/
def State.cpy (s : State) (c : Iss) (e : Enc) (bar : Bool) : State :=
  let d := c.copyOpnd e.dst
  let a := c.copyOpnd e.a
  let k := e.b.toNat - 0x40
  let n := if bar then (c.s k).toNat else (c.sa e e.b .n32).toNat % 2 ^ 32
  let w := c.s (k + 1)
  let cause := lowestCause ([s.opndFailure c a .load 1 n, s.opndFailure c d .store 1 n] ++
    (if bar then s.barrierFailure c w else []))
  s.forking c e cause (fun s =>
    s.fork c (if bar then .cls else .dev) .copy (c.handle a.idx) (c.handle d.idx) (s.endPt c a) (s.endPt c d) n
      (if bar then s.creditAt c w n else .batch) (!bar))

/-- Bytes of a tensor element as CPYT counts them (R223). -/
def elemBytes (fmt : Nat) : Nat := if fmt = 5 then 18 else fmtBytes fmt 1

/-- A tensor's sizes in the units CPYT counts (R223, R224). -/
def Hnd.units (h : Hnd) : List Nat := h.size.mapIdx (fun d x => if d < h.ndim then (if d = 0 ∧ h.fmt = 5 then x / 32 else x) else 1)

/-- The box of a CPYT run (R224), with the extents of dimension 0 first. -/
def boxOf (h : Hnd) (w : Nat → Word) (doff : Nat) : Box :=
  let f := fun (i lo n : Nat) => ((w i).toNat >>> lo) % 2 ^ n
  let span := f 2 16 4
  ⟨elemBytes h.fmt,
    [f 3 0 8 + 1, f 3 8 6 + 1, f 3 14 6 + 1, f 3 20 6 + 1, f 3 26 6 + 1],
    [f 0 0 16, f 0 16 16, f 1 0 16, f 1 16 16, f 2 0 16],
    h.units, h.strd, 16 * 2 ^ (if span = 8 then h.swz else span), doff⟩

/-- Whether the run breaks R224 (DESC). -/
def boxBad (h : Hnd) (w : Nat → Word) (b : Box) : Bool :=
  (w 2).toNat / 2 ^ 20 != 0 || decide (8 < ((w 2).toNat >>> 16) % 16) ||
    (List.range 5).any (fun d => decide (h.ndim ≤ d) && (b.cst.getD d 0 != 0 || b.ext.getD d 1 != 1))

/-- Bytes a box writes (R224). -/
def Box.bytes (b : Box) : Nat := b.ext.foldl (· * ·) 1 * b.z

/-- The swizzle of R146. -/
def swizzle (span o : Nat) : Nat := o ^^^ (o / span % (span / 16)) * 16

/-- Where byte i of a box's stream goes (R224): an offset within the destination handle. -/
def Box.dstOff (b : Box) (i : Nat) : Nat := swizzle b.span (b.doff + i)

/-- Where byte i of a box's stream comes from: an offset within the tensor, or none outside it (R224). -/
def Box.srcOff (b : Box) (i : Nat) : Option Nat :=
  let p := i / b.z
  let r := (List.range 5).foldl (fun (acc : Nat × List Nat) d =>
    (acc.1 / b.ext.getD d 1, acc.2 ++ [b.cst.getD d 0 + acc.1 % b.ext.getD d 1])) (p, [])
  let cs := r.2
  if (List.range 5).all (fun d => decide (cs.getD d 0 < b.size.getD d 1)) then
    some (b.z * cs.getD 0 0 + ((List.range 5).map (fun d => if d = 0 then 0 else cs.getD d 0 * b.strd.getD d 0)).sum + i % b.z)
  else none

/-- The lowest cause by which the bytes a box reads fail (R170, R218): outside the handle or the slots of a cluster window, or not
translated. -/
def State.boxFailure (s : State) (c : Iss) (h : Hnd) (b : Box) : Option Nat :=
  lowestCause ((List.range b.bytes).map (fun i => match b.srcOff i with
    | some o =>
      if !s.inBounds c h none (o : Int) 1 then some causeBounds
      else if (s.place c h none o .r).isNone then some causeLease
      else none
    | none => none))

/-- CPYT and CPYT.bar (R223, R224). A scalar that names the tensor with other bits set fails with HANDLE, and a SPAN of 9 to 15 counts as
a span of 16 × 2^SPAN bytes for the destination's check beside its DESC (DESIGN CHOICE, assumption 62). -/
def State.cpyt (s : State) (c : Iss) (e : Enc) (bar : Bool) : State :=
  let d := c.copyOpnd e.dst
  let an := e.a.toNat
  let a : Opnd := if an < 0x40 then ⟨an, true, 0⟩
    else ⟨(c.s (an - 0x40)).toNat % 256, decide ((c.s (an - 0x40)).toNat < 256), 0⟩
  let h := c.handle a.idx
  let k := e.b.toNat - 0x40
  let b := boxOf h (fun i => c.s (k + i)) d.off
  let n := b.bytes
  let w := c.s (k + 4)
  let lo := b.doff / b.span * b.span
  let hi := (b.doff + n + b.span - 1) / b.span * b.span
  let srcCause := if !a.ok || h.kind != 2 || h.space == 4 then some causeHandle else if !h.rd then some causeRights
    else s.boxFailure c h b
  let cause := lowestCause ([srcCause, s.opndFailure c { d with off := lo } .store 1 (hi - lo),
      if h.kind = 2 && boxBad h (fun i => c.s (k + i)) b then some causeDesc else none] ++
    (if bar then s.barrierFailure c w else []))
  s.forking c e cause (fun s =>
    s.fork c (if bar then .cls else .dev) (.box b) h (c.handle d.idx) (s.endPt c a) (s.endPt c { d with off := 0 }) n
      (if bar then s.creditAt c w n else .batch) (!bar))

/-- CPYS (R225). A counter in a lane slice, through h0, is one of the issuing fragment's (R409). -/
def State.cpys (s : State) (c : Iss) (e : Enc) : State :=
  let d := c.copyOpnd e.dst
  let a := c.copyOpnd e.a
  let k := e.b.toNat - 0x40
  let n := (c.s k).toNat
  let kh := (c.s (k + 1)).toNat
  let ko := (c.s (k + 2)).toNat
  let h := c.handle (kh % 256)
  let cause := lowestCause [s.opndFailure c a .load 1 n, s.opndFailure c d .store 1 n,
    s.failure c h true .atomic 4 ⟨none, noLane, ko, 4⟩, if 256 ≤ kh then some causeDesc else none]
  s.forking c e cause (fun s =>
    s.fork c (sigmaOf e.var) .copy (c.handle a.idx) (c.handle d.idx) (s.endPt c a) (s.endPt c d) n (.counter (s.endPt c ⟨kh, true, ko⟩) (c.s (k + 3))) true)

/-! Batches -/

/-- CBAT (R226). -/
def State.cbat (s : State) (c : Iss) (e : Enc) : State :=
  let n : Word := if c.g.lastb = 0xFFFF_FFFF then 1 else c.g.lastb + 1
  let g := { c.g with lastb := n, batches := c.g.batches ++ [(n.toNat, c.g.openSet)], openSet := [] }
  s.finish c e (c.putSca ⟨g, 0⟩ e.dst false (n.zeroExtend 64)) c.own false

/-- The threads of the batches that CWAIT and CTEST cover (R226). -/
def Iss.covered (c : Iss) (a : Nat) : List (Nat × Scope) :=
  ((c.g.batches.filter (fun p => 1 ≤ p.1 && p.1 ≤ min a c.g.lastb.toNat)).map Prod.snd).flatten

/-- Every thread of a list has completed. -/
def State.allDone (s : State) (ts : List (Nat × Scope)) : Bool := ts.all (fun t => (Map.find? s.engines t.1).isNone)

/-- JOIN of threads (R207, R201). -/
def State.joinAll (s : State) (c : Iss) (ts : List (Nat × Scope)) : State :=
  (ts.map Prod.snd).eraseDups.foldl (fun s sc => s.stale c.cur.gid c.b.core c.tile sc) s

/-- The batch number that CWAIT and CTEST name. -/
def Iss.batchArg (c : Iss) (e : Enc) : Nat := (c.sa e e.a .n32).toNat % 2 ^ 32

/-- CWAIT (R226). -/
def State.cwait (s : State) (c : Iss) (e : Enc) : State :=
  let ts := c.covered (c.batchArg e)
  if s.allDone ts then (s.joinAll c ts).finish c e c.eff c.own false else s.waitAt c

/-- CTEST (R226). -/
def State.ctest (s : State) (c : Iss) (e : Enc) : State :=
  let ts := c.covered (c.batchArg e)
  let ok := s.allDone ts
  (if ok then s.joinAll c ts else s).finish c e (c.putSca c.eff e.dst false (if ok then 1 else 0)) c.own false

/-! Collectives -/

/-- A field of a COLR descriptor (R236). -/
def descField (x lo n : Nat) : Nat := x / 2 ^ lo % 2 ^ n

/-- Bytes of an element (R236). -/
def collElem (ty : Nat) : Nat := if ty = 3 then 8 else 4

/-- Whether a descriptor breaks its table (R218 order 6, R236). -/
def State.collBad (s : State) (x : Nat) : Bool :=
  descField x 256 256 != 0 || descField x 88 8 != 0 || descField x 24 8 != 0 || decide (2 < descField x 0 4) ||
    decide (2 < descField x 4 4) || decide (5 < descField x 8 4) || (Map.find? s.collSets (descField x 12 12)).isNone ||
    descField x 32 32 == 0 || decide (2 ^ 28 < descField x 32 32)

/-- COLR (R236): the descriptor is read as an LDS of the group would read it, then checked with every range it names, its STATUS among
them (R218). -/
def State.colr (s : State) (c : Iss) (e : Enc) : State :=
  let m := c.memHandle e e.b
  let h := c.handle m.1
  let off := c.off e 0
  let touch : Touch := ⟨none, noLane, off, 64⟩
  let told := s.failure c h m.2.1 .store 1 { touch with off := off + 28, n := 4 }
  if s.queueFull c.b.core then s.waitAt c
  else match s.failure c h m.2.1 .load 1 touch with
  | some r => s.stopBlock c ((lowestCause [some r, told]).getD r, noLane) c.own
  | none =>
    match s.readSync c none ((s.bytesAt c h touch .r).map (fun b => (b.2.1, b.2.2))) with
    | .wait => s.waitAt c
    | .poison => s.stopBlock c (causePoison, noLane) c.own
    | .got s' bs =>
      let x := ofBytes bs
      let set := descField x 12 12
      let cs := (Map.find? s.collSets set).getD ⟨[], 0, 0, 0⟩
      let members := cs.members.length
      let kind := descField x 0 4
      let ty := descField x 8 4
      let count := descField x 32 32
      let z := collElem ty
      let nSrc := if kind = 1 then members * count * z else count * z
      let nDst := if kind = 2 then members * count * z else count * z
      let sh : Opnd := ⟨descField x 64 8, true, descField x 96 32⟩
      let dh : Opnd := ⟨descField x 72 8, true, descField x 128 32⟩
      let kh := descField x 80 8
      let ko := descField x 160 32
      let cause := lowestCause [told, s.opndFailure c sh .load 1 nSrc, s.opndFailure c dh .store 1 nDst,
        if kh = 0 then none else s.failure c (c.handle kh) true .atomic 4 ⟨none, noLane, ko, 4⟩,
        if s.collBad x then some causeDesc else none]
      s'.forking c e cause (fun s =>
        let coll : Coll := ⟨set, kind, descField x 4 4, ty, count, cs.issued, s.endPt c ⟨m.1, true, (off + 28).toNat⟩, false, false, false⟩
        let s := { s with collSets := Map.put s.collSets set { cs with issued := cs.issued + 1 } }
        let done : Compl := if kh = 0 then .batch else .counter (s.endPt c ⟨kh, true, ko⟩) (BitVec.ofNat 32 (descField x 192 32))
        s.fork c (sigmaOf e.var) (.coll coll) (c.handle sh.idx) (c.handle dh.idx) (s.endPt c sh) (s.endPt c dh) nSrc done true)

/-- R222 -/
def execCpy (e : Enc) (s : State) : Out := issuing (.cpy e) s (fun c => s.cpy c e false)
/-- R222, R230 -/
def execCpyBar (e : Enc) (s : State) : Out := issuing (.cpyBar e) s (fun c => s.cpy c e true)
/-- R224 -/
def execCpyt (e : Enc) (s : State) : Out := issuing (.cpyt e) s (fun c => s.cpyt c e false)
/-- R224, R230 -/
def execCpytBar (e : Enc) (s : State) : Out := issuing (.cpytBar e) s (fun c => s.cpyt c e true)
/-- R225 -/
def execCpys (e : Enc) (s : State) : Out := issuing (.cpys e) s (fun c => s.cpys c e)
/-- R226 -/
def execCbat (e : Enc) (s : State) : Out := issuing (.cbat e) s (fun c => s.cbat c e)
/-- R226 -/
def execCwait (e : Enc) (s : State) : Out := issuing (.cwait e) s (fun c => s.cwait c e)
/-- R226 -/
def execCtest (e : Enc) (s : State) : Out := issuing (.ctest e) s (fun c => s.ctest c e)
/-- R236 -/
def execColr (e : Enc) (s : State) : Out := issuing (.colr e) s (fun c => s.colr c e)

end Sys2Proof.Machine
end

