-- ==== Sys2Proof/Machine/Barrier.lean ====
section
/-! DEFINITION. Arrival barriers (R227 to R232), block barriers and cluster barriers (R233 to R235) at issue. -/

namespace Sys2Proof.Machine

/-- The object of a barrier instruction (R229): its access, and the cause by which it fails. -/
def State.barObject (s : State) (c : Iss) (e : Enc) (k : AccKind) : Option Nat × Option (Loc × PageKind) :=
  let m := c.memHandle e e.b
  let h := c.handle m.1
  let off := c.off e 0
  let sp := if h.space = 2 ∨ h.space = 3 then none else some causeBarrier
  (lowestCause [s.failure c h m.2.1 k 16 ⟨none, noLane, off, 16⟩, sp], s.place c h none off.toNat k.acc)

/-- A barrier update enters IQ(g) (R192, R228). -/
def State.barOp (s : State) (c : Iss) (e : Enc) (more : Option Nat) (op : BarOp) : State :=
  let o := s.barObject c e .atomic
  match lowestCause [o.1, more] with
  | some r => s.stopBlock c (r, noLane) c.own
  | none =>
    let xs := (o.2.map (fun l => (l.1, l.2, IqKind.bar l.1.addr op))).toList
    (s.enterAtoms c c.own xs).finish c e c.eff c.own false

/-- The number in DST of a form that reads it. -/
def Iss.dstWord (c : Iss) (e : Enc) : Word := (c.sa e e.dst .n32).extractLsb' 0 32

/-- BARI (R229, R232). -/
def State.bari (s : State) (c : Iss) (e : Enc) : State :=
  let a := (c.dstWord e).toNat
  s.barOp c e (if a = 0 ∨ 65535 < a then some causeBarrier else none) (.init a)

/-- PHASE of an object, read at P (R229). -/
def State.phaseNow (s : State) (c : Iss) (l : Loc × PageKind) (acq : Option Scope) : Sync :=
  if s.sq.any (fun w => w.gid == c.cur.gid && w.hits l.1.sp (tab 16 (fun i => l.1.addr + i))) then .wait
  else s.readSync c acq (tab 16 (fun i => (⟨l.1.sp, l.1.addr + i⟩, l.2)))

/-- BARW and BARW.t (R229, R230): an acquire at .cls when the phase has moved on. -/
def State.barw (s : State) (c : Iss) (e : Enc) (test : Bool) : State :=
  let o := s.barObject c e .load
  match o.1, o.2 with
  | some r, _ => s.stopBlock c (r, noLane) c.own
  | none, none => s.waitAt c
  | none, some l =>
    match s.phaseNow c l none with
    | .wait => s.waitAt c
    | .poison => s.stopBlock c (causePoison, noLane) c.own
    | .got s' bs =>
      let moved := (barOf (ofBytes bs)).phase != (c.dstWord e).getLsbD 0
      if moved then
        (s'.stale c.cur.gid c.b.core c.tile .cls).finish c e (if test then c.putSca c.eff e.dst false 1 else c.eff) c.own false
      else if test then s'.finish c e (c.putSca c.eff e.dst false 0) c.own false
      else s.waitAt c

/-! Block and cluster barriers -/

/-- Every lane of a group that is not a helper lane has exited (R234). -/
def Group.done (g : Group) : Bool := g.alive &&& ~~~g.helpers == 0

/-- A group has arrived at block barrier n (R234). -/
def Group.arrived (g : Group) (n : Nat) : Bool := g.done || g.alive &&& ~~~Map.get 0 g.barArr n == 0

/-- A group has arrived at its cluster barrier (R235). -/
def Group.clArrived (g : Group) : Bool := g.done || g.alive &&& ~~~g.clArr == 0

/-- A group's arrival is a release at a scope, also where an EXIT completes it (R234, R235). -/
def State.exitDone (s : State) (p : Nat × Group) (sc : Scope) : Bool := s.performed p.1 p.2.exitAt sc false

/-- The phase of block barrier n completes when every group of the block has arrived (R234). -/
def State.settleBar (s : State) (bid n : Nat) : State :=
  let gs := s.groupsOf bid
  if gs.all (fun p => p.2.arrived n && s.exitDone p .blk) && gs.any (fun p => Map.get 0 p.2.barArr n != 0) then
    let s := s.modBlock bid (fun b => { b with bars := Map.put b.bars n (Map.get 0 b.bars n + 1) })
    gs.foldl (fun s p => s.modGroup p.1 (fun g => { g with barArr := Map.put g.barArr n 0 })) s
  else s

/-- A block of the launch cluster that has not ended waits to be placed again, as an image or anew: it has not arrived (R235). -/
def State.clusterAway (s : State) (bid : Nat) : Bool :=
  match Map.find? s.blocks bid with
  | some b =>
    match Map.find? s.launches b.lid with
    | some l => b.child.isNone && (l.images.any (fun i => !i.child && i.bidx / l.clw == b.cluster) ||
        l.redo.any (fun r => r.2.1.isNone && r.1 / l.clw == b.cluster))
    | none => false
  | none => false

/-- The phase of a launch cluster's barrier completes (R235). -/
def State.settleCluster (s : State) (bid : Nat) : State :=
  let bs := s.clusterOf bid
  let gs := (bs.map (fun b => s.groupsOf b)).flatten
  if !s.clusterAway bid && gs.all (fun p => p.2.clArrived && s.exitDone p .cls) && gs.any (fun p => p.2.clArr != 0) then
    let s := bs.foldl (fun s b => s.modBlock b (fun x => { x with clPhase := x.clPhase + 1 })) s
    gs.foldl (fun s p => s.modGroup p.1 (fun g => { g with clArr := 0 })) s
  else s

/-- The arrivals of BARTs whose release is complete join their phase (R234). -/
def State.released (s : State) (bid : Nat) : State :=
  (s.groupsOf bid).foldl (fun s p =>
    let ok := fun (x : Nat × Nat × Mask) => s.performed p.1 x.2.1 .blk false
    s.modGroup p.1 (fun g =>
      { g with barWait := g.barWait.filter (fun x => !ok x)
               barArr := (g.barWait.filter ok).foldl (fun m x => Map.put m x.1 (Map.get 0 m x.1 ||| x.2.2)) g.barArr })) s

/-- Every barrier of a block whose phase is complete. -/
def State.settleAll (s : State) (bid : Nat) : State :=
  ((List.range 16).foldl (fun s n => s.settleBar bid n) (s.released bid)).settleCluster bid

/-- The issuing fragment with its group and block as the state holds them now. -/
def Iss.again (c : Iss) (s : State) : Iss :=
  { c with g := (Map.find? s.groups c.cur.gid).getD c.g, b := (Map.find? s.blocks c.bid).getD c.b }

/-- The number a parked fragment holds for the cluster barrier. -/
def clusterBar : Nat := 16

/-- A parked fragment whose phase has completed (R234, R235). -/
def State.unparked (s : State) (c : Iss) : Bool :=
  match c.f.park, Map.find? s.blocks c.bid with
  | some (n, p), some b => (if n = clusterBar then b.clPhase else Map.get 0 b.bars n) != p
  | _, _ => false

/-- The barrier number of BART and BSYNC (R233). -/
def Iss.barNo (c : Iss) (e : Enc) : Nat := (c.sa e e.a .n32).toNat % 2 ^ 32

/-- A parked fragment goes on; its instruction counts now (R63, R234). -/
def State.unpark (s : State) (c : Iss) (e : Enc) (acq : Scope) : State :=
  let s := s.stale c.cur.gid c.b.core c.tile acq
  let g := c.g.modFrag c.cur.ent (fun f => { f with park := none })
  s.finish { c with g := g } e ⟨g, 0⟩ c.own false

/-- An arrival: its lanes are recorded, and the fragment parks or goes on. -/
def State.arriveAt (s : State) (c : Iss) (e : Enc) (n phase : Nat) (rec : Group → Group) (park : Bool) : State :=
  let g := rec c.g
  if park then
    let s := s.setGroup c.cur.gid (g.modFrag c.cur.ent (fun f =>
      { f with park := some (n, phase), st := if f.st = .ready then .waiting else f.st }))
    s.settleAll c.bid
  else (s.finish { c with g := g } e ⟨g, 0⟩ c.own false).settleAll c.bid

/-- The lanes that stand in the current phase of block barrier n, those of a BART whose release is not complete included. -/
def Group.standing (g : Group) (n : Nat) : Mask :=
  (g.barWait.filter (fun x => x.1 == n)).foldl (fun m x => m ||| x.2.2) (Map.get 0 g.barArr n)

/-- BART and BSYNC (R233, R234), held while lanes of the fragment stand in the current phase. The arrival is a release at .blk: a
BSYNC waits for it, and a BART goes on, its arrival counting once the accesses before it are performed. -/
def State.blockBar (s : State) (c : Iss) (e : Enc) (park : Bool) : State :=
  let s := s.settleAll c.bid
  let c := c.again s
  if c.f.park.isSome then
    if s.unparked c then s.unpark c e .blk else s.waitAt c
  else
    let n := c.barNo e
    if c.l.desc.bars ≤ n then s.stopBlock c (causeBarrier, noLane) c.own
    else
      let arr := Map.get 0 c.g.barArr n
      if c.g.standing n &&& c.f.act ≠ 0 || (park && !s.performed c.cur.gid s.seq .blk false) then s
      else if park then
        s.arriveAt c e n (Map.get 0 c.b.bars n) (fun g => { g with barArr := Map.put g.barArr n (arr ||| c.f.act) }) true
      else s.arriveAt c e n (Map.get 0 c.b.bars n) (fun g => { g with barWait := g.barWait ++ [(n, s.seq, c.f.act)] }) false

/-- Acts at every fragment of a block with the instruction it stands at. -/
def State.atEach (s : State) (bid : Nat) (act : State → Iss → Instr → State) : State :=
  let all := (s.groupsOf bid).flatMap (fun p => p.2.table.map (fun q => (⟨p.1, q.1⟩ : Cursor)))
  all.foldl (fun s cur =>
    match { s with cur := cur }.issuer? with
    | none => s
    | some c => match decodeUnits (s.unitsFrom c c.f.hnd 3 c.f.pc).1 with
      | .ok (i, _) => act s c i
      | .error _ => s) s

/-- Before a block's image is written, every fragment parked at a barrier whose phase is complete goes on past it (R234, R239). -/
def State.passParked (s : State) (bid : Nat) : State :=
  (s.settleAll bid).atEach bid (fun s c i =>
    if !s.unparked c then s
    else match i with
      | .bsync e => s.unpark c e .blk
      | .clsync e => s.unpark c e .cls
      | _ => s)

/-- A fragment that an image restores at a BSYNC with all its lanes in the saved arrival waited there: it is parked again in the phase in
which they stand (R239). -/
def State.repark (s : State) (bid : Nat) : State :=
  s.atEach bid (fun s c i => match i with
    | .bsync e =>
      let n := c.barNo e
      if (c.f.st == .waiting || c.f.st == .handler) && decide (n < c.l.desc.bars) && c.f.act &&& ~~~Map.get 0 c.g.barArr n == 0 then
        s.modFrag c.cur (fun f => { f with park := some (n, Map.get 0 c.b.bars n) })
      else s
    | _ => s)

/-- CLSYNC (R235): a release at .cls, and an acquire at .cls when it returns. -/
def State.clsync (s : State) (c : Iss) (e : Enc) : State :=
  let s := s.settleAll c.bid
  let c := c.again s
  if c.f.park.isSome then
    if s.unparked c then s.unpark c e .cls else s.waitAt c
  else if c.g.clArr &&& c.f.act ≠ 0 || !s.performed c.cur.gid s.seq .cls false then s
  else s.arriveAt c e clusterBar c.b.clPhase (fun g => { g with clArr := g.clArr ||| c.f.act }) true

/-- R229, R232 -/
def execBari (e : Enc) (s : State) : Out := issuing (.bari e) s (fun c => s.bari c e)
/-- R229 -/
def execBarx (e : Enc) (s : State) : Out :=
  issuing (.barx e) s (fun c => s.barOp c e none (.update 0 (c.dstWord e) none))
/-- R229 -/
def execBara (e : Enc) (s : State) : Out :=
  issuing (.bara e) s (fun c => s.barOp c e none (.update 1 0 (some (e.dst.toNat - 0x40))))
/-- R229 -/
def execBaraX (e : Enc) (s : State) : Out :=
  issuing (.baraX e) s (fun c => s.barOp c e none (.update 1 (c.dstWord e) (some (e.dst.toNat - 0x40))))
/-- R229 -/
def execBarw (e : Enc) (s : State) : Out := issuing (.barw e) s (fun c => s.barw c e false)
/-- R229 -/
def execBarwT (e : Enc) (s : State) : Out := issuing (.barwT e) s (fun c => s.barw c e true)
/-- R234 -/
def execBart (e : Enc) (s : State) : Out := issuing (.bart e) s (fun c => s.blockBar c e false)
/-- R234 -/
def execBsync (e : Enc) (s : State) : Out := issuing (.bsync e) s (fun c => s.blockBar c e true)
/-- R235 -/
def execClsync (e : Enc) (s : State) : Out := issuing (.clsync e) s (fun c => s.clsync c e)

end Sys2Proof.Machine
end

