-- ==== Sys2Proof/Machine/Control.lean ====
section
/-! DEFINITION. The control instructions (R255 to R264), EXLW and EXLW2 (R265 to R270). -/

namespace Sys2Proof.Machine

/-- The address of the base word: offsets count from it (R90). -/
def Iss.origin (c : Iss) (e : Enc) : Nat := c.f.pc + (if e.pfx.isSome then 4 else 0)

/-- A target given by an offset in units (R90). -/
def Iss.dest (c : Iss) (e : Enc) (off : Int) : Int := (c.origin e : Int) + 4 * off

/-- The reason a transfer target gives, if its header fails (R88, R94). -/
def Found.reason : Found → Option Nat
  | .bad r => some r
  | _ => none

/-- A transfer, checked before it has any other effect (R90, R255): TARGET may lie below the reasons of the word; code that cannot
be read ends the block. `eff` acts on a target that is sound. -/
def State.transfer (s : State) (c : Iss) (i : Instr) (addr : Int) (found : Found) (eff : State) : State :=
  match s.reason c i found.reason with
  | some r => s.takeTrap c (mkTrap c.f 1 r c.own (if found.reason = some r then addr.toNat else 0))
  | none =>
    match found with
    | .stop cause => s.stopBlock c (cause, noLane) c.own
    | _ => eff

/-- What a target operand finds: the header it names or, when the operand's code names no address (`ok` false), nothing, so that the
word's own reason stands (R255). -/
def Found.when (ok : Bool) (f : Found) : Found := if ok then f else .stop causeHandle

/-- The instruction counts in the fragment's lanes and its table changes are made (R63, R252). -/
def State.ctl (s : State) (c : Iss) (g : Group) (ms : List Move) : State :=
  (s.setGroup c.cur.gid (g.count c.own)).moves c ms

/-- The fragment enters a block of a handle. -/
def State.goTo (s : State) (c : Iss) (g : Group) (hnd : Nat) (addr : Nat) : State :=
  s.ctl c (g.modFrag c.cur.ent (fun f => { f with hnd := hnd })) [.enter c.cur.ent addr true]

/-- A form that only passes to the next unit. -/
def State.pass (s : State) (c : Iss) (e : Enc) : State := s.finish c e c.eff c.own false

/-- The offset of BR and BRV (R90). -/
def Iss.brTarget (c : Iss) (e : Enc) : Int := c.dest e e.off14.toInt

/-- BR (R258). The target is checked whether or not the branch is taken (DEDUCED from R255, assumption 15). -/
def execBr (i : Instr) (e : Enc) (s : State) (taken : Word → Bool) : Out :=
  match s.issuer? with
  | none => .fault .noIssuer
  | some c =>
    let t := c.brTarget e
    .next (s.transfer c i t (s.header c c.f.hnd t true)
      (if taken ((c.sa e e.b .n32).extractLsb' 0 32) then s.goTo c c.g c.f.hnd t.toNat else s.pass c e))

/-- The header of the block a fragment is in. -/
def State.ownHeader (s : State) (c : Iss) : Option Header :=
  match s.unitAt c c.f.hnd c.f.blk, s.unitAt c c.f.hnd (c.f.blk + 4 : Nat) with
  | .ok w0, .ok w1 => some (headerOf w0 w1)
  | _, _ => none

/-- The fusion point of the fragment's block, when a split may use it (R90). -/
def State.fusionPoint (s : State) (c : Iss) : Option Nat :=
  match s.ownHeader c with
  | none => none
  | some h =>
    let f : Int := (c.f.blk : Int) + 4 * h.foff
    if h.foff = 0 ∨ h.foff % 2 ≠ 0 then none
    else match s.unitAt c c.f.hnd f with
      | .ok w => if opField w = 0x1FE ∧ w.getLsbD 1 then some f.toNat else none
      | .error _ => none

/-- The reason of a split: TARGET, those of its word, FUSION, then the later ones (R94). -/
def State.splitReason (s : State) (c : Iss) (i : Instr) (low : Option Nat) (fusion : Bool) : Option Nat :=
  match s.reason c i low with
  | some r => if 11 < r ∧ !fusion then some 11 else some r
  | none => if fusion then none else some 11

/-- Free entries of a split table, lowest first (R246), and free deferral records (R247). -/
def Group.freeEntries (g : Group) : List Nat :=
  (List.range 16).filter (fun e => match g.entry e with | .free => true | _ => false)
def Group.freeDefers (g : Group) : Nat := 16 - g.defer.length

/-- Whether a split at fusion point f reuses the enclosing record (R259): then that record's entry. -/
def Iss.reuse (c : Iss) (f : Nat) : Option Nat :=
  match c.f.fe with
  | some r =>
    match c.g.entry r with
    | .fusion x => if x.hnd = c.f.hnd ∧ x.fpc = f ∧ (c.g.topDefer c.cur.ent).isNone then some r else none
    | _ => none
  | none => none

/-- A new fragment of the issuing fragment's code, at an address of its block. -/
def Iss.frag (c : Iss) (act : Mask) (pc : Nat) (fe : Option Nat) (now : Nat) : Frag := newFrag c.f.hnd pc c.f.blk act fe now

/-- The issuing fragment's new set of lanes. -/
def Group.setAct (g : Group) (ent : Nat) (m : Mask) : Group := g.modFrag ent (fun f => { f with act := m })

/-- A fall-through entry, when the address is the end of the fragment's block. -/
def State.fallMove (s : State) (c : Iss) (ent pc : Nat) : List Move :=
  if s.blockEnd c c.f = some pc then [.enter ent pc false] else []

/-- The split of BRV (R259). -/
def State.split (s : State) (c : Iss) (e : Enc) (f target : Nat) : State :=
  let T := c.f.act &&& c.k e.b.toNat
  let U := c.f.act &&& ~~~c.k e.b.toNat
  let i := c.cur.ent
  let ft := c.f.pc + 4 * e.units
  if U = 0 then s.goTo c c.g c.f.hnd target
  else if T = 0 then s.pass c e
  else
    let g := c.g
    let free := g.freeEntries
    match c.reuse f, free with
    | some r, e1 :: _ =>
      let g := (g.setAct i T).setEntry e1 (.frag (c.frag U ft (some r) s.seq))
      s.ctl c g (.enter i target true :: s.fallMove c e1 ft)
    | none, e1 :: e2 :: _ =>
      let g := ((g.setEntry i (.fusion ⟨c.f.hnd, f, c.f.act, 0, c.f.fe⟩)).setEntry e1 (.frag (c.frag T ft (some i) s.seq))).setEntry
        e2 (.frag (c.frag U ft (some i) s.seq))
      s.ctl c g (.enter e1 target true :: s.fallMove c e2 ft)
    | _, _ =>
      if g.freeDefers = 0 then s.stopBlock c (causeDivergence, noLane) c.own
      else
        let g := { g with defer := g.defer ++ [(⟨i, c.f.hnd, f, ft, c.f.blk, U, 0⟩ : Defer)] }
        s.ctl c (g.setAct i T) [.enter i target true]

/-- BRV (R259). -/
def execBrv (e : Enc) (s : State) : Out :=
  match s.issuer? with
  | none => .fault .noIssuer
  | some c =>
    let t := c.brTarget e
    let found := s.header c c.f.hnd t true
    let fp := s.fusionPoint c
    match s.splitReason c (.brv e) found.reason fp.isSome with
    | some r => .next (s.takeTrap c (mkTrap c.f 1 r c.own (if found.reason = some r then t.toNat else 0)))
    | none =>
      match found with
      | .stop cause => .next (s.stopBlock c (cause, noLane) c.own)
      | _ => .next (s.split c e (fp.getD 0) t.toNat)

/-- One way of a BRX: its target header, its lanes and the least index among them (R260). -/
structure Way where
  target : Int
  lanes  : Mask
  least  : Nat
  deriving DecidableEq, Repr

/-- A table as BRX finds it: the fusion header word 0 names, when that word can be read, the ways in order, the lanes out of range,
and why a word could not be read. -/
structure Table where
  fusion : Option Int
  ways   : List Way
  out    : Mask
  err    : Option CodeErr
  deriving DecidableEq, Repr

/-- The signed offset of a table word (R50). Bits [11:0] of the words after word 0 are ignored (DESIGN CHOICE, assumption 48). -/
def tabOff (w : Word) : Int := (w.extractLsb' 12 20).toInt

/-- Adds a lane to the way of its target. -/
def addWay (ws : List Way) (t : Int) (L idx : Nat) : List Way :=
  match ws with
  | [] => [⟨t, 1#96 <<< L, idx⟩]
  | w :: ws => if w.target = t then ⟨t, w.lanes ||| (1#96 <<< L), min w.least idx⟩ :: ws else w :: addWay ws t L idx

/-- Ways in ascending order of least index. -/
def insWay (w : Way) : List Way → List Way
  | [] => [w]
  | v :: vs => if w.least < v.least then w :: v :: vs else v :: insWay w vs

/-- A lane looks its index up in a table of n words at t (R260). -/
def State.lookUp (s : State) (c : Iss) (e : Enc) (t : Int) (n : Nat) (acc : Table) (L : Nat) : Table :=
  let idx := (c.g.vGet e.a.toNat L).toNat
  if n ≤ idx then { acc with out := acc.out ||| (1#96 <<< L) }
  else match s.unitAt c c.f.hnd (t + 4 * (1 + (idx : Int))) with
    | .error r => { acc with err := acc.err <|> some r }
    | .ok w => { acc with ways := addWay acc.ways (t + 4 * tabOff w) L idx }

/-- Reads the table of a BRX for the fragment's lanes (R260). Its alignment beyond that of a unit is not checked (DESIGN CHOICE,
assumption 48). -/
def State.table (s : State) (c : Iss) (e : Enc) : Table :=
  let t := c.dest e (e.lit.getD 0).toInt
  match s.unitAt c c.f.hnd t with
  | .error r => ⟨none, [], 0, some r⟩
  | .ok w0 =>
    let r := (lanesOf c.f.act).foldl (s.lookUp c e t (w0.extractLsb' 0 12).toNat) ⟨some (t + 4 * tabOff w0), [], 0, none⟩
    { r with ways := r.ways.foldl (fun acc w => insWay w acc) [] }

/-- The split of BRX (R260). -/
def State.splitWays (s : State) (c : Iss) (f : Nat) (ways : List Way) (out : Mask) : State :=
  let i := c.cur.ent
  let g := c.g
  let free := g.freeEntries
  let k := ways.length
  match ways with
  | [] => s.goTo c g c.f.hnd f
  | w1 :: rest =>
    if rest = [] ∧ out = 0 then s.goTo c g c.f.hnd w1.target.toNat
    else
      let place := fun (g : Group) (fe : Nat) (es : List (Nat × Way)) =>
        es.foldl (fun (g : Group) p => g.setEntry p.1 (.frag (c.frag p.2.lanes p.2.target.toNat (some fe) s.seq))) g
      let enters := fun (es : List (Nat × Way)) => es.map (fun p => Move.enter p.1 p.2.target.toNat true)
      let reuse := match c.reuse f with
        | some r => if k - 1 ≤ free.length then some r else none
        | none => none
      match reuse with
      | some r =>
        let es := free.zip rest
        let g := place (g.setAct i w1.lanes) r es
        let g := match g.entry r with
          | .fusion x => g.setEntry r (.fusion { x with arr := x.arr ||| out })
          | _ => g
        s.ctl c g (.enter i w1.target.toNat true :: enters es)
      | none =>
        if k ≤ free.length then
          let es := free.zip ways
          let g := place (g.setEntry i (.fusion ⟨c.f.hnd, f, c.f.act, out, c.f.fe⟩)) i es
          s.ctl c g (enters es)
        else if max (k - 1) 1 ≤ g.freeDefers then
          let recs : List Defer :=
            if rest = [] then [⟨i, c.f.hnd, f, w1.target.toNat, w1.target.toNat, 0, out⟩]
            else rest.reverse.mapIdx (fun j w =>
              ⟨i, c.f.hnd, f, w.target.toNat, w.target.toNat, w.lanes, if j = 0 then out else 0⟩)
          s.ctl c ({ g with defer := g.defer ++ recs }.setAct i w1.lanes) [.enter i w1.target.toNat true]
        else s.stopBlock c (causeDivergence, noLane) c.own

/-- BRX (R260). The reasons of its word, its targets and its fusion point come before the cause of a table word or a target that
cannot be read (R90; DEDUCED, assumption 12). -/
def execBrx (e : Enc) (s : State) : Out :=
  match s.issuer? with
  | none => .fault .noIssuer
  | some c =>
    let fp := s.fusionPoint c
    let t : Table := if e.lit.isSome && FieldKind.vreg.admits e.a then s.table c e else ⟨fp.map (fun f => (f : Int)), [], 0, none⟩
    let found := t.ways.map (fun w => (w.target, s.header c c.f.hnd w.target true))
    let bad := found.find? (fun p => p.2.reason.isSome)
    let same := match fp, t.fusion with
      | some f, some x => decide ((f : Int) = x)
      | some _, none => true
      | none, _ => false
    match s.splitReason c (.brx e) (bad.bind (fun p => p.2.reason)) same with
    | some r =>
      .next (s.takeTrap c (mkTrap c.f 1 r c.own (match bad with
        | some p => if p.2.reason = some r then p.1.toNat else 0
        | none => 0)))
    | none =>
      match (t.err.map CodeErr.cause) <|> found.findSome? (fun p => match p.2 with | .stop cause => some cause | _ => none) with
      | some cause => .next (s.stopBlock c (cause, noLane) c.own)
      | none => .next (s.splitWays c (fp.getD 0) t.ways t.out)

/-- The target of JMP and CALL (R256): handle and byte offset. -/
def Iss.jumpTo (c : Iss) (e : Enc) : Nat × Int :=
  if e.b = 0x7F then (c.f.hnd, c.dest e (e.lit.getD 0).toInt)
  else let w := (c.sa e e.b .n32).extractLsb' 0 32; (codeHnd w, (codeOff w : Int))

/-- What the target of JMP and CALL finds. -/
def State.jumpFound (s : State) (c : Iss) (e : Enc) : Found :=
  let t := c.jumpTo e
  (s.header c t.1 t.2 true).when (e.b == 0x7F || FieldKind.sreg.admits e.b)

/-- JMP (R261). -/
def execJump (i : Instr) (e : Enc) (s : State) : Out :=
  match s.issuer? with
  | none => .fault .noIssuer
  | some c =>
    let t := c.jumpTo e
    .next (s.transfer c i t.2 (s.jumpFound c e) (s.goTo c c.g t.1 t.2.toNat))

/-- The return point of a CALL: the first 8-byte-aligned address after it (R261). -/
def Iss.returnTo (c : Iss) (e : Enc) : Nat := (c.f.pc + 4 * e.units + 7) / 8 * 8

/-- CALL (R261). -/
def execCallTo (i : Instr) (e : Enc) (s : State) : Out :=
  match s.issuer? with
  | none => .fault .noIssuer
  | some c =>
    let t := c.jumpTo e
    let ret := c.returnTo e
    let found := s.jumpFound c e
    let far := decide (2 ^ 27 ≤ ret)
    let bad := far && found.reason.isNone
    let x := c.putVec e c.eff false c.own ((lanesOf c.own).map (fun L => (L, (codeAddr c.f.hnd ret).zeroExtend 64)))
    .next (s.transfer c i (if bad then ret else t.2) (if bad then .bad 2 else found) (s.goTo c x.g t.1 t.2.toNat))

/-- The return address of a RET (R262) and the lanes of Contrib that hold another. -/
def Iss.retTo (c : Iss) (e : Enc) : Word × List Nat :=
  let val := fun (L : Nat) => c.g.vGet e.a.toNat L
  let ls := lanesOf (c.contrib c.own)
  let w := match ls.head? with
    | some L => val L
    | none => match lowLane? c.own with
      | some L => val L
      | none => 0
  (w, ls.filter (fun L => val L != w))

/-- What the return address of a RET finds. -/
def State.retFound (s : State) (c : Iss) (e : Enc) : Found :=
  let w := (c.retTo e).1
  (s.header c (codeHnd w) (codeOff w) true).when (FieldKind.vreg.admits e.a)

/-- RET (R262). -/
def execRet (e : Enc) (s : State) : Out :=
  match s.issuer? with
  | none => .fault .noIssuer
  | some c =>
    let t := c.retTo e
    if t.2.isEmpty then
      .next (s.transfer c (.ret e) (codeOff t.1) (s.retFound c e) (s.goTo c c.g (codeHnd t.1) (codeOff t.1)))
    else
      match s.reason c (.ret e) none with
      | some r => .next (s.illegal c (.ret e) r)
      | none => .next (s.takeTrap c (mkTrap c.f 5 0 (maskOf (fun L => t.2.contains L)) 0))

/-- A fragment in STATE 2 with no trap of its own, as an image restores it, tries its instruction again, or the lane word of the
latched list (R380; DEDUCED, assumption 16). -/
def Group.retry (g : Group) : Group :=
  { g with table := g.table.map (fun p => match p.2 with
      | .frag f =>
        if f.st = .pending ∧ f.trap.isNone then
          let own := !g.trap.latch.isEmpty && g.trap.pc.toNat == f.pc
          (p.1, .frag { f with
            st := .ready, latch := if own then g.trap.latch else [], latchAt := if own then g.trap.word.toNat else 0 })
        else p
      | _ => p) }

/-- The trap state of a fragment ends: the next pending trap of the group is delivered (R375, R377), and what an image restored in
STATE 2 goes on; what a fault has put back goes on when its block resumes (R369). -/
def State.nextTrap (s : State) (gid : Nat) : State :=
  match Map.find? s.groups gid with
  | none => s
  | some g =>
    if g.handling then s
    else
      let going := match Map.find? s.blocks (gid / 32) with
        | some b => !b.stopping
        | none => true
      let s := if going then s.setGroup gid g.retry else s
      match g.table.findSome? (fun p => match p.2 with
        | .frag f => if f.st = .pending then f.trap.map (fun r => (p.1, r)) else none
        | _ => none) with
      | none => s
      | some (ent, r) =>
        match { s with cur := ⟨gid, ent⟩ }.issuer? with
        | some c => s.deliver c r
        | none => s

/-- EXIT (R250, R263, R373). -/
def State.exitLanes (s : State) (c : Iss) : State :=
  let g := { ((c.g.count c.own).gone c.f.act).setAct c.cur.ent 0 with exitAt := s.seq }
  let s := (s.setGroup c.cur.gid g).moves c [.arrive c.cur.ent 0]
  if c.f.st = .handler then s.nextTrap c.cur.gid else s

/-! EXLW -/

/-- The rows of R266 an opcode may match, with the condition of the row. -/
def laneClass (op : Nat) (e : Enc) : Bool :=
  let dst := e.dst.toNat < 0x40 || e.dst == 0x60
  let a := e.a.toNat < 0x40
  if (0x060 ≤ op && op ≤ 0x073) || (0x07A ≤ op && op ≤ 0x082) then dst
  else if (0x0E0 ≤ op && op ≤ 0x0E5) || (0x0EE ≤ op && op ≤ 0x0FE) || op == 0x100 then dst
  else if (0x170 ≤ op && op ≤ 0x173) || op == 0x178 || (0x179 ≤ op && op ≤ 0x181) then a
  else false

/-- A lane word as an instruction (R265): its prefix, if it has one, and its base word. -/
def laneInstr (w : DWord) (wide : Bool) : Instr :=
  let lo : Word := w.extractLsb' 0 32
  let hi : Word := w.extractLsb' 32 32
  let base := if wide then hi else lo
  ofOpcode (opField base) { fieldsOf base with pfx := if wide then some (prefixOf lo) else none }

/-- The value a WRSR writes. -/
def Iss.wrsrArg (c : Iss) (e : Enc) : Word := (c.sa e e.dst .n32).extractLsb' 0 32

/-- Whether a WRSR is forbidden by the register's table (R9, R18, R67, R163, R254, R309, R370). -/
def Iss.forbidden (c : Iss) (e : Enc) : Bool :=
  match e.imm14.toNat with
  | 0x010 => false
  | 0x011 => decide (6 ≤ ((c.wrsrArg e).extractLsb' 0 3).toNat)
  | 0x031 => !c.g.handling
  | _ => true

/-- What the entry of a FORK finds (R298). -/
def State.forkFound (s : State) (c : Iss) (e : Enc) : Found :=
  let w := c.s (e.a.toNat - 0x40)
  (s.header c (codeHnd w) (codeOff w) true).when (FieldKind.run.admits e.a)

/-- The reasons that an instruction's own entry finds where it stands, beside those of its word: TARGET, FUSION, SYSREG. The target of a
lane word that is a branch or a CALL is measured from the address of the EXLW, which the spec leaves open (DESIGN CHOICE, assumption
12). -/
def State.entryReasons (s : State) (c : Iss) (i : Instr) : List Nat :=
  match i with
  | .brZ e | .brNz e => (s.header c c.f.hnd (c.brTarget e) true).reason.toList
  | .brv e => (s.header c c.f.hnd (c.brTarget e) true).reason.toList ++ if (s.fusionPoint c).isSome then [] else [11]
  | .jmpIndirect e => (s.jumpFound c e).reason.toList
  | .call e => if 2 ^ 27 ≤ c.returnTo e then [2] else []
  | .callIndirect e => (s.jumpFound c e).reason.toList ++ if 2 ^ 27 ≤ c.returnTo e then [2] else []
  | .ret e => (s.retFound c e).reason.toList
  | .fork e => (s.forkFound c e).reason.toList
  | .wrsr e => if c.forbidden e then [14] else []
  | _ => []

/-- Whether the prefix of an EXLW2's lane word is ill-formed: not 0x1FF in [31:23], or not legal before its base word by R85. -/
def illPrefix (lo base : Word) : Bool :=
  let op := opField base
  let e := { fieldsOf base with pfx := some (prefixOf lo) }
  opField lo != 0x1FF || !takesPrefix op.toNat ||
    (List.range 4).any (fun v => staticReason (ofOpcode op { e with var := BitVec.ofNat 2 v }) == some 6)

/-- Why a lane word is illegal (R266, R267): the lowest reason. An ill-formed prefix of a wide word gives PREFIX, and 0x7F in a field that
would call for a literal LITERAL (R78, R83). -/
def State.laneReason (s : State) (c : Iss) (w : DWord) (wide : Bool) : Option Nat :=
  let lo : Word := w.extractLsb' 0 32
  let hi : Word := w.extractLsb' 32 32
  let base := if wide then hi else lo
  let e := { fieldsOf base with pfx := if wide then some (prefixOf lo) else none }
  if wide && illPrefix lo base then some 6
  else if opField base = 0x1FE then some 1
  else if opField base = 0x1FF then some 6
  else
    let i := laneInstr w wide
    ((s.reason c i none).toList ++ s.entryReasons c i
      ++ (if takesLiteral (opField base) e then [10] else [])
      ++ (if laneClass (opField base).toNat e then [] else [15])).min?

/-- The word a lane holds. -/
def Iss.laneWord (c : Iss) (e : Enc) (wide : Bool) (L : Nat) : DWord :=
  if wide then c.g.vGet (e.a.toNat + 1) L ++ c.g.vGet e.a.toNat L else (c.g.vGet e.a.toNat L).zeroExtend 64

/-- Adds a lane's word to the list, ascending by value (R268). -/
def addWord (wide : Bool) (w : DWord) (L : Nat) : List LaneWord → List LaneWord
  | [] => [⟨w, wide, 1#96 <<< L⟩]
  | x :: xs =>
    if w.toNat < x.value.toNat then ⟨w, wide, 1#96 <<< L⟩ :: x :: xs
    else if w = x.value then { x with lanes := x.lanes ||| (1#96 <<< L) } :: xs
    else x :: addWord wide w L xs

/-- EXLW and EXLW2 (R265 to R268): the trap of illegal words, or the legal words latched; each issues in a step of its own. -/
def State.exlw (s : State) (c : Iss) (e : Enc) (wide : Bool) : State :=
  let ls := lanesOf c.own
  let rs := ls.map (fun L => (L, s.laneReason c (c.laneWord e wide L) wide))
  let bad := rs.filter (fun p => p.2.isSome && bitOf c.real p.1)
  match (bad.filterMap Prod.snd).min? with
  | some r => s.takeTrap c (mkTrap c.f 2 r (maskOf (fun L => bad.any (fun p => p.1 == L))) 0)
  | none =>
    let words := (rs.filter (fun p => p.2.isNone)).foldl (fun ws p => addWord wide (c.laneWord e wide p.1) p.1 ws) []
    if words.isEmpty then s.pass c e
    else (s.setGroup c.cur.gid (c.g.count c.own)).modFrag c.cur (fun f => { f with latch := words, latchAt := 0 })

/-! The control instructions -/

/-- R264 -/
def execNop (e : Enc) (s : State) : Out := issuing (.nop e) s (fun c => s.pass c e)
/-- R258 -/
def execBrZ (e : Enc) (s : State) : Out := execBr (.brZ e) e s (fun w => w == 0)
/-- R258 -/
def execBrNz (e : Enc) (s : State) : Out := execBr (.brNz e) e s (fun w => w != 0)
/-- R261 -/
def execJmp (e : Enc) (s : State) : Out := execJump (.jmp e) e s
/-- R261 -/
def execJmpIndirect (e : Enc) (s : State) : Out := execJump (.jmpIndirect e) e s
/-- R261 -/
def execCall (e : Enc) (s : State) : Out := execCallTo (.call e) e s
/-- R261 -/
def execCallIndirect (e : Enc) (s : State) : Out := execCallTo (.callIndirect e) e s
/-- R250, R263 -/
def execExit (e : Enc) (s : State) : Out := issuing (.exit e) s (fun c => s.exitLanes c)
/-- R264: the last candidate of its sector for 64 cycles. -/
def execYield (e : Enc) (s : State) : Out := issuing (.yield e) s (fun c => s.pass { c with g := c.g.modFrag c.cur.ent (fun f => { f with yielded := true, yieldAt := s.seq }) } e)
/-- R265 to R268 -/
def execExlw (e : Enc) (s : State) : Out := issuing (.exlw e) s (fun c => s.exlw c e false)
/-- R265 to R268 -/
def execExlw2 (e : Enc) (s : State) : Out := issuing (.exlw2 e) s (fun c => s.exlw c e true)

end Sys2Proof.Machine
end

