-- ==== Sys2Proof/Machine/Ring.lean ====
section
/-! DEFINITION. What the module itself writes to memory and tells the host: writes at home (R208, R278), the event ring (R359, R410),
the error registers and the error log (R353, R389), and MSI-X vectors. -/

namespace Sys2Proof.Machine

/-- The tile number of a party on the I/O die: the host, the sage pair and the worker cores (R15). -/
def ioDie : Nat := 8

/-- Global bytes written at home in one step by a party of tile `src` (R208): dirty guests are written back first. Bytes at
unpopulated addresses are discarded (R350), those whose home does not answer are held until it does (R384, R385). -/
def State.store (s : State) (src : Nat) (bs : List (Nat × Byte)) : State :=
  let all := bs.filter (fun b => s.populated b.1 1)
  let bs := all.filter (fun b => s.answers ⟨.glob, b.1⟩)
  let s := (all.filter (fun b => !s.answers ⟨.glob, b.1⟩)).foldl (fun s b =>
    let t := s.homeTile b.1
    s.setTile t { s.tileRec t with held := (s.tileRec t).held ++ [b] }) s
  let s := ((bs.map (fun b => lineOf b.1)).eraseDups).foldl (fun s l => s.cleanBut none l) s
  let s := bs.foldl (fun s b => s.putAt src ⟨.glob, b.1⟩ b.2) s
  if bs.isEmpty then s else s.join true (bs.map Prod.fst) []

/-- Bytes as (address, byte) pairs from an address on. -/
def bytesFrom (pa : Nat) (bs : List Byte) : List (Nat × Byte) := bs.mapIdx (fun i b => (pa + i, b))

/-- Every home of some global bytes answers (R385): a write to them is performed at once. Bytes that no memory backs have none. -/
def State.homesUp (s : State) (pa n : Nat) : Bool :=
  (List.range n).all (fun i => !s.populated (pa + i) 1 || s.answers ⟨.glob, pa + i⟩)

/-- A number of n bytes written at home, little-endian. -/
def State.storeNum (s : State) (src pa n x : Nat) : State := s.store src (bytesFrom pa (toBytes n x))

def State.setRegs (s : State) (f : Regs → Regs) : State := { s with regs := f s.regs }
def State.setQueue (s : State) (q : Nat) (x : Queue) : State := { s with queues := Map.put s.queues q x }
def State.setCtx (s : State) (n : Nat) (x : Ctx) : State := { s with ctxs := Map.put s.ctxs n x }
def State.setCore (s : State) (n : Nat) (x : Core) : State := { s with cores := Map.put s.cores n x }
def State.setColumn (s : State) (n : Nat) (x : Column) : State := { s with columns := Map.put s.columns n x }

/-- An MSI-X vector is sent (R349). -/
def State.sendMsix (s : State) (v : Nat) : State := { s with msix := s.msix ++ [v] }

/-- A record of the error log (R389): clock, source, code, detail; the last 256 are held. The codes are the bit numbers of ERR.STAT,
and 6 for a poisoned line (DESIGN CHOICE, assumption 18). -/
def State.logError (s : State) (source code detail : Nat) : State :=
  let rec_ := toBytes 8 s.clk ++ toBytes 4 source ++ toBytes 4 code ++ toBytes 16 detail
  let l := s.regs.elog ++ [rec_]
  s.setRegs (fun r => { r with elog := l.drop (l.length - 256), elogTail := (r.elogTail + 1) % 2 ^ 32 })

/-- A bit of ERR.STAT is set: the event is logged and vector 0 is sent (R353, R389). -/
def State.raiseErr (s : State) (bit source detail : Nat) : State :=
  ((s.setRegs (fun r => match bit with
    | 0 => { r with sageErr := true }
    | 2 => { r with derateErr := true }
    | 3 => { r with tileErr := true }
    | 4 => { r with coreErr := true }
    | _ => { r with hostwErr := true })).logError source bit detail).sendMsix 0

/-- WQ.ERR records a code, which is an event of ERR.STAT.RING in the error log, and vector 0 is sent (R353, R389). -/
def State.queueErr (s : State) (q code : Nat) : State :=
  ((s.setQueue q { s.queue q with errSet := true, errCode := code }).logError ioDie 1 q).sendMsix 0

/-! The event ring -/

/-- Records the ring may hold (R359). -/
def Regs.ringRoom (r : Regs) : Bool := decide ((r.evTail - r.evHead).toNat < 2 ^ r.evLog2)

/-- Where the next record of the ring lies. -/
def Regs.ringNext (r : Regs) : Nat := r.evBase + 64 * (r.evTail.toNat % 2 ^ r.evLog2)

/-- A record is written as a release at .sys, TAIL is advanced and vector 1 is sent (R359). -/
def State.ringPut (s : State) (rec_ : List Byte) : State :=
  ((s.store ioDie (bytesFrom s.regs.ringNext rec_)).setRegs (fun r => { r with evTail := r.evTail + 1 })).sendMsix 1

/-- The next record can be written: the ring has room and its memory answers (R359, R385). -/
def State.ringReady (s : State) : Bool := s.regs.ringRoom && s.homesUp s.regs.ringNext 64

/-- Records that waited are written, oldest first. -/
def ringFlush (s : State) : List (List Byte) → State
  | [] => s.setRegs (fun r => { r with evWait := [] })
  | x :: xs => if s.ringReady then ringFlush (s.ringPut x) xs else s.setRegs (fun r => { r with evWait := x :: xs })

/-- An event's record (R359). -/
def eventRecord (seq : Word) (duty ctx : Nat) (note : Bool) (tag : Word) (arg0 arg1 : Nat) : List Byte :=
  toBytes 64 (seq.toNat + duty * 2 ^ 32 + ctx % 4096 * 2 ^ 40 + (if note then 2 ^ 52 else 0) + tag.toNat * 2 ^ 64
    + arg0 % 2 ^ 64 * 2 ^ 96 + arg1 % 2 ^ 64 * 2 ^ 160)

/-- Posts an event, or a notice (R359, R410). `what` names what the duty is about, `pages` the pages that a residency event lists: its
record holds the first (R341, R359). -/
def State.post (s : State) (duty ctx : Nat) (note : Bool) (tag : Word) (arg0 arg1 what : Nat) (pages : List Nat := []) : State :=
  let seq := s.regs.evSeq
  let s := s.setRegs (fun r => { r with
    evSeq := if seq = 0xFFFF_FFFF then 1 else seq + 1
    duties := if note then r.duties else r.duties ++ [⟨seq, duty, what, pages⟩]
    evWait := r.evWait ++ [eventRecord seq duty ctx note tag arg0 arg1] })
  ringFlush s s.regs.evWait

/-- Whether the record of an event still waits to be written in the ring: the event has not been posted yet (R359). -/
def Regs.unposted (r : Regs) (seq : Word) : Bool := r.evWait.any (fun x => ofBytes (x.take 4) == seq.toNat)

/-- Whether an event of a duty about something is outstanding. -/
def State.asked (s : State) (duty what : Nat) : Bool := s.regs.duties.any (fun d => d.duty == duty && d.what == what)

end Sys2Proof.Machine
end

