-- ==== Sys2Proof/Machine/Traffic.lean ====
section
/-! DEFINITION. What moves beyond a core (R291 to R294): the bytes that count against a cluster's budget and spend its contexts' boost
tokens, the links that an access crosses, and the counters of PERFRD that count them (R367). None of it changes a value: an access
that has to wait is performed once its wait is over (assumption 2). -/

namespace Sys2Proof.Machine

/-! Links (R294) -/

/-- The number of the bridge between two tiles, or of a tile and the I/O die, which counts as 8 (DESIGN CHOICE, assumption 17). -/
def linkNo (a b : Nat) : Nat := 16 * min a b + max a b

/-- The links between two tiles on a shortest path: along a's row and then across. -/
def linksBetween (a b : Nat) : List Nat :=
  let r := a / 4 * 4
  let lo := min (a % 4) (b % 4)
  let hi := max (a % 4) (b % 4)
  tab (hi - lo) (fun i => linkNo (r + lo + i) (r + lo + i + 1)) ++ if a / 4 = b / 4 then [] else [linkNo (r + b % 4) b]

/-- The links on a shortest path from tile a to tile b, and b's bridge to the I/O die (R367). -/
def linksTo (a b : Nat) : List Nat := linksBetween a b ++ [linkNo b 8]

/-- The bridges of the package network (R15): between neighbours of a row, across the rows, and from each tile to the I/O die. -/
def isLink (n : Nat) : Bool :=
  let a := n / 16
  let b := n % 16
  decide (a < 8) && (b == 8 || (decide (b < 8) && ((b == a + 1 && a % 4 != 3) || b == a + 4)))

def State.linkState (s : State) (n : Nat) : LinkState := Map.get .full s.links n
def State.setLink (s : State) (n : Nat) (x : LinkState) : State := { s with links := Map.put s.links n x }

/-- A link that traffic will need moves toward FULL (R294, R367). -/
def State.wake (s : State) (link : Nat) : State :=
  match s.linkState link with
  | .narrow => s.setLink link .widening
  | .sleep => s.setLink link .waking
  | _ => s

/-- A link carries an access: a NARROW one does so while it widens, one in SLEEP once it has woken to FULL (R294). -/
def State.carry (s : State) (link : Nat) : State :=
  match s.linkState link with
  | .narrow => s.setLink link .widening
  | .sleep | .waking => s.setLink link .full
  | _ => s

/-- The links that an access from a tile to a byte crosses: to its die, and for second-tier memory on to the I/O die (R29). -/
def State.crossed (s : State) (tile : Nat) (l : Loc) : List Nat :=
  let t := (s.dieOf l).getD (l.addr / 524288 / 96)
  linksBetween tile t ++ if l.sp = .glob ∧ 2 ^ 40 ≤ l.addr then [linkNo t 8] else []

/-! Budgets and boost (R291 to R293) -/

/-- BUDGET_EPOCH (R291 to R293): each cluster's base budget, halved while its column is THROTTLED and at least 4,096 bytes, each
context's tokens, at most 64 epochs' worth, and whether boost is open. -/
def State.doEpoch (s : State) : State :=
  let base := fun (c : Nat) => Config.baseBudget s.fresh c
  { s with fresh := s.fresh + 1
           budgets := tab 96 (fun c => (c, max 4096 (if (s.column c).throttled then base c / 2 else base c)))
           ctxs := s.ctxs.map (fun p => if p.2.en then
             (p.1, { p.2 with tokens := min (p.2.tokens + 1024 * p.2.weight) (64 * 1024 * p.2.weight) }) else p)
           regs := { s.regs with boost := Config.boostOpen s.fresh } }

/-- What a request is made for: its core, its context, its group, and whether its block was placed under R290. -/
structure Payer where
  core : Nat
  ctx  : Nat
  gid  : Nat
  hot  : Bool
  deriving DecidableEq, Repr

/-- The payer of a group's accesses. -/
def State.payer (s : State) (gid : Nat) : Payer :=
  match Map.find? s.blocks (gid / 32) with
  | some b => ⟨b.core, match Map.find? s.launches b.lid with | some l => l.ctx | none => 0, gid, b.hot⟩
  | none => ⟨0, 0, gid, false⟩

/-- A request of n bytes is granted (R291, R293): from the cluster's base budget; else from its context's tokens; else in a later
epoch, and its bytes have waited. -/
def State.grant (s : State) (p : Payer) (n : Nat) : State :=
  let clu := p.core / 8
  let left := Map.get 0 s.budgets clu
  let x := s.ctx p.ctx
  if n ≤ left then { s with budgets := Map.put s.budgets clu (left - n) }
  else if !p.hot && s.regs.boost && decide (n ≤ x.tokens) then { s with ctxs := Map.put s.ctxs p.ctx { x with tokens := x.tokens - n } }
  else
    let s := s.doEpoch
    { s with budgets := Map.put s.budgets clu (Map.get 0 s.budgets clu - n) }.modGroup p.gid (fun g => g.tally 4 n)

/-! The traffic of the ordering machine's steps -/

/-- How far an access goes: not beyond its core, to its tile's cellar, or to the die of the byte. -/
inductive Reach where
  | near
  | cellar
  | die
  deriving DecidableEq, Repr

/-- The traffic of an access of n bytes from a tile to a byte. -/
def State.traffic (s : State) (p : Payer) (tile : Nat) (l : Loc) (n : Nat) (r : Reach) : State :=
  match r with
  | .near => s
  | .cellar => s.grant p n
  | .die => ((s.crossed tile l).foldl State.carry s).grant p n

/-- The reach of an access to a byte where it lies. -/
def Loc.reach (l : Loc) : Reach := if l.sp = .spad then .near else .die

/-- The reach of a fetch of a global line by a group, beyond the first level. -/
def State.fetchReach (s : State) (gid tile line : Nat) (as : List Nat) : Reach :=
  if s.homeTile line = tile || (s.guestCopy gid tile line (s.seenOf gid) as).isSome then .cellar else .die

/-- The reach of a read (R197). -/
def State.readReach (s : State) (e : IqEv) (core : Nat) (as : List Nat) (acq : Option Scope) : Reach :=
  let owner := e.ord == .so || acq == some .dev || acq == some .sys
  let line := lineOf (as.headD 0)
  if as.any (fun a => (s.fromWrites e core a (e.sp == .glob && !owner)).isSome) then .near
  else if e.sp ≠ .glob then Loc.reach ⟨e.sp, line⟩
  else if owner || (s.aliasOf line).isSome then .die
  else if acq.isNone && (s.l1Copy e.gid core line (s.seenOf e.gid) as).isSome then .near
  else s.fetchReach e.gid (core / 96) line as

/-- READ with its traffic; a load that its first level does not serve is a miss (R367). -/
def State.eventRead (s : State) (id : Nat) : Option State :=
  (s.doRead id).map (fun t =>
    match s.iq.find? (fun e => e.id == id) with
    | some e =>
      match e.kind with
      | .load _ bs acq =>
        let as := (bs.map Prod.fst).eraseDups
        let p := s.payer e.gid
        let r := s.readReach e p.core as acq
        let t := if e.sp == .glob && r != .near then t.modGroup e.gid (fun g => g.tally 3 1) else t
        t.traffic p (p.core / 96) ⟨e.sp, lineOf (as.headD 0)⟩ as.length r
      | _ => t
    | none => t)

/-- The traffic of a write by its number, before and after it rises. -/
def State.writeTraffic (s t : State) (ws : List WEv) (id : Nat) (reach : WEv → Reach) : State :=
  match ws.find? (fun w => w.id == id) with
  | some w => t.traffic (s.payer w.gid) w.tile ⟨w.sp, w.line⟩ w.bytes.length (reach w)
  | none => t

/-- RISE-C, RISE-T and DRAIN-NT with their traffic. -/
def State.eventRiseC (s : State) (id : Nat) : Option State :=
  (s.doRiseC id).map (fun t => s.writeTraffic t s.sq id (fun w =>
    if w.sp = .glob ∧ w.ord ≠ .so then .near else Loc.reach ⟨w.sp, w.line⟩))
def State.eventRiseT (s : State) (id : Nat) : Option State :=
  (s.doRiseT id).map (fun t => s.writeTraffic t s.clv id (fun _ => .cellar))
def State.eventDrainNt (s : State) (id : Nat) : Option State :=
  (s.doDrainNt id).map (fun t => s.writeTraffic t s.cbuf id (fun _ => .die))

/-- ATOMIC with its traffic. -/
def State.eventAtomic (s : State) (id : Nat) : Option State :=
  (s.doAtomic id).map (fun t =>
    match s.iq.find? (fun e => e.id == id) with
    | some e =>
      let l : Loc := ⟨e.sp, e.touches.headD 0⟩
      let p := s.payer e.gid
      t.traffic p (p.core / 96) l e.touches.length l.reach
    | none => t)

/-- WRITEBACK, FILL-G and FILL-L1 with their traffic. -/
def State.eventWriteback (s : State) (tile line : Nat) : Option State :=
  (s.doWriteback tile line).map (fun t => (s.crossed tile ⟨.glob, line⟩).foldl State.carry t)
def State.eventFillG (s : State) (tile line : Nat) (cls : Nat × Nat) : Option State :=
  (s.doFillG tile line cls).map (fun t => (s.crossed tile ⟨.glob, line⟩).foldl State.carry t)

end Sys2Proof.Machine
end

