-- ==== Sys2Proof/Machine/ForkOps.lean ====
section
/-! DEFINITION. Forked work at issue (R296 to R300): join objects, FORK, JOIN and JINIT. -/

namespace Sys2Proof.Machine

/-- Entries of a core's fork deque at most (R298). -/
def dequeLimit : Nat := 256

/-- Whether a join word names no object (R296). -/
def noObject (w : Word) : Bool := w.toNat / 2 ^ 24 == 0

/-- The cause by which a join object fails (R296, R298): its space, then R170. -/
def State.joinCause (s : State) (c : Iss) (w : Word) : Option Nat :=
  let o := wordOpnd w
  let h := c.handle o.idx
  if noObject w then none
  else if h.space ≠ 0 ∧ h.space ≠ 1 then some causeDesc
  else s.failure c h true .atomic 16 ⟨none, noLane, o.off, 16⟩

/-- Where a join object lies. -/
def State.joinAt (s : State) (c : Iss) (w : Word) : Option (Loc × PageKind) :=
  s.place c (c.handle (wordOpnd w).idx) none (wordOpnd w).off .w

/-- The issuing fragment with its group as the state holds it now. -/
def Iss.now (c : Iss) (s : State) : Iss := { c with g := (Map.find? s.groups c.cur.gid).getD c.g }

/-- An ATOMIC step of the group on 16 bytes may be performed now (R200, R204). -/
def State.atomicReady (s : State) (c : Iss) (l : Loc × PageKind) : Bool :=
  let e : IqEv := ⟨s.nextId, c.cur.gid, c.cur.ent, s.seq, l.1.sp, l.2, .jinit l.1.addr, c.f.site c.own, (0, 0), false⟩
  !s.tooEarly e e.touches && !knownIn (s.sq ++ s.clv ++ s.cbuf) c.cur.gid s.nextId l.1.sp e.touches && s.answers l.1

/-- An access of n bytes to a join object fills the TLBs, counts against the budget and crosses links (R291, R294, R338). -/
def State.objTraffic (s : State) (c : Iss) (w : Word) (l : Loc) (n : Nat) : State :=
  (s.touchAt c (c.handle (wordOpnd w).idx) (wordOpnd w).off 16).traffic (s.payer c.cur.gid) c.tile l n l.reach

/-- A child goes to the head of its core's deque (R298). -/
def State.pushChild (s : State) (core : Nat) (x : Child) : State :=
  s.setCore core { s.core core with deque := x :: (s.core core).deque }

/-- FORK, once its checks have passed (R298): it waits for every earlier access of the group; then the capacity test, the increment
and the push are one step. -/
def State.forkChild (s : State) (c : Iss) (e : Enc) : State :=
  let k := e.a.toNat - 0x40
  let w := c.s (k + 2)
  let child : Child := ⟨c.b.lid, c.s k, c.s (k + 1), w, c.b.bidx⟩
  let full := decide (dequeLimit ≤ (s.core c.b.core).deque.length)
  if !s.performed c.cur.gid s.seq .dev true then s.waitAt c
  else if noObject w then
    if full then s.sca c e false 0 else (s.pushChild c.b.core child).sca c e false 1
  else
    match s.joinAt c w with
    | none => s.waitAt c
    | some l =>
      if !s.atomicReady c l then s.waitAt c
      else if (tab 16 (fun i => l.1.addr + i)).any (fun a => s.poisoned ⟨l.1.sp, a⟩) then s.stopBlock c (causePoison, noLane) c.own
      else
        let s := (if l.1.sp = .glob then s.cleanBut none (lineOf l.1.addr) else s).objTraffic c w l.1 4
        let out := s.numAt l.1 4
        if full || out == 0xFFFF_FFFF then s.sca (c.now s) e false 0
        else
          let s := (s.rmw c.tile l.1 4 (out + 1) [c.cur.gid]).pushChild c.b.core child
          s.sca (c.now s) e false 1

/-- FORK (R298): the run's last word and the object, then the entry as a CALL target, then the step. -/
def execFork (e : Enc) (s : State) : Out :=
  match s.issuer? with
  | none => .fault .noIssuer
  | some c =>
    let k := e.a.toNat - 0x40
    let off := codeOff (c.s k)
    let found := s.forkFound c e
    let cause := if c.s (k + 3) ≠ 0 then some causeDesc else s.joinCause c (c.s (k + 2))
    match s.reason c (.fork e) none, cause with
    | none, some r => .next (s.stopBlock c (r, noLane) c.own)
    | _, _ => .next (s.transfer c (.fork e) off found (s.forkChild c e))

/-- JOIN (R300): waits until OUT is zero, then an acquire at .dev. The read that finds it zero counts as traffic; how often JOIN looks
before is the hardware's own. Without an object there is nothing to wait for, and the value is free (assumption 5). -/
def State.join_ (s : State) (c : Iss) (e : Enc) : State :=
  let w := (c.sa e e.a .n32).extractLsb' 0 32
  match s.joinCause c w with
  | some r => s.stopBlock c (r, noLane) c.own
  | none =>
    if noObject w then { s with fresh := s.fresh + 1 }.sca c e false (Config.freeValue s.fresh &&& 0xFFFF_FFFF)
    else
      match s.joinAt c w with
      | none => s.waitAt c
      | some l =>
        match s.readSync c (some .dev) (tab 8 (fun i => (⟨l.1.sp, l.1.addr + i⟩, l.2))) with
        | .wait => s.waitAt c
        | .poison => s.stopBlock c (causePoison, noLane) c.own
        | .got s' bs =>
          let x := ofBytes bs
          if x % 2 ^ 32 ≠ 0 then s.waitAt c
          else
            let s' := (s'.stale c.cur.gid c.b.core c.tile .dev).objTraffic c w l.1 8
            s'.sca (c.now s') e false (BitVec.ofNat 64 (x / 2 ^ 32))

/-- JINIT (R300): one relaxed ATOMIC step. -/
def State.jinit (s : State) (c : Iss) (e : Enc) : State :=
  let w := (c.sa e e.a .n32).extractLsb' 0 32
  match s.joinCause c w with
  | some r => s.stopBlock c (r, noLane) c.own
  | none =>
    let xs := if noObject w then [] else ((s.joinAt c w).map (fun l => (l.1, l.2, IqKind.jinit l.1.addr))).toList
    let s := if xs.isEmpty then s else s.touchAt c (c.handle (wordOpnd w).idx) (wordOpnd w).off 16
    (s.enterAtoms c c.own xs).finish c e c.eff c.own false

/-- R300 -/
def execJoin (e : Enc) (s : State) : Out := issuing (.join e) s (fun c => s.join_ c e)
/-- R300 -/
def execJinit (e : Enc) (s : State) : Out := issuing (.jinit e) s (fun c => s.jinit c e)

end Sys2Proof.Machine
end

