-- ==== Sys2Proof/Machine/Lease.lean ====
section
/-! DEFINITION. What the sage pair does with page tables and frames: reading by virtual address, the residency walk (R341 to R343),
frames from the pools (R342), and moving or zeroing a range (R326, R330, R346). -/

namespace Sys2Proof.Machine

/-! Reading and writing by virtual address (the controllers walk; they hold no TLB entries) -/

/-- The physical address of a virtual byte of a context. -/
def State.physOf (s : State) (ctx va : Nat) : Option Nat := (s.walk ctx va).map (fun l => l.pa + (va - l.va))

/-- Whether n bytes from va on are mapped: the 4 KiB pages they lie in, the least that a leaf maps (R335). -/
def State.mapped (s : State) (ctx va n : Nat) : Bool :=
  n == 0 || (List.range ((va + n - 1) / 4096 + 1 - va / 4096)).all (fun i => (s.walk ctx (va / 4096 * 4096 + 4096 * i)).isSome)

/-- The number in n bytes at va, read at the owner; 0 for bytes that are not mapped. One translation serves bytes of one page. -/
def State.numVa (s : State) (ctx va n : Nat) : Nat :=
  if va % 4096 + n ≤ 4096 then
    match s.physOf ctx va with
    | some pa => s.ownerNum pa n
    | none => 0
  else
    ofBytes (tab n (fun i => match s.physOf ctx (va + i) with
      | some pa => s.ownerByte pa
      | none => 0))

/-- The homes of n bytes from va on answer (R385); bytes that are not mapped have none. -/
def State.vaUp (s : State) (ctx va n : Nat) : Bool := (List.range n).all (fun i => (s.physOf ctx (va + i)).all (fun pa => s.homesUp pa 1))

/-- Bytes stored by the module at va, as far as they are mapped. -/
def State.storeVa (s : State) (ctx va : Nat) (bs : List Byte) : State :=
  s.store ioDie ((bytesFrom va bs).filterMap (fun b => (s.physOf ctx b.1).map (fun pa => (pa, b.2))))

/-! Ranges of physical memory -/

/-- Writes back every dirty guest of a range, and drops every copy of its lines but a dirty guest that stays. -/
def State.dropRange (s : State) (a n : Nat) : State :=
  let inside := fun (l : Nat) => decide (a < l + 128) && decide (l < a + n)
  let s := (s.guests.filter (fun g => g.dirty && inside g.line)).foldl (fun s g => s.cleanBut none g.line) s
  { s with l1 := s.l1.filter (fun c => !inside c.line)
           guests := s.guests.filter (fun c => c.dirty || !inside c.line)
           icache := s.icache.filter (fun c => !(c.sp == .glob && inside c.line)) }

/-- Zeroes a range of physical memory, with no copy of it left; memory under an alias stays (R74). -/
def State.zeroRange (s : State) (a n : Nat) : State :=
  let s := (s.dropRange a n).zeroMem a n
  { s with guests := s.guests.filter (fun c => !(decide (a < c.line + 128) && decide (c.line < a + n))) }

/-- Entries of a table of addresses copied from one range to another. -/
def moveKeys {α : Type} (old dst n : Nat) (m : Map α) : Map α :=
  (m.filter (fun p => old ≤ p.1 && p.1 < old + n)).foldl (fun m p => Map.put m (dst + (p.1 - old)) p.2) m

/-- The bytes of a range that lie in enabled aliases, decoded (R74). -/
def State.decoded (s : State) (a n : Nat) : List (Nat × Byte) :=
  if s.regs.windows.any (fun w => w.en && overlap w.abase w.alen a n) then
    ((List.range n).filter (fun i => (s.aliasOf (a + i)).isSome)).map (fun i => (a + i, s.homeRead 16 (a + i)))
  else []

/-- Copies a range of physical memory to another, which is left with no copies (R341, R346). A poisoned line stays poisoned where it
goes. What an alias shows is copied as it reads, and memory under an alias stays (R74). -/
def State.copyRange (s : State) (old dst n : Nat) : State :=
  let s := (s.dropRange old n).dropRange dst n
  let plain := s.mem.filter (fun p => old ≤ p.1 && p.1 < old + n && (s.aliasOf p.1).isNone)
  let bs := (plain ++ s.decoded old n).map (fun p => (dst + (p.1 - old), p.2))
  let ps := (s.poison.filter (fun l => old ≤ l && l < old + n)).map (fun l => dst + (l - old))
  let z := s.zeroMem dst n
  { z with mem := z.mem.writeAll (bs.filter (fun p => s.populated p.1 1 && (s.aliasOf p.1).isNone)),
           poison := s.poison.filter (fun l => l < dst || dst + n ≤ l) ++ ps }

/-! The residency walk -/

/-- The entry at which a walk ends that follows valid pointers only: level, its address and value. -/
def entryFrom (s : State) (va : Nat) : Nat → Nat → Option (Nat × Nat × Nat)
  | level, table =>
    if !s.populated table 4096 then none
    else
      let a := pteAddr table va level
      let e := s.ownerNum a 8
      match pteOf e with
      | .table frame =>
        match level with
        | 0 => none
        | l + 1 => entryFrom s va l frame
      | _ => some (level, a, e)

/-- The entry that a context's page table holds for a virtual address. -/
def State.entryOf (s : State) (ctx va : Nat) : Option (Nat × Nat × Nat) :=
  if 2 ^ 57 ≤ va then none else entryFrom s va 4 (s.ctx ctx).root

/-- Rights a handle needs of its pages (R337, R341). -/
structure Need where
  r : Bool
  w : Bool
  x : Bool
  deriving DecidableEq, Repr

def Hnd.need (h : Hnd) : Need := ⟨h.rd, h.wr || h.atom, h.kind == 4⟩

/-- What the residency duty finds in an entry (R341). -/
inductive PageAct where
  | keep (size frame : Nat)
  | fill (size : Nat)
  | held (size frame : Nat)
  | refuse
  deriving DecidableEq, Repr

/-- Reads an entry as R341 does. -/
def State.pageAct (s : State) (need : Need) (level e : Nat) : PageAct :=
  let psz := e / 2 ^ 60 % 16
  let size := pageSizes.getD psz 1
  let frame := e / 2 ^ 12 % 2 ^ 40 * 4096
  let np := e / 32 % 4
  let sound := (leafCodes level).contains psz && e / 2 ^ 52 % 64 == 0 && e / 2 ^ 7 % 32 == 0 && !e.testBit 1 && e / 2 ^ 58 % 4 != 3
  let rights := (!need.r || e.testBit 2) && (!need.w || e.testBit 3) && (!need.x || e.testBit 4)
  let frameOk := frame % size == 0 && s.populated frame size
  if !sound || !rights then .refuse
  else if e.testBit 0 then (if np = 0 ∧ frameOk then .keep size frame else .refuse)
  else if np = 1 then .fill size
  else if np = 2 ∧ frameOk then .held size frame
  else .refuse

/-- Whether a frame lies in the part that PLACE and HOME select (R172). -/
def State.inPart (s : State) (place home frame size : Nat) : Bool :=
  match place with
  | 0 => decide (frame + size ≤ s.interleaved)
  | 1 => decide (s.interleaved ≤ frame) && decide (frame + size ≤ 2 ^ 40) && s.homeTile frame == home &&
      s.homeTile (frame + size - 1) == home
  | _ => decide (2 ^ 40 ≤ frame)

/-- The pool that a placement draws from (R342). -/
def poolIndex (place home : Nat) : Nat :=
  match place with
  | 0 => 0
  | 1 => 1 + home
  | _ => 9

/-- Takes a frame of a size from a pool: the limit alone refuses it (R342). -/
def State.takeFrame (s : State) (n size : Nat) : Option (State × Nat) :=
  let f := (s.regs.resBase.getD n 0 + size - 1) / size * size
  if s.regs.resLim.getD n 0 < f + size then none
  else some (s.setRegs (fun r => { r with resBase := r.resBase.set n (f + size) }), f)

/-- An entry made valid with a frame (R341). -/
def validEntry (e frame : Nat) : Nat := e % 2 ^ 5 / 2 * 2 + 1 + e / 2 ^ 7 % 2 ^ 5 * 2 ^ 7 + frame + e / 2 ^ 52 * 2 ^ 52

/-- The entries of a page, one of which lies at a (R335): the first, and how many there are. -/
def pageEntries (level a size : Nat) : Nat × Nat :=
  let n := size / 2 ^ (12 + 9 * level)
  (a - a % (8 * n), n)

/-- Writes a value into every entry of a page (R335), as stores at .sys. -/
def State.putEntries (s : State) (level a size e : Nat) : State :=
  let p := pageEntries level a size
  s.store ioDie ((List.range p.2).map (fun i => bytesFrom (p.1 + 8 * i) (toBytes 8 e))).flatten

/-- A launch's lease over pages va to stop of a handle, in hardware mode (R341): the state, whether it holds, and the leaves to pin. -/
def leaseRange (s : State) (lid ctx : Nat) (tag : Word) (h : Hnd) (stop : Nat) : Nat → Nat → List Pin → State × Bool × List Pin
  | 0, va, ps => (s, decide (stop ≤ va), ps)
  | n + 1, va, ps =>
    if stop ≤ va then (s, true, ps)
    else match s.entryOf ctx va with
      | none => (s, false, ps)
      | some (level, a, e) =>
        let pin := fun (size : Nat) => (⟨lid, ctx, va / size * size, size⟩ : Pin)
        match s.pageAct h.need level e with
        | .refuse => (s, false, ps)
        | .keep size _ => leaseRange s lid ctx tag h stop n (va / size * size + size) (pin size :: ps)
        | .fill size =>
          match s.takeFrame (poolIndex h.place h.home) size with
          | none => (s, false, ps)
          | some (s, f) =>
            leaseRange ((s.zeroRange f size).putEntries level a size (validEntry e f)) lid ctx tag h stop n
              (va / size * size + size) (pin size :: ps)
        | .held size old =>
          if s.inPart h.place h.home old size then
            leaseRange (s.putEntries level a size (validEntry e old)) lid ctx tag h stop n (va / size * size + size) (pin size :: ps)
          else match s.takeFrame (poolIndex h.place h.home) size with
            | none => (s, false, ps)
            | some (s, f) =>
              let s := (s.copyRange old f size).putEntries level a size (validEntry e f)
              leaseRange (s.post 1 ctx true tag old (va / size * size) 0) lid ctx tag h stop n (va / size * size + size)
                (pin size :: ps)

/-- The pages of a range that the duty would refuse or fill (R341), by their first addresses; one that no entry sizes counts as
4 KiB. -/
def lacking (s : State) (ctx : Nat) (h : Hnd) (stop : Nat) : Nat → Nat → List Nat
  | 0, va => if stop ≤ va then [] else [va]
  | n + 1, va =>
    if stop ≤ va then []
    else match s.entryOf ctx va with
      | none => va :: lacking s ctx h stop n (va / 4096 * 4096 + 4096)
      | some (level, _, e) =>
        match s.pageAct h.need level e with
        | .keep size _ => lacking s ctx h stop n (va / size * size + size)
        | .fill size | .held size _ => va :: lacking s ctx h stop n (va / size * size + size)
        | .refuse => va :: lacking s ctx h stop n (va / 4096 * 4096 + 4096)

/-- The handles whose ranges a lease covers (R283). -/
def Launch.leased (l : Launch) : List Hnd :=
  (l.handles.map hndOf).filter (fun h => h.space == 0 && (h.kind == 1 || h.kind == 2 || h.kind == 4))

/-- Pages a range can have at most, and one more. -/
def pageFuel (h : Hnd) : Nat := h.bytes / 4096 + 2

/-- The instruction-cache lines of a launch's code handles are dropped at admission (R97, R343). A handle of a space whose bytes follow
the block's place drops every line of that space. -/
def State.dropCode (s : State) (ctx : Nat) (hs : List Hnd) : State :=
  let inside := fun (h : Hnd) (x : ICLine) => match h.space with
    | 0 => x.sp == .glob && (List.range (h.bytes / 128 + 2)).any (fun i =>
      match s.physOf ctx (h.base / 128 * 128 + 128 * i) with
      | some pa => lineOf pa == x.line
      | none => false)
    | 1 => x.sp == .tpad && overlap x.line 128 (33554432 * h.home + 65536 * (s.ctx ctx).tsOff + h.base) h.bytes
    | 4 => x.sp == .slice
    | _ => x.sp == .spad
  { s with icache := s.icache.filter (fun x => !hs.any (fun h => h.kind == 4 && inside h x)) }

/-- The lines of a virtual range are dropped from every L1 and every cellar that is not their home (R209). -/
def dropVirtual (s : State) (ctx stop : Nat) : Nat → Nat → State
  | 0, _ => s
  | n + 1, va =>
    if stop ≤ va then s
    else match s.walk ctx va with
      | some l => dropVirtual (s.dropRange (l.pa + (va - l.va)) (min (l.va + l.size) stop - va)) ctx stop n (l.va + l.size)
      | none => dropVirtual s ctx stop n (va / 4096 * 4096 + 4096)

/-- Drops the copies of a range of a context (R209). -/
def State.dropVa (s : State) (ctx va n : Nat) : State := dropVirtual s ctx (va + n) (n / 4096 + 2) va

end Sys2Proof.Machine
end

