-- ==== Sys2Proof/Machine/System.lean ====
section
/-! DEFINITION. The system instructions (R363 to R367), TRAP, BKPT and RFT (R373 to R377), and the arithmetic trap as a step of its
own (R68). -/

namespace Sys2Proof.Machine

/-! System registers -/

/-- CAP.PROFILE (R9). -/
def capProfile (tile : Nat) : Word := BitVec.ofNat 32 (16 * tile + if profileW tile then 5 else 2)

/-- CAP.CORE (R18). -/
def capCore (core : Nat) : Word := BitVec.ofNat 32 (core % 8 * 2 ^ 16 + core % 96 / 8 * 2 ^ 12 + core)

/-- CAP.WIDTH (R163). -/
def capWidth (c : Core) : Word := BitVec.ofNat 32 (if c.ret = 3 then 7 else 2 * c.ret + if c.ret = 0 then 0 else 1)

/-- FRAG.STAT (R254). -/
def Iss.fragStat (c : Iss) : Word :=
  BitVec.ofNat 32 (c.g.freeDefers * 2 ^ 16 + c.g.freeEntries.length * 2 ^ 8 + c.cur.ent)

/-- TRAP.CAUSE (R370). -/
def TrapRegs.causeWord (t : TrapRegs) : Word := t.ch ++ (0 : BitVec 8) ++ t.detail ++ t.cause

/-- The value of a system register (R364). -/
def State.sysReg (s : State) (c : Iss) (n : Nat) : Word :=
  match n with
  | 0x000 => capProfile c.tile
  | 0x001 => capCore c.b.core
  | 0x002 => capWidth (s.core c.b.core)
  | 0x010 => c.g.fl.word c.real
  | 0x011 => arithCtl c.g.fpe c.g.drm
  | 0x012 => c.fragStat
  | 0x020 => BitVec.ofNat 32 s.regs.rho
  | 0x021 => BitVec.ofNat 32 s.regs.starve
  | 0x022 => BitVec.ofNat 32 s.regs.period
  | 0x030 => c.g.trap.causeWord
  | 0x031 => c.g.trap.pc.zeroExtend 32
  | 0x032 => c.g.trap.lanes.extractLsb' 0 32
  | 0x033 => c.g.trap.lanes.extractLsb' 32 32
  | 0x034 => c.g.trap.lanes.extractLsb' 64 32
  | 0x035 => c.g.trap.word.zeroExtend 32
  | 0x036 => c.g.trap.addr
  | _ => 0

/-- The group after a WRSR (R66, R67, R370). -/
def Iss.wrsr (c : Iss) (e : Enc) : Group :=
  let w := c.wrsrArg e
  match e.imm14.toNat with
  | 0x010 => { c.g with fl := c.g.fl.keep w }
  | 0x011 => { c.g with drm := w.extractLsb' 0 3 }
  | 0x031 => { c.g with trap := { c.g.trap with pc := w.extractLsb' 0 27, written := true } }
  | _ => c.g

/-! Service, location and counters -/

/-- SVC (R365): a release at .sys, then the block's eviction with its PC after the SVC. -/
def State.svc (s : State) (c : Iss) (e : Enc) : State :=
  if !s.performed c.cur.gid s.seq .sys false then s.waitAt c
  else
    let k := e.dst.toNat - 0x40
    (s.finish c e c.eff c.own false).evict c.bid (.svc e.imm14.toNat (c.s k) (c.s (k + 1)))

/-- Links from tile a to tile b (R366). -/
def hops (a b : Nat) : Nat :=
  let x := a % 4
  let y := b % 4
  (if x ≤ y then y - x else x - y) + if a / 4 = b / 4 then 0 else 1

/-- LOCQ's word for a byte whose home or holder is on a tile (R366). -/
def locWord (lat : Nat) (t2 : Bool) (hop tile : Nat) : Word :=
  BitVec.ofNat 32 (lat * 2 ^ 16 + (if t2 then 2 ^ 8 else 0) + hop * 2 ^ 4 + tile)

/-- LOCQ (R366). -/
def State.locq (s : State) (c : Iss) (e : Enc) : Word :=
  let m := c.memHandle e e.b
  let h := c.handle m.1
  let off := c.off e 0
  let far := fun (t : Nat) (t2 : Bool) => locWord (200 + 40 * hops c.tile t + if t2 then 600 else 0) t2 (hops c.tile t) t
  if !m.2.1 || !(h.kind == 1 || h.kind == 2 || h.kind == 4) || !s.inBounds c h none off 1 then 0xFFFF_FFFF
  else if h.space = 0 then
    match s.lookup c.walker (h.base + off.toNat) with
    | some l =>
      let pa := l.pa + (h.base + off.toNat - l.va)
      far (s.homeTile pa) (decide (2 ^ 40 ≤ pa))
    | none => 0xFFFF_FFFF
  else
    match s.place c h none off.toNat .r with
    | some (l, _) =>
      match l.sp with
      | .spad =>
        let core := l.addr / 524288
        locWord (if core = c.b.core then 20 else 60) false (hops c.tile (core / 96)) (core / 96)
      | .tpad => far (l.addr / 33554432) false
      | _ => far (s.homeTile l.addr) false
    | none => 0xFFFF_FFFF

/-- LWAKE (R367). -/
def State.lwake (s : State) (c : Iss) (e : Enc) : State :=
  let t := (c.sa e e.a .n32).toNat % 8
  ((linksTo c.tile t).foldl State.wake s).pass c e

/-- A counter that time decides (R367): it is zero when the block starts and rises by a free amount until it is read (assumption 5). The
cycles on a half-width core (n = 6) stay zero while the core has its full width. -/
def State.timed (s : State) (c : Iss) (n : Nat) : Nat :=
  let old := Map.get 0 c.g.perf n
  if n = 6 ∧ (s.core c.b.core).ret = 0 then old else old + (Config.freeValue s.fresh).toNat

/-- PERFRD (R367): the counters that the model counts, and those that time decides. -/
def State.perfrd (s : State) (c : Iss) (e : Enc) : State :=
  let n := e.imm14.toNat
  if n = 2 ∨ n = 6 then
    let x := s.timed c n
    let g := { c.g with perf := Map.put c.g.perf n x }
    ({ s with fresh := s.fresh + 1 }.setGroup c.cur.gid g).sca { c with g := g } e true (BitVec.ofNat 64 x)
  else s.sca c e true (BitVec.ofNat 64 (Map.get 0 c.g.perf n))

/-! Traps by instruction -/

/-- The trap of TRAP and BKPT: detail and TRAP.ADDR are n (R368, R370, R376). -/
def Iss.numbered (c : Iss) (cause n : Nat) : TrapRec := mkTrap c.f cause n c.own n

/-- BKPT (R374, R376). -/
def State.bkpt (s : State) (c : Iss) (e : Enc) : State :=
  let n := e.imm14.toNat
  if c.l.desc.trap ≠ 0 || c.f.st == .handler then s.takeTrap c (c.numbered 7 n)
  else if s.assisted 3 then
    let t := (c.numbered 7 n).regs c.f.blk
    let g := { c.g with trap := t }
    let s := s.finish { c with g := g } e ⟨g, 0⟩ c.own false
    if (Map.find? s.blocks c.bid).any Block.live then
      (s.evict c.bid .service).modBlock c.bid (fun b => { b with cause := 7, detail := n })
    else s
  else s.pass c e

/-- The byte offset after the instruction at an offset, its literal included (R377). A prefix before a header or a second prefix is a
unit of its own: the resume point is the next unit (R78 does not say; DESIGN CHOICE, assumption 47). -/
def State.afterInstr (s : State) (c : Iss) (hnd off : Nat) : Nat :=
  match decodeUnits (s.unitsFrom c hnd 3 off).1 with
  | .ok (i, _) => match opcodeOf i with
    | some (_, e) => off + 4 * e.units
    | none => off + 4
  | .error _ => off + 4

/-- Whether an offset is a unit of the block of a header (R377). -/
def State.unitOf (s : State) (c : Iss) (hnd blk p : Nat) : Bool :=
  match s.unitAt c hnd blk, s.unitAt c hnd (blk + 4 : Nat) with
  | .ok w0, .ok w1 => decide (opField w0 = 0x1FE ∧ blk + 8 ≤ p ∧ p < blk + 4 * (headerOf w0 w1).len ∧ p % 4 = 0)
  | _, _ => false

/-- RFT (R377): the trap state ends, the fragment resumes, and the next pending trap is delivered (R375). A header that trapped as a
transfer target is entered as one again, so that the same trap is delivered. Within a latched list the fragment stands at its EXLW,
wherever the handler has moved TRAP.PC, and goes on after it (R269). -/
def State.rft (s : State) (c : Iss) (skip : Bool) : State :=
  let t := c.g.trap
  let ch := t.ch.toNat
  let p := t.pc.toNat
  let isHeader := match s.unitAt c ch p with
    | .ok w => decide (p % 8 = 0 ∧ opField w = 0x1FE)
    | .error _ => false
  if !isHeader && !s.unitOf c ch t.blk p then s.takeTrap c (mkTrap c.f 1 2 c.own p)
  else
    let f := { c.f with st := .ready, hnd := ch, blk := t.blk, pc := p, latch := [], latchAt := 0, park := none }
    let word := t.word.toNat + if skip then 1 else 0
    let f :=
      if t.cause = 3 ∧ !t.latch.isEmpty then
        if t.latch.length ≤ word then { f with pc := t.exlw + 4 } else { f with pc := t.exlw, latch := t.latch, latchAt := word }
      else if !skip || t.written || isHeader then f
      else { f with pc := s.afterInstr c ch p }
    let s := s.setGroup c.cur.gid ((c.g.count c.own).setEntry c.cur.ent (.frag f))
    let target := !t.written && t.cause == 1 && t.detail == 2
    let s := if isHeader && f.pc == p && f.latch.isEmpty then s.moves c [.enter c.cur.ent p target] else s.fallThrough { c with f := f }
    s.nextTrap c.cur.gid

/-- The arithmetic trap as a step (R68): exceptions have arisen in some of the issuing fragment's lanes. The trap is taken when FPE enables
one and a lane is no helper lane; the flags are set, and the lanes named, in helper lanes too. -/
def State.arith (s : State) (c : Iss) (exc : BitVec 5) (lanes : Mask) : State :=
  let x := exc &&& c.l.desc.fpe
  let ls := lanes &&& c.own
  if x = 0 ∨ ls &&& c.real = 0 then s
  else
    let fl := c.g.fl.raise ((lanesOf ls).map (fun L => (L, exc)))
    let g := { c.g with fl := fl }
    (s.setGroup c.cur.gid g).takeTrap { c with g := g } (c.arithRec x ls)

/-- R364 -/
def execRdsr (e : Enc) (s : State) : Out :=
  issuing (.rdsr e) s (fun c => s.sca c e false ((s.sysReg c e.imm14.toNat).zeroExtend 64))

/-- R364: a write that the register's table forbids raises SYSREG. -/
def execWrsr (e : Enc) (s : State) : Out :=
  issuing (.wrsr e) s (fun c =>
    if c.forbidden e then s.illegal c (.wrsr e) 14 else s.finish c e ⟨c.wrsr e, 0⟩ c.own false)

/-- R365 -/
def execSvc (e : Enc) (s : State) : Out := issuing (.svc e) s (fun c => s.svc c e)
/-- R376 -/
def execTrap (e : Enc) (s : State) : Out := issuing (.trap e) s (fun c => s.takeTrap c (c.numbered 6 e.imm14.toNat))
/-- R374 -/
def execBkpt (e : Enc) (s : State) : Out := issuing (.bkpt e) s (fun c => s.bkpt c e)
/-- R377 -/
def execRft (e : Enc) (s : State) : Out := issuing (.rft e) s (fun c => s.rft c false)
/-- R377 -/
def execRftSkip (e : Enc) (s : State) : Out := issuing (.rftSkip e) s (fun c => s.rft c true)
/-- R366 -/
def execLocq (e : Enc) (s : State) : Out := issuing (.locq e) s (fun c => s.sca c e false ((s.locq c e).zeroExtend 64))
/-- R367 -/
def execLwake (e : Enc) (s : State) : Out := issuing (.lwake e) s (fun c => s.lwake c e)
/-- R367 -/
def execClkrd (e : Enc) (s : State) : Out := issuing (.clkrd e) s (fun c => s.sca c e true (BitVec.ofNat 64 s.clk))
/-- R367 -/
def execPerfrd (e : Enc) (s : State) : Out := issuing (.perfrd e) s (fun c => s.perfrd c e)
/-- R68 -/
def execArithTrap (exc : BitVec 5) (lanes : Mask) (s : State) : Out :=
  match s.issuer? with
  | none => .next s
  | some c => .next (s.arith c exc lanes)
/-- A word that is no instruction raises its reason where it would issue (R85, R88, R91, R94). -/
def execIllegalInstruction (w : BadWord) (s : State) : Out := issuing (.illegalInstruction w) s (fun _ => s)

end Sys2Proof.Machine
end

