-- ==== Sys2Proof/Machine/Image.lean ====
section
/-! DEFINITION. Block images (R253, R378 to R380): the bytes of an image, the checks of RESUME, and the groups an image holds. -/

namespace Sys2Proof.Machine

/-! Writing -/

/-- A field of an image: its byte offset and its bytes. -/
abbrev Piece := Nat × List Byte

def numPiece (off n x : Nat) : Piece := (off, toBytes n x)
def wordPiece (off n : Nat) (f : Nat → Word) : Piece := (off, (tab n (fun i => toBytes 4 (f i).toNat)).flatten)

/-- The bytes of fields in rising order, zero between them, up to a length. -/
def layOut : Nat → List Piece → Nat → List Byte
  | pos, [], stop => List.replicate (stop - pos) 0
  | pos, (o, bs) :: ps, stop => List.replicate (o - pos) 0 ++ bs ++ layOut (o + bs.length) ps stop

/-- GSZ (R378). -/
def groupSize (vregs : Nat) : Nat := (0x3400 + 384 * vregs + 255) / 256 * 256

/-- LENGTH (R378). -/
def imageLen (d : Desc) : Nat := 512 + groupCount d.lanes * groupSize d.vregs + 128 * d.spad

/-- A record of R253. -/
structure Rec where
  kind : Nat
  link : Nat
  lv   : Bool
  seq  : Nat
  st   : Nat
  hnd  : Nat
  a1   : Nat
  a2   : Nat
  m1   : Mask
  m2   : Mask
  deriving DecidableEq, Repr

/-- The 320 bits of a record. -/
def Rec.pack (r : Rec) : Nat :=
  r.kind * 2 ^ 318 + r.link * 2 ^ 314 + (if r.lv then 2 ^ 313 else 0) + r.seq * 2 ^ 309 + r.st * 2 ^ 307 + r.hnd * 2 ^ 280
    + r.a1 % 2 ^ 32 * 2 ^ 248 + r.a2 % 2 ^ 32 * 2 ^ 216 + r.m1.toNat * 2 ^ 96 + r.m2.toNat

/-- STATE (R253). -/
def FState.code : FState → Nat
  | .ready => 0
  | .waiting => 1
  | .pending => 2
  | .handler => 3

def Entry.record : Entry → Nat
  | .free => 0
  | .frag f => Rec.pack ⟨1, f.fe.getD 0, f.fe.isSome, 0, f.st.code, f.hnd, f.pc, f.blk, f.act, 0⟩
  | .fusion r => Rec.pack ⟨2, r.fe.getD 0, r.fe.isSome, 0, 0, r.hnd, r.fpc, 0, r.exp, r.arr⟩

/-- Deferral record d of a group. -/
def Group.deferRecord (g : Group) (d : Nat) : Nat :=
  match g.defer[d]? with
  | none => 0
  | some x => Rec.pack ⟨3, x.owner, true, ((g.defer.take d).filter (fun y => y.owner == x.owner)).length, 0, x.hnd, x.fpc, x.pcn,
      x.nmask, x.arr⟩

/-- The latched list, while the trap registers show the trap of an EXLW (R269, R380). -/
def Group.shown (g : Group) : List LaneWord :=
  if (g.trap.cause = 3 ∨ 16 ≤ g.trap.cause.toNat) ∧ g.table.any (fun p => match p.2 with
    | .frag f => f.st == .pending || f.st == .handler
    | _ => false) then g.trap.latch else []

/-- A group's section at offset o (R378). -/
def Group.pieces (g : Group) (o vregs : Nat) : List Piece :=
  let t := g.trap
  let lw := g.shown
  let mask := fun (at_ : Nat) (m : Mask) => numPiece (o + at_) 12 m.toNat
  [wordPiece o 29 g.sGet] ++ tab 7 (fun n => mask (0x80 + 16 * n) (g.kGet (n + 1)))
    ++ [mask 0xF0 g.fl.nv, mask 0x100 g.fl.dz, mask 0x110 g.fl.oflow, mask 0x120 g.fl.uf, mask 0x130 g.fl.nx,
      numPiece (o + 0x140) 4 g.drm.toNat, numPiece (o + 0x144) 4 g.lastb.toNat, numPiece (o + 0x150) 4 t.causeWord.toNat,
      numPiece (o + 0x154) 4 t.pc.toNat, mask 0x158 t.lanes, numPiece (o + 0x164) 4 t.word.toNat,
      numPiece (o + 0x168) 4 t.addr.toNat, numPiece (o + 0x16C) 4 lw.length]
    ++ tab 16 (fun n => mask (0x180 + 16 * n) (Map.get 0 g.barArr n))
    ++ tab 16 (fun e => numPiece (o + 0x280 + 40 * e) 40 (g.entry e).record)
    ++ tab 16 (fun d => numPiece (o + 0x500 + 40 * d) 40 (g.deferRecord d))
    ++ (lw.mapIdx (fun i w => [numPiece (o + 0x800 + 24 * i) 8 w.value.toNat, mask (0x808 + 24 * i) w.lanes])).flatten
    ++ [wordPiece (o + 0x1100) 96 (laneGet g.icnt)]
    ++ tab 8 (fun n => wordPiece (o + 0x1400 + 1024 * n) 256 (fun i => (Map.get [] g.tiles n).getD i 0))
    ++ tab vregs (fun n => wordPiece (o + 0x3400 + 384 * n) 96 (g.vGet n))

/-- An image of a block (R378); `kind` is its KIND. -/
def State.imageOf (s : State) (bid : Nat) (b : Block) (l : Launch) (kind : Nat) : List Byte :=
  let d := l.desc
  let gs := s.groupsOf bid
  let size := groupSize d.vregs
  let head := [(0, 0x07681A6E), (4, 1), (8, imageLen d), (0xC, size), (0x10, l.tag.toNat), (0x14, l.ctx)].map
    (fun p => numPiece p.1 4 p.2)
  let vals := [(0x20, d.lanes), (0x24, d.vregs), (0x28, 128 * d.spad), (0x2C, 4 * d.slice), (0x30, d.bars), (0x34, b.cblk),
    (0x38, kind)].map (fun p => numPiece p.1 4 p.2)
  let child := match b.child with
    | some x => [numPiece 0x48 4 x.arg.toNat, numPiece 0x4C 4 x.join.toNat, numPiece 0x50 4 x.entry.toNat]
    | none => []
  let bars := tab 16 (fun n => numPiece (0x100 + 8 * n) 8 (Map.get 0 b.bars n % 2 +
    2 ^ 32 * (gs.filter (fun p => p.2.arrived n)).length))
  layOut 0 (head ++ [numPiece 0x18 8 b.bidx] ++ vals ++ [numPiece 0x40 8 b.slbase] ++ child ++ bars
    ++ (tab (groupCount d.lanes) (fun i => match Map.find? s.groups (32 * bid + i) with
      | some g => g.pieces (0x200 + i * size) d.vregs
      | none => [])).flatten
    ++ [(0x200 + groupCount d.lanes * size, s.homeBytes .spad (524288 * b.core + b.spbase) (128 * d.spad))]) (imageLen d)

/-! Reading -/

/-- A number in an image. -/
def imgNum (bs : List Byte) (off n : Nat) : Nat := ofBytes ((bs.drop off).take n)
def imgWord (bs : List Byte) (off : Nat) : Word := BitVec.ofNat 32 (imgNum bs off 4)
def imgMask (bs : List Byte) (off : Nat) : Mask := BitVec.ofNat 96 (imgNum bs off 12)

/-- The bytes of an image where it lies; none when one of them is not mapped. -/
def State.imageBytes (s : State) (ctx : Nat) (i : Img) : Option (List Byte) :=
  if i.virt then
    (List.range i.len).foldr (fun k acc => match acc, s.physOf ctx (i.pa + k) with
      | some bs, some pa => some (s.ownerByte pa :: bs)
      | _, _ => none) (some [])
  else some (tab i.len (fun k => s.ownerByte (i.pa + k)))

/-- A record's fields, and whether its reserved fields are zero (R253). -/
def recOf (x : Nat) : Rec × Bool :=
  (⟨x / 2 ^ 318 % 4, x / 2 ^ 314 % 16, x.testBit 313, x / 2 ^ 309 % 16, x / 2 ^ 307 % 4, x / 2 ^ 280 % 256, x / 2 ^ 248 % 2 ^ 32,
    x / 2 ^ 216 % 2 ^ 32, BitVec.ofNat 96 (x / 2 ^ 96), BitVec.ofNat 96 x⟩,
    x / 2 ^ 288 % 2 ^ 19 == 0 && x / 2 ^ 192 % 2 ^ 24 == 0)

/-- The named bytes of a group's section (R378). -/
def groupNamed (o vregs : Nat) : List (Nat × Nat) :=
  [(o, 128)] ++ tab 12 (fun n => (o + 0x80 + 16 * n, 12)) ++ [(o + 0x140, 8), (o + 0x150, 32)]
    ++ tab 16 (fun n => (o + 0x180 + 16 * n, 12)) ++ [(o + 0x280, 640), (o + 0x500, 640)]
    ++ tab 96 (fun i => (o + 0x800 + 24 * i, 20)) ++ [(o + 0x1100, 384), (o + 0x1400, 8192), (o + 0x3400, 384 * vregs)]

/-- The named bytes of an image, in rising order (R378). -/
def imageNamed (d : Desc) (child : Bool) : List (Nat × Nat) :=
  let size := groupSize d.vregs
  [(0, 0x3C), (0x40, 8)] ++ (if child then [(0x48, 12)] else []) ++ [(0x100, 128)]
    ++ (tab (groupCount d.lanes) (fun i => groupNamed (0x200 + i * size) d.vregs)).flatten
    ++ [(0x200 + groupCount d.lanes * size, 128 * d.spad)]

/-- The bytes between named ones are zero. -/
def gapsZero : Nat → List (Nat × Nat) → List Byte → Bool
  | _, [], bs => bs.all (· == 0)
  | pos, (o, n) :: rs, bs => (bs.take (o - pos)).all (· == 0) && gapsZero (o + n) rs (bs.drop (o - pos + n))

/-- The records of a group's section break no part of R253. -/
def recordsOk (st df : List (Rec × Bool)) : Bool :=
  let free := fun (e : Nat) => match st[e]? with
    | some r => r.1.kind == 0
    | none => true
  let zero := fun (r : Rec) => r.pack == 0
  st.all (fun p => p.2 && p.1.kind != 3 && (p.1.kind != 0 || zero p.1) && (!p.1.lv || !free p.1.link) && p.1.seq == 0
      && (p.1.kind != 1 || p.1.m2 == 0) && (p.1.kind != 2 || (p.1.st == 0 && p.1.a2 == 0)))
    && df.all (fun p => p.2 && (if p.1.kind == 0 then zero p.1 else p.1.kind == 3 && p.1.lv && !free p.1.link && p.1.st == 0))

/-- The masks are disjoint. -/
def disjoint : List Mask → Bool
  | [] => true
  | m :: ms => ms.all (fun x => x &&& m == 0) && disjoint ms

/-- The records of a group's section. -/
def stRecords (bs : List Byte) (o : Nat) : List (Rec × Bool) := tab 16 (fun e => recOf (imgNum bs (o + 0x280 + 40 * e) 40))
def dfRecords (bs : List Byte) (o : Nat) : List (Rec × Bool) := tab 16 (fun d => recOf (imgNum bs (o + 0x500 + 40 * d) 40))

/-- The checks of R380 on a group's section; `lanes` are the group's lanes. -/
def groupOk (bs : List Byte) (o : Nat) (lanes : Mask) : Bool :=
  let st := stRecords bs o
  let df := dfRecords bs o
  let nw := imgNum bs (o + 0x16C) 4
  let cause := imgNum bs (o + 0x150) 1
  let recs := (st ++ df).map Prod.fst
  let held := (recs.map (fun r => match r.kind with
    | 1 => [r.m1]
    | 2 => [r.m2]
    | 3 => [r.m1, r.m2]
    | _ => [])).flatten
  let masks := tab 12 (fun n => imgMask bs (o + 0x80 + 16 * n)) ++ [imgMask bs (o + 0x158)]
    ++ tab 16 (fun n => imgMask bs (o + 0x180 + 16 * n)) ++ tab (min nw 96) (fun i => imgMask bs (o + 0x808 + 24 * i))
    ++ recs.map Rec.m1 ++ recs.map Rec.m2
  let trapped := recs.any (fun r => r.kind == 1 && decide (2 ≤ r.st))
  recordsOk st df && decide (imgNum bs (o + 0x140) 4 ≤ 5) && masks.all (fun m => m &&& ~~~lanes == 0) && disjoint held
    && decide ((recs.filter (fun r => r.kind == 1 && r.st == 3)).length ≤ 1) && decide (nw ≤ 96)
    && (nw == 0 || (trapped && (cause == 3 || decide (16 ≤ cause))))

/-- The arena of lane slices on a tile (R353). -/
def State.arenaStart (s : State) (t : Nat) : Nat := s.interleaved + t * ((128 - 4 * s.regs.ig4) * 2 ^ 30)
def State.inArena (s : State) (a n : Nat) : Bool :=
  (List.range 8).any (fun t => decide (s.arenaStart t ≤ a) && decide (a + n ≤ s.arenaStart t + s.regs.arena * 2 ^ 30))

/-- Lane-slice bytes of a block. -/
def Desc.sliceBytes (d : Desc) : Nat := 4 * d.slice * d.lanes

/-- The checks of RESUME (R380). -/
def State.imageOk (s : State) (l : Launch) (bs : List Byte) : Bool :=
  let d := l.desc
  let child := imgNum bs 0x38 4 % 2 == 1
  [(0, 0x07681A6E), (4, 1), (8, imageLen d), (0xC, groupSize d.vregs), (0x20, d.lanes), (0x24, d.vregs), (0x28, 128 * d.spad),
    (0x2C, 4 * d.slice), (0x30, d.bars)].all (fun p => imgNum bs p.1 4 == p.2)
    && (child || decide (imgNum bs 0x18 8 < l.nblk)) && gapsZero 0 (imageNamed d child) bs
    && (List.range (groupCount d.lanes)).all (fun i => groupOk bs (0x200 + i * groupSize d.vregs) (groupLanes d.lanes i).1)
    && s.inArena (imgNum bs 0x40 8) d.sliceBytes

/-- A split-table entry that a record holds. -/
def Rec.entry (r : Rec) (now : Nat) : Entry :=
  let fe := if r.lv then some r.link else none
  match r.kind with
  | 1 => .frag { newFrag r.hnd r.a1 r.a2 r.m1 fe now with st := match r.st with
      | 0 => .ready
      | 1 => .waiting
      | 2 => .pending
      | _ => .handler }
  | 2 => .fusion ⟨r.hnd, r.a1, r.m1, r.m2, fe⟩
  | _ => .free

/-- Deferral records in the order of SEQ. -/
def insDefer (r : Rec) : List Rec → List Rec
  | [] => [r]
  | x :: xs => if r.seq < x.seq then r :: x :: xs else x :: insDefer r xs

/-- The header of the block that an address of a code handle lies in, as the code stands: the nearest before it that covers it. -/
def State.findBlock (s : State) (c : Iss) (hnd pc : Nat) : Nat :=
  let at_ := fun (i : Nat) => pc / 8 * 8 - 8 * i
  ((List.range 513).find? (fun i => match s.unitAt c hnd (at_ i : Nat) with
    | .ok w => opField w == 0x1FE && (at_ i == pc || (decide (at_ i + 8 ≤ pc) &&
        decide (pc < at_ i + 4 * (w.extractLsb' 13 10).toNat)))
    | .error _ => false)).elim pc at_

/-- A group as its section holds it (R378, R380), the EXLW of a latched list at the saved TRAP.PC; the headers of its records' blocks are found afterwards. -/
def restoreGroup (bs : List Byte) (o now : Nat) (d : Desc) (i : Nat) (place : Nat × Nat) : Group :=
  let ls := groupLanes d.lanes i
  let cause := imgWord bs (o + 0x150)
  let defers := ((dfRecords bs o).map Prod.fst).filter (fun r => r.kind == 3)
  { sector := place.1, slot := place.2, lanes := ls.1, helpers := ls.2
    v := tab d.vregs (fun n => (n, tab 96 (fun L => imgWord bs (o + 0x3400 + 384 * n + 4 * L))))
    s := tab 29 (fun n => (n, imgWord bs (o + 4 * n)))
    k := tab 7 (fun n => (n + 1, imgMask bs (o + 0x80 + 16 * n)))
    tiles := tab 8 (fun n => (n, tab 256 (fun j => imgWord bs (o + 0x1400 + 1024 * n + 4 * j))))
    icnt := tab 96 (fun L => imgWord bs (o + 0x1100 + 4 * L))
    fl := ⟨imgMask bs (o + 0xF0), imgMask bs (o + 0x100), imgMask bs (o + 0x110), imgMask bs (o + 0x120), imgMask bs (o + 0x130)⟩
    drm := BitVec.ofNat 3 (imgNum bs (o + 0x140) 4), fpe := d.fpe, lastb := imgWord bs (o + 0x144), openSet := [], batches := []
    table := (stRecords bs o).mapIdx (fun e r => (e, r.1.entry now))
    defer := (defers.foldl (fun acc r => insDefer r acc) []).map (fun r => ⟨r.link, r.hnd, r.a1, r.a2, r.a2, r.m1, r.m2⟩)
    trap := ⟨cause.extractLsb' 24 8, cause.extractLsb' 8 8, cause.extractLsb' 0 8, (imgWord bs (o + 0x154)).extractLsb' 0 27,
      imgMask bs (o + 0x158), (imgWord bs (o + 0x164)).extractLsb' 0 7, imgWord bs (o + 0x168), 0, false,
      tab (imgNum bs (o + 0x16C) 4) (fun j =>
        let w := BitVec.ofNat 64 (imgNum bs (o + 0x800 + 24 * j) 8)
        ⟨w, opField (w.extractLsb' 0 32) == 0x1FF, imgMask bs (o + 0x808 + 24 * j)⟩),
      imgNum bs (o + 0x154) 4, none⟩
    barArr := tab 16 (fun n => (n, imgMask bs (o + 0x180 + 16 * n))), barWait := [], clArr := 0, exitAt := 0, perf := [], seen := [] }

/-- A restored group with the headers of its trapped block and of its deferred blocks. -/
def State.findHeaders (s : State) (gid : Nat) : State :=
  match s.issOf gid 0 with
  | none => s
  | some c =>
    s.modGroup gid (fun g => { g with
      trap := { g.trap with blk := s.findBlock c g.trap.ch.toNat g.trap.pc.toNat }
      defer := g.defer.map (fun d => { d with blk := s.findBlock c d.hnd d.pcn }) })

end Sys2Proof.Machine
end

