-- ==== Sys2Proof/Machine/Transc.lean ====
section
/-! DEFINITION. The transcendental entries (R130): FEXP2, FLOG2, FSIN, FCOS and FTANH of the short formats. Each is computed in
fixed point with 320 fraction bits, far below the spacing of any short format, and handed to `Round` as a value with a bit that
says the exact result is not representable (UNVERIFIED, assumption 10: no result lies so near a rounding boundary that 300 bits
do not decide it). -/

namespace Sys2Proof.Machine

/-- Fraction bits of the fixed-point values. -/
def fxW : Nat := 320

/-- The fixed-point product. -/
def fxMul (x y : Int) : Int := (x * y) / 2 ^ fxW

/-- Taylor terms of e^y from the k-th on: `t` is the term y^k / k!. -/
def expSeries (y : Int) : Nat → Nat → Int → Int → Int
  | 0, _, _, acc => acc
  | n + 1, k, t, acc => expSeries y n (k + 1) (fxMul t y / (k + 1 : Nat)) (acc + t)

/-- e^y in fixed point, for |y| < 1. -/
def fxExp (y : Int) : Int := expSeries y 90 0 (2 ^ fxW) 0

/-- Terms of Σ t^(2j+1) / (2j+1). -/
def atanhSeries (t2 : Int) : Nat → Nat → Int → Int → Int
  | 0, _, _, acc => acc
  | n + 1, k, p, acc => atanhSeries t2 n (k + 2) (fxMul p t2) (acc + p / (k : Nat))

/-- ln(num / den) in fixed point, for 1 ≤ num / den ≤ 2: 2 artanh((num - den) / (num + den)). -/
def fxLn (num den : Nat) : Int :=
  let t : Int := (((num - den) <<< fxW) / (num + den) : Nat)
  2 * atanhSeries (fxMul t t) 110 1 t 0

/-- ln 2. -/
def fxLn2 : Int := fxLn 2 1

/-- Terms of the sine (k = 1) or cosine (k = 0) series: `t` is y^k / k!. -/
def sinSeries (y2 : Int) : Nat → Nat → Int → Int → Int
  | 0, _, _, acc => acc
  | n + 1, k, t, acc => sinSeries y2 n (k + 2) (-(fxMul t y2) / ((k + 1) * (k + 2) : Nat)) (acc + t)

def fxSin (y : Int) : Int := sinSeries (fxMul y y) 60 1 y 0
def fxCos (y : Int) : Int := sinSeries (fxMul y y) 60 0 (2 ^ fxW) 0

/-- π with 512 fraction bits. -/
def piBits : Nat := 0x3243F6A8885A308D313198A2E03707344A4093822299F31D0082EFA98EC4E6C89452821E638D01377BE5466CF34E90C6CC0AC29B7C97C50DD3F84D5B5B5470917

/-- A fixed-point magnitude as an inexact result. -/
def fxResult (neg : Bool) (v : Nat) : Exact := .num neg (v >>> 16) (16 - (fxW : Int)) true

/-- A result just below 1. -/
def belowOne (neg : Bool) : Exact := .num neg (2 ^ 100 - 1) (-100) true

/-- A result of the sign and just below the magnitude m × 2^e. -/
def justBelow (neg : Bool) (m : Nat) (e : Int) : Exact := .num neg (m <<< 64 - 1) (e - 64) true

/-- Whether m × 2^e < 2^n, for m ≠ 0. -/
def belowPow (m : Nat) (e n : Int) : Bool := decide ((Nat.log2 m : Int) + e < n)

/-- m × 2^e as a fixed-point number with w fraction bits, when it has no bits below. -/
def fxOf (w : Nat) (m : Nat) (e : Int) : Nat :=
  if 0 ≤ e + (w : Int) then m <<< (e + (w : Int)).toNat else m >>> (-(e + (w : Int))).toNat

/-- 2^a (R130). -/
def opExp2 (a : FV) : Exact × Exc :=
  match a with
  | .nan _ => nanOf [a]
  | .inf n => if n then (.zero false, 0) else (.limit false, 0)
  | .fin n m e =>
    if m = 0 then (.num false 1 0 false, 0)
    else if !belowPow m e 12 then (if n then (.num false 1 (-5000) true, 0) else (.num false 1 5000 true, 0))
    else
      let x : Int := if n then -(fxOf fxW m e : Int) else (fxOf fxW m e : Int)
      let k := x / 2 ^ fxW
      let f := x % 2 ^ fxW
      if f = 0 then (.num false 1 k false, 0)
      else (.num false ((fxExp (fxMul f fxLn2)).toNat >>> 16) (k + 16 - (fxW : Int)) true, 0)

/-- log₂ a (R130). The exact zero of log₂ 1 is +0 in every mode: R126 does not name its sign (DESIGN CHOICE, assumption 60). -/
def opLog2 (a : FV) : Exact × Exc :=
  match a with
  | .nan _ => nanOf [a]
  | .inf n => if n then (.nan, excNV) else (.limit false, 0)
  | .fin n m e =>
    if m = 0 then (.limit true, excDZ)
    else if n then (.nan, excNV)
    else
      let b := Nat.log2 m
      let k := e + (b : Int)
      if m = 2 ^ b then (ofInt k, 0)
      else
        let l := fxLn m (2 ^ b) * 2 ^ fxW / fxLn2
        let v := k * 2 ^ fxW + l
        (fxResult (decide (v < 0)) v.natAbs, 0)

/-- The argument less the nearest multiple of π/2, in fixed point, and that multiple modulo 4. -/
def reduce (m : Nat) (e : Int) : Int × Nat :=
  let x := fxOf 512 m e
  let h := piBits / 2
  let q := (2 * x + h) / (2 * h)
  -- π/2 has 512 fraction bits: the product q × π/2 is exact to 2^-380 for q below 2^130
  (((x : Int) - (q : Int) * (h : Int)) / 2 ^ (512 - fxW), q % 4)

/-- The sign and magnitude of a fixed-point value, joined with a sign. -/
def fxSigned (neg : Bool) (v : Int) : Exact := fxResult (neg ^^ decide (v < 0)) v.natAbs

/-- sin a, a in radians (R130). -/
def opSin (a : FV) : Exact × Exc :=
  match a with
  | .nan _ => nanOf [a]
  | .inf _ => (.nan, excNV)
  | .fin n m e =>
    if m = 0 then (.zero n, 0)
    else if belowPow m e (-60) then (justBelow n m e, 0)
    else
      let r := reduce m e
      (match r.2 with
        | 0 => fxSigned n (fxSin r.1)
        | 1 => fxSigned n (fxCos r.1)
        | 2 => fxSigned (!n) (fxSin r.1)
        | _ => fxSigned (!n) (fxCos r.1), 0)

/-- cos a (R130). -/
def opCos (a : FV) : Exact × Exc :=
  match a with
  | .nan _ => nanOf [a]
  | .inf _ => (.nan, excNV)
  | .fin _ m e =>
    if m = 0 then (.num false 1 0 false, 0)
    else if belowPow m e (-100) then (belowOne false, 0)
    else
      let r := reduce m e
      (match r.2 with
        | 0 => fxSigned false (fxCos r.1)
        | 1 => fxSigned true (fxSin r.1)
        | 2 => fxSigned true (fxCos r.1)
        | _ => fxSigned false (fxSin r.1), 0)

/-- x squared n times. -/
def fxSquares : Nat → Int → Int
  | 0, x => x
  | n + 1, x => fxSquares n (fxMul x x)

/-- tanh a (R130): (1 - w) / (1 + w) with w = e^(-2|a|) = (e^(-|a|/128))^256. -/
def opTanh (a : FV) : Exact × Exc :=
  match a with
  | .nan _ => nanOf [a]
  | .inf n => (.num n 1 0 false, 0)
  | .fin n m e =>
    if m = 0 then (.zero n, 0)
    else if belowPow m e (-60) then (justBelow n m e, 0)
    else if !belowPow m e 6 then (belowOne n, 0)
    else
      let w := fxSquares 8 (fxExp (-((fxOf fxW m e / 128 : Nat) : Int)))
      let one : Int := 2 ^ fxW
      (fxResult n ((one - w) * one / (one + w)).toNat, 0)

end Sys2Proof.Machine
end

