-- ==== Sys2Proof/Machine/FloatOps.lean ====
section
/-! DEFINITION. The floating-point, conversion and NX4 instructions (R122 to R142). -/

namespace Sys2Proof.Machine

/-- The format of a float type. -/
def Ty.fmt : Ty → Fmt
  | .f64 => fmt64
  | .f16x2 => fmt16
  | .bf16x2 => fmtB16
  | _ => fmt32

/-- The draw of an element when the mode is stochastic; another mode uses none (R62). -/
def Iss.u (c : Iss) (mode L i : Nat) : Nat := if mode = 5 then c.draw L i else 0

/-- Element encodings put in place. -/
def Ty.place (ty : Ty) (f : Nat → Nat) : DWord :=
  if ty.count = 2 then BitVec.ofNat 64 (f 0 + 65536 * f 1) else BitVec.ofNat 64 (f 0)

/-- The exceptions of all the elements of a lane (R123). -/
def Ty.excs (ty : Ty) (f : Nat → Exc) : Exc := (List.range ty.count).foldl (fun m i => m ||| f i) 0

/-- Operand a's element after Mod (R126). -/
def Iss.fa (c : Iss) (e : Enc) (ty : Ty) (L i : Nat) : Nat := ty.fmt.mod (ty.raw (c.a e ty L) i) e.p.aa e.p.na
/-- Operand b's element after Mod (R125). -/
def Iss.fb (c : Iss) (e : Enc) (ty : Ty) (L i : Nat) : Nat := ty.fmt.mod (ty.raw (c.b' e ty L) i) false e.p.nb

/-- The common floating-point effect (R125): each Active lane's result and exceptions. -/
def State.fvec (s : State) (c : Iss) (e : Enc) (wide : Bool) (f : Nat → DWord × Exc) : State :=
  let active := c.active e
  let rs := (lanesOf active).map (fun L => (L, f L))
  s.finishFp c e active (rs.map (fun r => (r.1, r.2.2)))
    (c.putVec e c.eff wide active (rs.map (fun r => (r.1, r.2.1))))

/-- An operation on values in a mode, with a draw: the exact result and the exceptions of the entry. -/
abbrev FOp := Nat → Nat → FV → FV → FV → Exact × Exc

/-- An instruction of R124 whose result has the variant's format. -/
def State.fop (s : State) (c : Iss) (e : Enc) (op : FOp) : State :=
  let ty := floatTy e.var
  let f := ty.fmt
  let m := c.mode e
  s.fvec c e ty.wide (fun L =>
    let r := fun (i : Nat) =>
      f.finish m e.p.sat (c.u m L i) (op m (c.u m L i) (f.unpack (c.fa e ty L i)) (f.unpack (c.fb e ty L i))
        (f.unpack (ty.raw (c.d e ty L) i)))
    (ty.place (fun i => (r i).1), ty.excs (fun i => (r i).2)))

/-- FMIN and FMAX (R128). -/
def State.fminmax (s : State) (c : Iss) (e : Enc) (isMax : Bool) : State :=
  let ty := floatTy e.var
  s.fvec c e ty.wide (fun L =>
    let r := fun (i : Nat) => ty.fmt.minmax isMax (c.fa e ty L i) (c.fb e ty L i)
    (ty.place (fun i => (r i).1), ty.excs (fun i => (r i).2)))

/-- FCMP (R129). -/
def State.fcmp (s : State) (c : Iss) (e : Enc) (cc : FCmp) : State :=
  let ty := floatTy e.var
  let active := c.active e
  let r := fun (L i : Nat) => cc.eval (ty.fmt.unpack (c.fa e ty L i)) (ty.fmt.unpack (c.fb e ty L i))
  let truth := maskOf (fun L => bitOf active L && (List.range ty.count).all (fun i => (r L i).1))
  s.finishFp c e active ((lanesOf active).map (fun L => (L, ty.excs (fun i => (r L i).2))))
    (c.putMask e c.eff active truth)

/-- FCLASS (R133). -/
def State.fclass (s : State) (c : Iss) (e : Enc) : State :=
  let ty := floatTy e.var
  s.fvec c e false (fun L => (ty.place (fun i => ty.fmt.classOf (c.fa e ty L i)), 0))

/-- FSCALE (R134). ±∞ is returned unchanged, or as ±max under SAT (R61). -/
def State.fscale (s : State) (c : Iss) (e : Enc) : State :=
  let ty := floatTy e.var
  let f := ty.fmt
  let m := c.mode e
  let bTy : Ty := if ty.count = 2 then .i16x2 else .i32
  s.fvec c e ty.wide (fun L =>
    let r := fun (i : Nat) =>
      let a := f.unpack (c.fa e ty L i)
      let n := bTy.val (c.b' e bTy L) i
      f.finish m e.p.sat (c.u m L i) (opScale a (if e.p.nb then -n else n))
    (ty.place (fun i => (r i).1), ty.excs (fun i => (r i).2)))

/-- FDOT2 (R135). -/
def State.fdot2 (s : State) (c : Iss) (e : Enc) : State :=
  let ty := floatTy e.var
  let m := c.mode e
  let f := ty.fmt
  s.fvec c e false (fun L =>
    let p := fun (i : Nat) => (f.unpack (c.fa e ty L i), f.unpack (c.fb e ty L i))
    let d := fmt32.unpack ((c.d e .f32 L).toNat % 2 ^ 32)
    let r := fmt32.finish m e.p.sat (c.u m L 0) (opDot m [p 0, p 1] d)
    (BitVec.ofNat 64 r.1, r.2))

/-- A float target of R136: format, and bits an element takes in the destination (R137). -/
def floatSel (code : Code) : Fmt × Nat :=
  match code.toNat with
  | 0x70 => (fmt16, 16)
  | 0x71 => (fmtB16, 16)
  | 0x72 => (fmt64, 64)
  | 0x73 => (fmtE4, 8)
  | 0x74 => (fmtE5, 8)
  | _ => (fmt32, 32)

/-- FCVT's source (R137): how A is read, its element format and width, and how many elements there are. An FP8 source is read as raw bits,
the codes 0x70 to 0x77 as the integer they stand for (DESIGN CHOICE, assumption 64). -/
def cvtSrc (e : Enc) : Ty × Fmt × Nat × Nat :=
  match e.b.toNat with
  | 0x75 => (.n32, fmtE4, 8, if e.var = 1 ∨ e.var = 2 then 2 else 1)
  | 0x76 => (.n32, fmtE5, 8, if e.var = 1 ∨ e.var = 2 then 2 else 1)
  | _ => let ty := floatTy e.var; (ty, ty.fmt, ty.bits, ty.count)

/-- FCVT's target: format and bits per element. -/
def cvtDst (e : Enc) : Fmt × Nat :=
  if e.b = 0x75 ∨ e.b = 0x76 then ((floatTy e.var).fmt, (floatTy e.var).bits) else floatSel e.b

/-- What FCVT rounds (R137): the source's value; a conversion from FP8 raises no flag. -/
def cvtExact (e : Enc) (a : FV) : Exact × Exc :=
  match a with
  | .inf n => (if e.b = 0x75 ∨ e.b = 0x76 then .limit n else .inf n, 0)
  | a => opCvt a

/-- FCVT (R137). -/
def State.fcvt (s : State) (c : Iss) (e : Enc) : State :=
  let src := cvtSrc e
  let dst := cvtDst e
  let m := c.mode e
  s.fvec c e (decide (32 < dst.2 * src.2.2.2)) (fun L =>
    let a := (c.a e src.1 L).toNat
    let r := fun (i : Nat) =>
      let x := src.2.1.mod ((a >>> (src.2.2.1 * i)) % 2 ^ src.2.2.1) e.p.aa e.p.na
      dst.1.finish m e.p.sat (c.u m L i) (cvtExact e (src.2.1.unpack x))
    let n := List.range src.2.2.2
    (BitVec.ofNat 64 ((n.map (fun i => (r i).1 <<< (dst.2 * i))).sum), n.foldl (fun x i => x ||| (r i).2) 0))

/-- The integer types of R136. -/
def intSel (code : Code) : Ty :=
  match code.toNat with
  | 0x70 => .n32
  | 0x71 => .i64
  | 0x72 => .i16x2
  | _ => .i32

/-- FCVTI (R138). -/
def State.fcvti (s : State) (c : Iss) (e : Enc) : State :=
  let ty := floatTy e.var
  let dt := intSel e.b
  let m := c.mode e
  s.fvec c e dt.wide (fun L =>
    let r := fun (i : Nat) => toInt m (c.u m L i) dt.lo dt.hi (ty.fmt.unpack (c.fa e ty L i))
    (dt.join false (fun i => (r i).1), ty.excs (fun i => (r i).2)))

/-- ICVTF (R139). -/
def State.icvtf (s : State) (c : Iss) (e : Enc) : State :=
  let ty := floatTy e.var
  let st := intSel e.b
  let m := c.mode e
  s.fvec c e ty.wide (fun L =>
    let r := fun (i : Nat) => ty.fmt.finish m false (c.u m L i) (ofInt (st.val (c.a e st L) i), 0)
    (ty.place (fun i => (r i).1), ty.excs (fun i => (r i).2)))

/-- The four binary32 words FPACK reads for an FP8 target (R140): a code that is no register supplies both words of its pair. -/
def packWord (code : Code) (single pair : DWord) (i : Nat) : Nat :=
  if code.toNat < 0x60 then (pair.toNat >>> (32 * i)) % 2 ^ 32 else single.toNat % 2 ^ 32

/-- FPACK (R140). -/
def State.fpack (s : State) (c : Iss) (e : Enc) : State :=
  let dst := floatSel e.p.d4
  let m := c.mode e
  s.fvec c e false (fun L =>
    let wa := fun (i : Nat) => fmt32.mod (packWord e.a (c.a e .f32 L) (c.a e .f64 L) i) e.p.aa e.p.na
    let wb := fun (i : Nat) => fmt32.mod (packWord e.b (c.b' e .f32 L) (c.b' e .f64 L) i) false e.p.nb
    let xs := if dst.2 = 16 then [wa 0, wb 0] else [wa 0, wa 1, wb 0, wb 1]
    let rs := xs.mapIdx (fun i x => (i, dst.1.finish m e.p.sat (c.u m L i) (opCvt (fmt32.unpack x))))
    (BitVec.ofNat 64 ((rs.map (fun r => r.2.1 <<< (dst.2 * r.1))).sum), rs.foldl (fun x r => x ||| r.2.2) 0))

/-- NXENC (R141): one block from each beat. -/
def State.nxenc (s : State) (c : Iss) (e : Enc) : State :=
  let contrib := c.contrib (c.active e)
  let x := fun (L : Nat) => if bitOf contrib L then (c.g.vGet e.a.toNat L).toNat else 0
  let blk := fun (beat : Nat) => nx4Encode (tab 32 (fun p => x (32 * beat + p)))
  let bs := [blk 0, blk 1, blk 2]
  s.fvec c e true (fun L =>
    let b := bs.getD (L / 32) ⟨0, 0, 0⟩
    let bad := 0x7F80_0000 ≤ x L % 2 ^ 31
    let exc : Exc :=
      if b.c = 255 then (if bad then excNV else 0)
      else if bitOf contrib L && b.lossy (L % 32) (x L) then excNX else 0
    (b.ctl ++ b.word (L % 32), exc))

/-- NXDEC (R142), a and b read as raw 32-bit words whatever supplies them (DESIGN CHOICE, assumption 19). -/
def State.nxdec (s : State) (c : Iss) (e : Enc) : State :=
  let ty := floatTy e.var
  s.fvec c e false (fun L =>
    let a := (c.a e .n32 L).toNat
    let b := (c.b' e .n32 L).toNat
    let k := b % 8
    let r := fun (i : Nat) => nx4Decode ty.fmt a (if ty.count = 2 then 2 * (k / 2) + i else k) (b / 256 % 256) (b / 65536 % 256)
    (ty.place (fun i => (r i).1), ty.excs (fun i => (r i).2)))

/-- R124, R125 -/
def execFadd (e : Enc) (s : State) : Out := issuing (.fadd e) s (fun c => s.fop c e (fun m _ a b _ => opAdd m a b))
/-- R124, R125 -/
def execFsub (e : Enc) (s : State) : Out := issuing (.fsub e) s (fun c => s.fop c e (fun m _ a b _ => opSub m a b))
/-- R124, R125 -/
def execFmul (e : Enc) (s : State) : Out := issuing (.fmul e) s (fun c => s.fop c e (fun _ _ a b _ => opMul a b))
/-- R124, R125 -/
def execFfma (e : Enc) (s : State) : Out := issuing (.ffma e) s (fun c => s.fop c e (fun m _ a b d => opDot m [(a, b)] d))
/-- R128 -/
def execFmin (e : Enc) (s : State) : Out := issuing (.fmin e) s (fun c => s.fminmax c e false)
/-- R128 -/
def execFmax (e : Enc) (s : State) : Out := issuing (.fmax e) s (fun c => s.fminmax c e true)
/-- R129 -/
def execFcmpEq (e : Enc) (s : State) : Out := issuing (.fcmpEq e) s (fun c => s.fcmp c e .eq)
/-- R129 -/
def execFcmpNe (e : Enc) (s : State) : Out := issuing (.fcmpNe e) s (fun c => s.fcmp c e .ne)
/-- R129 -/
def execFcmpLt (e : Enc) (s : State) : Out := issuing (.fcmpLt e) s (fun c => s.fcmp c e .lt)
/-- R129 -/
def execFcmpLe (e : Enc) (s : State) : Out := issuing (.fcmpLe e) s (fun c => s.fcmp c e .le)
/-- R129 -/
def execFcmpGt (e : Enc) (s : State) : Out := issuing (.fcmpGt e) s (fun c => s.fcmp c e .gt)
/-- R129 -/
def execFcmpGe (e : Enc) (s : State) : Out := issuing (.fcmpGe e) s (fun c => s.fcmp c e .ge)
/-- R129 -/
def execFcmpUn (e : Enc) (s : State) : Out := issuing (.fcmpUn e) s (fun c => s.fcmp c e .un)
/-- R129 -/
def execFcmpOr (e : Enc) (s : State) : Out := issuing (.fcmpOr e) s (fun c => s.fcmp c e .or)
/-- R130 -/
def execFrcp (e : Enc) (s : State) : Out := issuing (.frcp e) s (fun c => s.fop c e (fun _ _ a _ _ => opRcp a))
/-- R130 -/
def execFrsq (e : Enc) (s : State) : Out := issuing (.frsq e) s (fun c => s.fop c e (fun _ _ a _ _ => opRsq a))
/-- R130 -/
def execFsqrt (e : Enc) (s : State) : Out := issuing (.fsqrt e) s (fun c => s.fop c e (fun _ _ a _ _ => opSqrt a))
/-- R130 -/
def execFdiv (e : Enc) (s : State) : Out := issuing (.fdiv e) s (fun c => s.fop c e (fun _ _ a b _ => opDiv a b))
/-- R130 -/
def execFexp2 (e : Enc) (s : State) : Out := issuing (.fexp2 e) s (fun c => s.fop c e (fun _ _ a _ _ => opExp2 a))
/-- R130 -/
def execFlog2 (e : Enc) (s : State) : Out := issuing (.flog2 e) s (fun c => s.fop c e (fun _ _ a _ _ => opLog2 a))
/-- R130 -/
def execFsin (e : Enc) (s : State) : Out := issuing (.fsin e) s (fun c => s.fop c e (fun _ _ a _ _ => opSin a))
/-- R130 -/
def execFcos (e : Enc) (s : State) : Out := issuing (.fcos e) s (fun c => s.fop c e (fun _ _ a _ _ => opCos a))
/-- R130 -/
def execFtanh (e : Enc) (s : State) : Out := issuing (.ftanh e) s (fun c => s.fop c e (fun _ _ a _ _ => opTanh a))
/-- R132 -/
def execFrnd (e : Enc) (s : State) : Out := issuing (.frnd e) s (fun c => s.fop c e (fun m u a _ _ => opRnd m u a))
/-- R137 -/
def execFcvt (e : Enc) (s : State) : Out := issuing (.fcvt e) s (fun c => s.fcvt c e)
/-- R138 -/
def execFcvti (e : Enc) (s : State) : Out := issuing (.fcvti e) s (fun c => s.fcvti c e)
/-- R139 -/
def execIcvtf (e : Enc) (s : State) : Out := issuing (.icvtf e) s (fun c => s.icvtf c e)
/-- R133 -/
def execFclass (e : Enc) (s : State) : Out := issuing (.fclass e) s (fun c => s.fclass c e)
/-- R134 -/
def execFscale (e : Enc) (s : State) : Out := issuing (.fscale e) s (fun c => s.fscale c e)
/-- R135 -/
def execFdot2 (e : Enc) (s : State) : Out := issuing (.fdot2 e) s (fun c => s.fdot2 c e)
/-- R140 -/
def execFpack (e : Enc) (s : State) : Out := issuing (.fpack e) s (fun c => s.fpack c e)
/-- R141 -/
def execNxenc (e : Enc) (s : State) : Out := issuing (.nxenc e) s (fun c => s.nxenc c e)
/-- R142 -/
def execNxdec (e : Enc) (s : State) : Out := issuing (.nxdec e) s (fun c => s.nxdec c e)

end Sys2Proof.Machine
end

