-- ==== Sys2Proof/Machine/Lane.lean ====
section
/-! DEFINITION. Quad and lane exchange, reductions, scans, match and first (R114 to R120). -/

namespace Sys2Proof.Machine

/-- V[A] of lane j as the exchange instructions read it (R115): zero beyond lane 95 and for a lane that does not exist. -/
def Iss.fromLane (c : Iss) (e : Enc) (ty : Ty) (j : Nat) : DWord :=
  c.readVec e.a.toNat (if j < 96 && bitOf c.g.lanes j then some j else none) ty

/-- An exchange (R114, R115): the lane each lane reads, from L and the index operand. -/
def State.exchange (s : State) (c : Iss) (e : Enc) (j : Nat → Word → Nat) : State :=
  let ty := intTy e.var
  s.vec c e ty.wide (fun L => c.fromLane e ty (j L ((c.b' e .n32 L).extractLsb' 0 32)))

/-- The integer reductions of R116. -/
inductive Red where
  | add | min | max | and | or | xor
  deriving DecidableEq, Repr

/-- An element as the reduction reads it. -/
def Red.get (r : Red) (ty : Ty) (x : DWord) (i : Nat) : Int :=
  match r with
  | .and | .or | .xor => (ty.raw x i : Nat)
  | _ => ty.val x i

/-- The identity (R116). -/
def Red.ident (r : Red) (ty : Ty) : Int :=
  match r with
  | .min => ty.hi
  | .max => ty.lo
  | .and => 2 ^ ty.bits - 1
  | _ => 0

/-- The exact combination (R116). -/
def Red.comb (r : Red) (x y : Int) : Int :=
  match r with
  | .add => x + y
  | .min => Min.min x y
  | .max => Max.max x y
  | .and => (x.toNat &&& y.toNat : Nat)
  | .or => (x.toNat ||| y.toNat : Nat)
  | .xor => (x.toNat ^^^ y.toNat : Nat)

/-- The combination of element i over lanes. -/
def Iss.reduce (c : Iss) (e : Enc) (r : Red) (ty : Ty) (lanes : List Nat) (i : Nat) : Int :=
  lanes.foldl (fun acc L => r.comb acc (r.get ty (c.a e ty L) i)) (r.ident ty)

/-- LRED with an integer operation (R117): Clamp or Wrap once, at the exact total. -/
def State.lred (s : State) (c : Iss) (e : Enc) (r : Red) : State :=
  let ty := intTy e.var
  let ls := lanesOf (c.contrib (c.active e))
  let w := ty.join e.p.sat (fun i => c.reduce e r ty ls i)
  s.vec c e ty.wide (fun _ => w)

/-- LSCAN with an integer operation (R118). -/
def State.lscan (s : State) (c : Iss) (e : Enc) (r : Red) : State :=
  let ty := intTy e.var
  let ls := lanesOf (c.contrib (c.active e))
  s.vec c e ty.wide (fun L => ty.join e.p.sat (fun i => c.reduce e r ty (ls.filter (fun j => j ≤ L)) i))

/-- The float reductions of R116. -/
inductive FRed where
  | add | min | max
  deriving DecidableEq, Repr

def FRed.ident (r : FRed) (f : Fmt) : Nat :=
  match r with
  | .add => f.zero true
  | .min => f.infVal false
  | .max => f.infVal true

/-- Combine, rounded in the mode with the draw u (R116). -/
def FRed.comb (r : FRed) (f : Fmt) (mode u x y : Nat) : Nat × Exc :=
  match r with
  | .add => f.finish mode false u (opAdd mode (f.unpack x) (f.unpack y))
  | .min => f.minmax false x y
  | .max => f.minmax true x y

/-- One level of the tree: neighbours combined, numbered from j on (R116, R117). -/
def pairUp (comb : Nat → Nat → Nat → Nat × Exc) : Nat → List Nat → List (Nat × Exc)
  | j, x :: y :: t => comb j x y :: pairUp comb (j + 1) t
  | _, _ => []

/-- The tree of LRED over 96 positions (R117). -/
def redTree (comb : Nat → Nat → Nat → Nat × Exc) (xs : List Nat) : Nat × Exc :=
  let t := (List.range 5).foldl (fun (acc : Nat × List Nat × Exc) _ =>
    let r := pairUp comb acc.1 acc.2.1
    (acc.1 + r.length, r.map Prod.fst, r.foldl (fun m p => m ||| p.2) acc.2.2)) (0, xs, 0)
  let p := comb 93 (t.2.1.getD 0 0) (t.2.1.getD 1 0)
  let q := comb 94 p.1 (t.2.1.getD 2 0)
  (q.1, t.2.2 ||| p.2 ||| q.2)

/-- LRED with a float operation (R117, R120): draws in the lowest Active lane (R116). -/
def State.lredF (s : State) (c : Iss) (e : Enc) (r : FRed) : State :=
  let ty := floatTy e.var
  let f := ty.fmt
  let m := c.mode e
  let contrib := c.contrib (c.active e)
  let low := (lowLane? (c.active e)).getD 0
  let el := fun (i : Nat) => redTree (fun j => r.comb f m (c.u m low (96 * i + j)))
    (tab 96 (fun L => if bitOf contrib L then ty.raw (c.a e ty L) i else r.ident f))
  let rs := tab ty.count el
  let w := ty.place (fun i => (rs.getD i (0, 0)).1)
  let x := rs.foldl (fun m p => m ||| p.2) 0
  s.fvec c e ty.wide (fun _ => (w, x))

/-- LSCAN with a float operation (R118, R120): each step takes its own draw (R116). -/
def State.lscanF (s : State) (c : Iss) (e : Enc) (r : FRed) : State :=
  let ty := floatTy e.var
  let f := ty.fmt
  let m := c.mode e
  let ls := lanesOf (c.contrib (c.active e))
  s.fvec c e ty.wide (fun L =>
    let el := fun (i : Nat) => (ls.filter (fun j => j ≤ L)).foldl (fun (acc : Nat × Exc) j =>
      let q := r.comb f m (c.u m L (96 * i + j)) acc.1 (ty.raw (c.a e ty j) i)
      (q.1, acc.2 ||| q.2)) (r.ident f, 0)
    let rs := tab ty.count el
    (ty.place (fun i => (rs.getD i (0, 0)).1), rs.foldl (fun m p => m ||| p.2) 0))

/-- LMATCH (R119): the least lane of Contrib with the same bits, or the lane itself. -/
def State.lmatch (s : State) (c : Iss) (e : Enc) : State :=
  let ty := intTy e.var
  let ls := lanesOf (c.contrib (c.active e))
  s.vec c e ty.wide (fun L =>
    BitVec.ofNat 64 ((ls.find? (fun j => c.a e ty j == c.a e ty L)).getD L))

/-- LFIRST (R119): the value of the least lane of Contrib, or all ones. -/
def State.lfirst (s : State) (c : Iss) (e : Enc) : State :=
  let ty := intTy e.var
  let w := match lowLane? (c.contrib (c.active e)) with
    | some j => c.a e ty j
    | none => BitVec.allOnes 64
  s.vec c e ty.wide (fun _ => w)

/-- R114 -/
def execQswz (e : Enc) (s : State) : Out :=
  issuing (.qswz e) s (fun c => s.exchange c e (fun L p => 4 * (L / 4) + (p >>> (2 * (L % 4))).toNat % 4))
/-- R114 -/
def execQbc (e : Enc) (s : State) : Out := issuing (.qbc e) s (fun c => s.exchange c e (fun L i => 4 * (L / 4) + i.toNat % 4))
/-- R114 -/
def execLshf (e : Enc) (s : State) : Out := issuing (.lshf e) s (fun c => s.exchange c e (fun _ i => i.toNat))
/-- R114 -/
def execLrot (e : Enc) (s : State) : Out :=
  issuing (.lrot e) s (fun c => s.exchange c e (fun L n => (((L : Int) + n.toInt) % 96).toNat))
/-- R114 -/
def execLbc (e : Enc) (s : State) : Out := issuing (.lbc e) s (fun c => s.exchange c e (fun _ i => i.toNat))
/-- R117 -/
def execLredAdd (e : Enc) (s : State) : Out := issuing (.lredAdd e) s (fun c => s.lred c e .add)
/-- R117 -/
def execLredMin (e : Enc) (s : State) : Out := issuing (.lredMin e) s (fun c => s.lred c e .min)
/-- R117 -/
def execLredMax (e : Enc) (s : State) : Out := issuing (.lredMax e) s (fun c => s.lred c e .max)
/-- R117 -/
def execLredAnd (e : Enc) (s : State) : Out := issuing (.lredAnd e) s (fun c => s.lred c e .and)
/-- R117 -/
def execLredOr (e : Enc) (s : State) : Out := issuing (.lredOr e) s (fun c => s.lred c e .or)
/-- R117 -/
def execLredXor (e : Enc) (s : State) : Out := issuing (.lredXor e) s (fun c => s.lred c e .xor)
/-- R117 -/
def execLredFadd (e : Enc) (s : State) : Out := issuing (.lredFadd e) s (fun c => s.lredF c e .add)
/-- R117 -/
def execLredFmin (e : Enc) (s : State) : Out := issuing (.lredFmin e) s (fun c => s.lredF c e .min)
/-- R117 -/
def execLredFmax (e : Enc) (s : State) : Out := issuing (.lredFmax e) s (fun c => s.lredF c e .max)
/-- R118 -/
def execLscanAdd (e : Enc) (s : State) : Out := issuing (.lscanAdd e) s (fun c => s.lscan c e .add)
/-- R118 -/
def execLscanMin (e : Enc) (s : State) : Out := issuing (.lscanMin e) s (fun c => s.lscan c e .min)
/-- R118 -/
def execLscanMax (e : Enc) (s : State) : Out := issuing (.lscanMax e) s (fun c => s.lscan c e .max)
/-- R118 -/
def execLscanAnd (e : Enc) (s : State) : Out := issuing (.lscanAnd e) s (fun c => s.lscan c e .and)
/-- R118 -/
def execLscanOr (e : Enc) (s : State) : Out := issuing (.lscanOr e) s (fun c => s.lscan c e .or)
/-- R118 -/
def execLscanXor (e : Enc) (s : State) : Out := issuing (.lscanXor e) s (fun c => s.lscan c e .xor)
/-- R118 -/
def execLscanFadd (e : Enc) (s : State) : Out := issuing (.lscanFadd e) s (fun c => s.lscanF c e .add)
/-- R118 -/
def execLscanFmin (e : Enc) (s : State) : Out := issuing (.lscanFmin e) s (fun c => s.lscanF c e .min)
/-- R118 -/
def execLscanFmax (e : Enc) (s : State) : Out := issuing (.lscanFmax e) s (fun c => s.lscanF c e .max)
/-- R119 -/
def execLmatch (e : Enc) (s : State) : Out := issuing (.lmatch e) s (fun c => s.lmatch c e)
/-- R119 -/
def execLfirst (e : Enc) (s : State) : Out := issuing (.lfirst e) s (fun c => s.lfirst c e)

end Sys2Proof.Machine
end

