-- ==== Sys2Proof/Machine/EngineOps.lean ====
section
/-! DEFINITION. Engine threads (R207, R219, R220, R224, R225, R230, R236 to R238): what they read, write and complete. -/

namespace Sys2Proof.Machine

/-- The writer's number of an engine thread in a dirty guest's list, apart from every group's. -/
def engKey (id : Nat) : Nat := 2 ^ 40 + id

/-- A page that a decant has frozen holds new accesses (R346). -/
def State.frozen (s : State) (ctx va : Nat) : Bool :=
  s.decants.any (fun p => p.2.frozen && p.2.ctx == ctx && decide (p.2.va ≤ va) && decide (va < p.2.va + p.2.size))

/-- Where a byte of an end lies for an access: a place, a wait while its page is frozen, or LEASE (R337, R346). -/
inductive EndLoc where
  | at_ (l : Loc)
  | wait
  | lease
  deriving DecidableEq, Repr

/-- Byte `off` of an end of a transfer (R165, R166). -/
def State.endLoc (s : State) (e : Engine) (p : EndPt) (off : Nat) (acc : Acc) : EndLoc :=
  if (match p with | .va a => s.frozen e.ctx (a + off) | _ => false) then .wait
  else match s.endAt e p off with
    | some (l, none) => .at_ l
    | some (l, some f) => if f.allows acc then .at_ l else .lease
    | none => .lease

/-- The translation of byte `off` of an end fills the engine's TLB (R338). -/
def State.endTouch (s : State) (e : Engine) (p : EndPt) (off : Nat) : State :=
  match p with
  | .va a => s.touch e.walker (a + off)
  | _ => s

/-- Bytes of the engine thread leave the group's open set and batches. -/
def Group.unbatch (g : Group) (id : Nat) : Group :=
  { g with openSet := g.openSet.filter (fun p => p.1 != id)
           batches := g.batches.map (fun b => (b.1, b.2.filter (fun p => p.1 != id))) }

/-- The batch of its group that holds an engine thread: 0 for the open set. -/
def State.batchOf (s : State) (gid id : Nat) : Option Nat :=
  match Map.find? s.groups gid with
  | some g =>
    if g.openSet.any (fun p => p.1 == id) then some 0
    else (g.batches.find? (fun b => b.2.any (fun p => p.1 == id))).map Prod.fst
  | none => none

/-- An engine's fault (R336, R387) is the fault of the instruction that forked it (R369), with its Active lanes. Where the fault-service
duty takes it, the thread as it stands is what the instruction has left to do (assumption 14); else the block ends and the thread goes on
as `gone` says. -/
def State.engFault (s : State) (id : Nat) (e gone : Engine) (cause : Nat) : State :=
  let live := match Map.find? s.blocks (e.gid / 32) with
    | some b => b.st != .ending && b.st != .over
    | none => false
  let s' := s.faultAt ⟨e.gid, e.ent⟩ e.site ⟨cause, faultDetail cause noLane, e.site.hnd, e.site.pc, e.site.lanes, 0, 0, []⟩ false []
    (some ({ e with seen := s.seenOf e.gid }, s.batchOf e.gid id))
  if s.assisted 3 && live then { s' with engines := Map.del s'.engines id }.modGroup e.gid (fun g => g.unbatch id)
  else { s' with engines := Map.put s'.engines id gone }

/-- Earlier accesses of the forking group to a byte that an engine waits for (R207): its writes above T, and, for an engine write,
its reads too. A compressing store counts where its entries may lie. -/
def State.engEarly (s : State) (e : Engine) (l : Loc) (reads : Bool) : Bool :=
  let mine := fun (w : WEv) => w.gid == e.gid && decide (w.seq < e.seq) && w.hits l.sp [l.addr]
  s.sq.any mine || s.clv.any mine || s.cbuf.any mine ||
    s.iq.any (fun p => p.gid == e.gid && decide (p.seq < e.seq) && (match p.kind with
      | .stcq _ _ => s.mayEnter p l.sp [l.addr] || (p.sp == l.sp && p.touches.contains l.addr)
      | .load _ _ _ => reads && p.sp == l.sp && p.touches.contains l.addr
      | _ => p.sp == l.sp && p.touches.contains l.addr))

/-! Collectives -/

/-- Bytes a collective reads and writes (R237). -/
def Coll.dstBytes (k : Coll) (members : Nat) : Nat := (if k.kind = 2 then members * k.count else k.count) * collElem k.ty

/-- One number of a collective's element: its format's bits. -/
def Coll.step (k : Coll) (x y : Nat) : Nat :=
  let fl := fun (f : Fmt) (x y : Nat) => (FRed.comb (match k.op with | 0 => .add | 1 => .min | _ => .max) f 0 0 x y).1
  let two := fun (f : Fmt) => fl f (x % 65536) (y % 65536) + 65536 * fl f (x / 65536) (y / 65536)
  let ty := if k.ty = 4 then Ty.i32 else .n32
  let op : IOp := match k.op with | 0 => iAdd | 1 => iMin | _ => iMax
  match k.ty with
  | 0 => fl fmt32 x y
  | 1 => two fmt16
  | 2 => two fmtB16
  | 3 => fl fmt64 x y
  | _ => (ty.join false (fun i => op ty false i (BitVec.ofNat 64 x) (BitVec.ofNat 64 y) 0)).toNat % 2 ^ 32

/-- A float element with every NaN canonical (R237). -/
def Coll.canon (k : Coll) (x : Nat) : Nat :=
  let one := fun (f : Fmt) (x : Nat) => match f.unpack x with
    | .nan _ => (f.finish 0 false 0 (opCvt (f.unpack x))).1
    | _ => x
  match k.ty with
  | 0 => one fmt32 x
  | 1 => one fmt16 (x % 65536) + 65536 * one fmt16 (x / 65536)
  | 2 => one fmtB16 (x % 65536) + 65536 * one fmtB16 (x / 65536)
  | 3 => one fmt64 x
  | _ => x

/-- Byte i of member m's source: this module's own, or another's. -/
def Coll.srcByte (k : Coll) (set : CollSet) (got : List (Nat × Byte)) (m i : Nat) : Byte :=
  if m = set.rank then Map.get 0 got i else Config.memberByte k.set k.order m i

/-- Element i of member m's source. -/
def Coll.srcElem (k : Coll) (set : CollSet) (got : List (Nat × Byte)) (m i : Nat) : Nat :=
  let z := collElem k.ty
  ofBytes (tab z (fun j => k.srcByte set got m (z * i + j)))

/-- Element i of the destination (R237). -/
def Coll.result (k : Coll) (set : CollSet) (got : List (Nat × Byte)) (i : Nat) : Nat :=
  if k.kind = 2 then k.srcElem set got (i / k.count) (i % k.count)
  else
    let j := if k.kind = 1 then set.rank * k.count + i else i
    let vs := tab set.members.length (fun m => k.srcElem set got m j)
    k.canon (vs.tail.foldl k.step (vs.headD 0))

/-- The members' descriptors match (R238); a set of one member has no other. -/
def Coll.matched (k : Coll) (set : CollSet) : Bool := decide (set.members.length ≤ 1) || Config.membersMatch k.set k.order

/-- STATUS (R236, R238). -/
def Coll.status (k : Coll) (set : CollSet) : Nat :=
  if k.timed then 3 else if k.link then 1 else if k.matched set then 0 else 2

def State.collSet (s : State) (n : Nat) : CollSet := (Map.find? s.collSets n).getD ⟨[], 0, 0, 0⟩

/-! Steps -/

/-- Bytes an engine writes. -/
def State.engBytes (s : State) (e : Engine) : Nat :=
  match e.kind with
  | .coll k => if k.timed || !k.matched (s.collSet k.set) then 0 else k.dstBytes (s.collSet k.set).members.length
  | _ => e.n

/-- Where byte i of an engine's source lies: none for a byte that is filled with zero (R224). -/
def Engine.srcOff (e : Engine) (i : Nat) : Option Nat :=
  match e.kind with
  | .box b => b.srcOff i
  | _ => some i

def Engine.dstOff (e : Engine) (i : Nat) : Nat :=
  match e.kind with
  | .box b => b.dstOff i
  | _ => i

/-- Whether byte i has been read, or written. -/
def Engine.has (e : Engine) (i : Nat) : Bool := e.wrote.contains i || e.got.any (fun p => p.1 == i)

def State.setEngine (s : State) (id : Nat) (e : Engine) : State := { s with engines := Map.put s.engines id e }

/-- E-READ of source byte i (R207). A byte that cannot be read ends the block and counts as moved; a collective
then writes no destination byte (assumption 14). -/
def State.doERead (s : State) (id i : Nat) : Option State :=
  match Map.find? s.engines id with
  | none => none
  | some e =>
    let take := fun (s : State) (b : Byte) => some (s.setEngine id { e with got := Map.put e.got i b })
    let seen := if (Map.find? s.groups e.gid).isSome then s.seenOf e.gid else e.seen
    let gone := match e.kind with
      | .coll k => { e with kind := .coll { k with timed := true } }
      | _ => { e with wrote := i :: e.wrote }
    let lost := fun (s : State) (cause : Nat) => some (s.engFault id e gone cause)
    if e.n ≤ i || e.has i then none
    else match e.srcOff i with
      | none => take s 0
      | some off =>
        match s.endLoc e e.src off .r with
        | .wait => none
        | .lease => lost s causeLease
        | .at_ l =>
          if s.engEarly e l false then none
          else if l.sp ≠ .glob then
            (if !s.answers l then none else if s.poisoned l then lost s causePoison else take s (s.readHome l))
          else match (s.endTouch e e.src off).serveTiers (engKey id) e.gid seen e.core e.tile [l.addr] true e.cls.1 with
            | .wait => none
            | .poison => lost s causePoison
            | .bytes s' bs => take (s'.dropParts (engKey id)) (gotAt bs l.addr)

/-- An engine thread that is about to read a byte of a decoded alias reads, at its home, one line that the byte depends on (R76). -/
def State.enginePart (s : State) (id line : Nat) : Option State :=
  match Map.find? s.engines (id - 2 ^ 40) with
  | none => none
  | some e =>
    let wants := fun (i : Nat) => !e.has i && (match (e.srcOff i).map (fun off => s.endLoc e e.src off .r) with
      | some (.at_ l) => l.sp == .glob && !s.engEarly e l false && s.decodes id l.addr line
      | _ => false)
    if id < 2 ^ 40 || 2 ^ 41 ≤ id || !(List.range e.n).any wants then none
    else s.takePart id line (if (Map.find? s.groups e.gid).isSome then s.seenOf e.gid else e.seen)

/-- The byte an engine writes as destination byte i: what it read, or the collective's result once the whole source is read. -/
def State.engByte (s : State) (e : Engine) (i : Nat) : Option Byte :=
  match e.kind with
  | .coll k =>
    if e.got.length < e.n then none
    else
      let z := collElem k.ty
      some ((toBytes z (k.result (s.collSet k.set) e.got (i / z))).getD (i % z) 0)
  | _ => (List.find? (fun p => p.1 == i) e.got).map Prod.snd

/-- A byte written by an engine: into the cellar of its tile, or at P (R207). -/
def State.engPut (s : State) (id : Nat) (e : Engine) (l : Loc) (b : Byte) : State :=
  if l.sp = .glob then s.toTile ⟨0, engKey id, e.core, e.tile, e.seq, .glob, lineOf l.addr, .rc, none, [(l.addr, b)], [], [], false, e.cls.2⟩
  else s.putAt e.tile l b

/-- A poisoned line is clean once an engine has written the whole of it (R387). -/
def State.engClean (s : State) (e : Engine) (l : Loc) : State :=
  if l.sp == .glob && s.poison.contains (lineOf l.addr) &&
      (List.range 128).all (fun j => e.wrote.any (fun i => match s.endLoc e e.dst (e.dstOff i) .w with
        | .at_ k => k == ⟨.glob, lineOf l.addr + j⟩
        | _ => false)) then
    { s with poison := s.poison.filter (· ≠ lineOf l.addr) }
  else s

/-- A failed link leaves some destination bytes unwritten (R238). -/
def Engine.skips (e : Engine) (id i : Nat) : Bool :=
  match e.kind with
  | .coll k => k.link && !Config.linkWrote id i
  | _ => false

/-- E-WRITE of destination byte i (R207). -/
def State.doEWrite (s : State) (id i : Nat) : Option State :=
  match Map.find? s.engines id with
  | none => none
  | some e =>
    let coll := match e.kind with
      | .coll _ => true
      | _ => false
    let e' := { e with wrote := i :: e.wrote, got := if coll then e.got else e.got.filter (fun p => p.1 != i) }
    if s.engBytes e ≤ i || e.wrote.contains i then none
    else if e.skips id i then some (s.setEngine id e')
    else match s.engByte e i with
      | none => none
      | some b =>
        match s.endLoc e e.dst (e.dstOff i) .w with
        | .wait => none
        | .lease => some (s.engFault id e e' causeLease)
        | .at_ l =>
          if s.engEarly e l true || !s.answers l then none
          else some ((((s.endTouch e e.dst (e.dstOff i)).engPut id e l b).setEngine id e').engClean e' l)

/-- Every write of an engine is performed at a scope (R193, R207). -/
def State.engPerformed (s : State) (id : Nat) (sc : Scope) : Bool :=
  match sc with
  | .dev | .sys => !s.guests.any (fun g => g.dirty && g.writers.any (fun p => p.1 == engKey id))
  | _ => true

/-- The thread has completed: it leaves the engines. -/
def State.dropEngine (s : State) (id : Nat) : State := { s with engines := Map.del s.engines id }

/-- An ATOMIC add of a word at a place, for CPYS and COLR (R225, R236). A poisoned word is the fault of the copy (R387). -/
def State.engAdd (s : State) (id : Nat) (e : Engine) (l : Loc) (addend : Word) : State :=
  let s := if l.sp = .glob then s.cleanBut none (lineOf l.addr) else s
  if (tab 4 (fun i => l.addr + i)).any (fun a => s.poisoned ⟨l.sp, a⟩) then
    (s.engFault id e e causePoison).dropEngine id
  else ({ s with added := ((l, e.sigma) :: s.added).eraseDups }.rmw e.tile l 4 ((s.numAt l 4 + addend.toNat) % 2 ^ 32) []).dropEngine id

/-- An engine's ATOMIC on n bytes waits for the earlier writes of its group to them (R204). -/
def State.engHeld (s : State) (e : Engine) (l : Loc) (n : Nat) : Bool :=
  (List.range n).any (fun i => s.engEarly e ⟨l.sp, l.addr + i⟩ false)

/-- An acquire that would join a thread on reading its add, while a later access of its group to a UO page has been performed already: the
add comes after it, for the join orders every page kind (R207, R219). -/
def State.acquiring (s : State) (e : Engine) (l : Loc) : Bool :=
  s.iq.any (fun p => p.late && p.sp == l.sp && (match p.kind with
    | .load _ bs (some sc) => decide (e.sigma.rank ≤ sc.rank) && bs.any (fun b => decide (l.addr ≤ b.1) && decide (b.1 < l.addr + 4))
    | _ => false))

/-- What an engine completes (R207): its batch, its barrier's credit, or its counter's add. None while it must wait. -/
def State.complete (s : State) (id : Nat) (e : Engine) : Option State :=
  match e.done with
  | .batch => some (s.dropEngine id)
  | .credit l n =>
    if s.answers l && !s.engHeld e l 16 then
      let s := if l.sp = .glob then s.cleanBut none (lineOf l.addr) else s
      let old := s.numAt l 16
      some ((s.rmw e.tile l 16 (((barOf old).update 0 (0 - BitVec.ofNat 32 n)).pack old) []).dropEngine id)
    else none
  | .counter p addend =>
    match s.endLoc e p 0 .w with
    | .wait => none
    | .lease => some ((s.engFault id e e causeLease).dropEngine id)
    | .at_ l => if s.answers l && !s.engHeld e l 4 && !s.acquiring e l then some ((s.endTouch e p 0).engAdd id e l addend) else none

/-- A COLR's STATUS is written as an E-WRITE (R238): not before every earlier access of the group to it is performed. -/
def State.putStatus (s : State) (id : Nat) (e : Engine) (k : Coll) : Option State :=
  let e' := { e with kind := .coll { k with told := true } }
  let ls := tab 4 (fun i => s.endLoc e k.stat i .w)
  let bs := toBytes 4 (k.status (s.collSet k.set))
  if ls.any (fun l => match l with
      | .wait => true
      | .at_ l => !s.answers l || s.engEarly e l true
      | .lease => false) then none
  else if ls.any (fun l => l == .lease) then some (s.engFault id e e' causeLease)
  else
    some (((ls.zip bs).foldl (fun s p => match p.1 with
      | .at_ l => s.engPut id e l p.2
      | _ => s) (s.endTouch e k.stat 0)).setEngine id e')

/-- COMPLETE (R207); of a COLR first its STATUS, then its completion (R238). -/
def State.doComplete (s : State) (id : Nat) : Option State :=
  match Map.find? s.engines id with
  | none => none
  | some e =>
    if e.wrote.length < s.engBytes e then none
    else match e.kind with
      | .coll k =>
        if !k.told then s.putStatus id e k
        else if s.engPerformed id e.sigma then s.complete id e
        else none
      | _ => if s.engPerformed id e.sigma then s.complete id e else none

/-- A collective that still forms its result, with other members (R238). -/
def State.forming (s : State) (id : Nat) : Option (Engine × Coll) :=
  match Map.find? s.engines id with
  | some e => match e.kind with
    | .coll k =>
      if e.wrote.isEmpty && !k.link && !k.timed && decide (1 < (s.collSet k.set).members.length) then some (e, k) else none
    | _ => none
  | none => none

/-- COLL_TIMEOUT (R238). -/
def State.doTimeout (s : State) (id : Nat) : Option State :=
  (s.forming id).map (fun p => s.setEngine id { p.1 with kind := .coll { p.2 with timed := true } })

/-- DEVICE_LINK_FAIL (R238). -/
def State.doLinkFail (s : State) (id : Nat) : Option State :=
  (s.forming id).map (fun p => s.setEngine id { p.1 with kind := .coll { p.2 with link := true } })

/-- The traffic of one byte that an engine thread moves, at the place where the end of its transfer lies (R291, R294); a write to
global memory goes to its tile's cellar. -/
def State.engTraffic (s t : State) (id : Nat) (write : Bool) (i : Nat) : State :=
  match Map.find? s.engines id with
  | none => t
  | some e =>
    let at_ := if write then s.endAt e e.dst (e.dstOff i) else (e.srcOff i).bind (fun off => s.endAt e e.src off)
    match at_ with
    | none => t
    | some (l, _) =>
      let r := if l.sp ≠ .glob then l.reach else if write then .cellar else s.fetchReach e.gid e.tile (lineOf l.addr) [l.addr]
      t.traffic { s.payer e.gid with core := e.core, ctx := e.ctx } e.tile l 1 r

/-- E-READ and E-WRITE with their traffic. -/
def State.eventERead (s : State) (id i : Nat) : Option State := (s.doERead id i).map (fun t => s.engTraffic t id false i)
def State.eventEWrite (s : State) (id i : Nat) : Option State := (s.doEWrite id i).map (fun t => s.engTraffic t id true i)

/-- R207 -/
def execERead (eng i : Nat) (s : State) : Out := stepped s (s.eventERead eng i)
/-- R207 -/
def execEWrite (eng i : Nat) (s : State) : Out := stepped s (s.eventEWrite eng i)
/-- R207 -/
def execEngineComplete (eng : Nat) (s : State) : Out := stepped s (s.doComplete eng)
/-- R238 -/
def execCollTimeout (eng : Nat) (s : State) : Out := stepped s (s.doTimeout eng)
/-- R238 -/
def execDeviceLinkFail (eng : Nat) (s : State) : Out := stepped s (s.doLinkFail eng)

end Sys2Proof.Machine
end

