-- ==== Sys2Proof/Machine/PoolOps.lean ====
section
/-! DEFINITION. Priority pools (R305 to R324): elements and their order, spill segments, inserts and takes, the rounds, and the pool
instructions. -/

namespace Sys2Proof.Machine

/-! Elements -/

/-- A key's place in the order of R307. -/
def keyOrd (kord : Bool) (k : Nat) : Nat :=
  if kord then (if k < 2 ^ 31 then k + 2 ^ 31 else 2 ^ 32 - 1 - k) else k

/-- The element order (R307): key, then tile, then count. -/
def Elem.lt (kord : Bool) (a b : Elem) : Bool :=
  decide (keyOrd kord a.key < keyOrd kord b.key) ||
    (keyOrd kord a.key == keyOrd kord b.key && (decide (a.tile < b.tile) || (a.tile == b.tile && decide (a.count < b.count))))

def Elem.le (kord : Bool) (a b : Elem) : Bool := !Elem.lt kord b a

/-- The same element: key and tag. -/
def Elem.same (a b : Elem) : Bool := a.key == b.key && a.tile == b.tile && a.count == b.count

def insElem (kord : Bool) (x : Elem) : List Elem → List Elem
  | [] => [x]
  | y :: ys => if Elem.lt kord x y then x :: y :: ys else y :: insElem kord x ys

/-- Elements in ascending order. -/
def sortElems (kord : Bool) (xs : List Elem) : List Elem := xs.foldl (fun acc x => insElem kord x acc) []

/-- The least element. -/
def leastElem (kord : Bool) (xs : List Elem) : Option Elem := (sortElems kord xs).head?

/-- The greatest element. -/
def mostElem (kord : Bool) (xs : List Elem) : Option Elem := (sortElems kord xs).getLast?

/-- The number of a pool in the state: a launch's handle (R305). -/
def poolNo (lid handle : Nat) : Nat := 256 * lid + handle

def State.setPool (s : State) (pid : Nat) (p : Pool) : State := { s with pools := Map.put s.pools pid p }

def Pool.shard (p : Pool) (t : Nat) : Shard := p.shards.getD t ⟨[], 0, 0, false, 0⟩
def Pool.setShard (p : Pool) (t : Nat) (x : Shard) : Pool := { p with shards := p.shards.set t x }

/-- At or below the threshold (R311). -/
def Pool.within (p : Pool) (x : Elem) : Bool :=
  match p.theta with
  | none => true
  | some th => Elem.le p.kord x th

/-- An element takes another tag: its window count and its marks go with it (R307, R308, R317). -/
def Pool.retag (p : Pool) (old new : Elem) : Pool :=
  let sw := fun (x : Elem) => if x.same old then { x with tile := new.tile, count := new.count } else x
  { p with window := p.window.map (fun q => (sw q.1, q.2))
           sums := p.sums.map (fun m => { m with urgent := m.urgent.map sw }) }

/-- An element has left: its window count and its mark go (R317). -/
def Pool.forget (p : Pool) (x : Elem) : Pool :=
  { p with window := p.window.filter (fun q => !q.1.same x)
           sums := p.sums.map (fun m => { m with urgent := m.urgent.filter (fun y => !y.same x) }) }

/-! Spill segments (R308) -/

/-- The spill handle of a pool, when it has one. -/
def State.spillHnd (s : State) (p : Pool) : Option (Hnd × Nat) :=
  if p.spill = 0 then none
  else match Map.find? s.launches p.lid with
    | some l => some (l.handle p.spill, l.ctx)
    | none => none

/-- The virtual address of a byte of segment t, and its context (R332). -/
def State.segVa (s : State) (p : Pool) (t off : Nat) : Option (Nat × Nat) :=
  (s.spillHnd p).map (fun q => (q.1.base + t * (q.1.len / 8) + off, q.2))

/-- The physical address of a byte of segment t for an access of the racking engine, when it translates with the right (R332, R337). -/
def State.segAt (s : State) (p : Pool) (t off : Nat) (acc : Acc) : Option Nat :=
  match s.segVa p t off with
  | none => none
  | some (va, ctx) =>
    match s.lookup ⟨none, t, ctx⟩ va with
    | some l => if l.allows acc then some (l.pa + (va - l.va)) else none
    | none => none

/-- The translation of a byte of segment t fills the engine's TLB (R338). -/
def State.segTouch (s : State) (p : Pool) (t off : Nat) : State :=
  match s.segVa p t off with
  | some (va, ctx) => s.touch ⟨none, t, ctx⟩ va
  | none => s

/-- Entries a segment can hold. -/
def State.segCap (s : State) (p : Pool) : Nat :=
  match s.spillHnd p with
  | some (h, _) => (h.len / 8 - 64) / 8
  | none => 0

/-- The number a segment's bytes hold, as the engine reads them. -/
def State.segRead (s : State) (p : Pool) (t off n : Nat) : Nat :=
  ofBytes (tab n (fun i => match s.segAt p t (off + i) .r with
    | some pa => s.ownerByte pa
    | none => 0))

/-- A number's bytes are written to a segment, each through its own page. -/
def State.segWrite (s : State) (p : Pool) (t off n x : Nat) : State :=
  ((toBytes n x).mapIdx (fun i b => (i, b))).foldl (fun s q => match s.segAt p t (off + q.1) .w with
    | some pa => (s.segTouch p t (off + q.1)).store t [(pa, q.2)]
    | none => s) s

/-- The number of entries of segment t. -/
def State.segCount (s : State) (p : Pool) (t : Nat) : Nat := min (s.segRead p t 0 4) (s.segCap p)

/-- The elements of segment t, tagged as R308 gives. -/
def State.segEls (s : State) (p : Pool) (t : Nat) : List Elem :=
  tab (s.segCount p t) (fun i =>
    let w := s.segRead p t (64 + 8 * i) 8
    ⟨w % 2 ^ 32, w / 2 ^ 32, t, 2 ^ 64 + i⟩)

/-- The bytes of segment t that the engine reaches: its count, its entries and one entry more. -/
def State.segSpan (s : State) (p : Pool) (t : Nat) : Nat :=
  (s.spillHnd p).elim 0 (fun q => min (q.1.len / 8) (64 + 8 * (s.segCount p t + 1)))

/-- Segment t cannot be reached yet: a decant has frozen a page of it (R346), or a home does not answer (R308, R385). -/
def State.segHeld (s : State) (p : Pool) (t : Nat) : Bool :=
  (match s.segVa p t 0, s.spillHnd p with
    | some (va, ctx), some (h, _) => s.decants.any (fun d => d.2.frozen && d.2.ctx == ctx && overlap d.2.va d.2.size va (h.len / 8))
    | _, _ => false) ||
  (List.range (s.segSpan p t)).any (fun o => (s.segAt p t o .r).any (fun pa => !s.answers ⟨.glob, pa⟩))

/-- The pages of segment t that the engine reads fill its TLB (R338). -/
def State.segTouchAll (s : State) (p : Pool) (t : Nat) : State :=
  let n := s.segSpan p t
  if n = 0 then s else ((List.range (n / 4096 + 1)).map (fun i => min (4096 * i) (n - 1))).foldl (fun s o => s.segTouch p t o) s

/-- Whether the racking engine can read the count and the entries of segment t, and write them and one entry more (R336, R337). -/
def State.segOk (s : State) (p : Pool) (t : Nat) : Bool :=
  (List.range (s.segSpan p t)).all (fun o => (s.segAt p t o .r).isSome && (s.segAt p t o .w).isSome)

/-- A shard's elements: its region's and its segment's. -/
def State.shardEls (s : State) (p : Pool) (t : Nat) : List Elem := (p.shard t).els ++ s.segEls p t

/-- An element is put at the end of segment t. -/
def State.segPush (s : State) (pid : Nat) (t : Nat) (x : Elem) : State :=
  match Map.find? s.pools pid with
  | none => s
  | some p =>
    let n := s.segCount p t
    let s := s.segWrite p t (64 + 8 * n) 8 (x.key + 2 ^ 32 * x.pay)
    let s := s.segWrite p t 0 4 (n + 1)
    s.setPool pid (p.retag x { x with tile := t, count := 2 ^ 64 + n })

/-- Entry i leaves segment t; the last entry takes its place. -/
def State.segPop (s : State) (pid : Nat) (t i : Nat) : State :=
  match Map.find? s.pools pid with
  | none => s
  | some p =>
    let n := s.segCount p t
    let w := s.segRead p t (64 + 8 * (n - 1)) 8
    let s := if i + 1 = n then s else s.segWrite p t (64 + 8 * i) 8 w
    let s := s.segWrite p t 0 4 (n - 1)
    s.setPool pid (p.retag ⟨w % 2 ^ 32, w / 2 ^ 32, t, 2 ^ 64 + (n - 1)⟩ ⟨w % 2 ^ 32, w / 2 ^ 32, t, 2 ^ 64 + i⟩)

/-! Inserts (R308, R313, R319) -/

/-- Whether region t is full. -/
def Pool.full (p : Pool) (t : Nat) : Bool := decide (64 * p.cap ≤ (p.shard t).els.length)

/-- Whether an insert at shard t would spill. -/
def State.spills (s : State) (p : Pool) (t : Nat) : Bool := p.full t && p.spill != 0 && decide (s.segCount p t < s.segCap p)

/-- An insert at shard t: the state and whether it was performed. -/
def State.insertAt (s : State) (pid t key pay : Nat) : State × Bool :=
  match Map.find? s.pools pid with
  | none => (s, false)
  | some p =>
    let sh := p.shard t
    let x : Elem := ⟨key, pay, t, sh.count⟩
    let sh' : Shard := { sh with count := sh.count + 1, fresh := true }
    let use := fun (y : Elem) (z : Shard) => if p.within y then { z with used := z.used + 1 } else z
    if !p.full t then (s.setPool pid (p.setShard t (use x { sh' with els := x :: sh.els })), true)
    else if !s.spills p t then (s, false)
    else
      let big := (mostElem p.kord (x :: sh.els)).getD x
      if big = x then
        let s := s.setPool pid (p.setShard t (use { x with count := 2 ^ 64 + s.segCount p t } sh'))
        (s.segPush pid t x, true)
      else
        let s := s.setPool pid (p.setShard t (use x { sh' with els := x :: sh.els.filter (fun y => !y.same big) }))
        (s.segPush pid t big, true)

/-- Allowance A of a round (R313). -/
def Pool.allowance (p : Pool) : Nat := (p.rho - 384) / 8

/-- The end of an insert: the mask bit of its lane, and its place in IQ(g) (R319). -/
def State.inserted (s : State) (e : IqEv) (lane kreg : Nat) (ok : Bool) : State :=
  let s := if kreg = 0 then s else s.modGroup e.gid (fun g =>
    g.kPut kreg (if ok then g.kGet kreg &&& ~~~(1#96 <<< lane) else g.kGet kreg ||| (1#96 <<< lane)))
  s.leave e

/-- The insert of an event is performed, or, when it would spill under the host's duty, asked about (R358 duty 4); an event already
posted waits for its reply whatever the mode is then. A spill whose pages do not translate is the fault of the PLINS (R336, R337), and
one whose segment cannot be reached yet waits (R308, R346). The element's 8 bytes go to the tile scratchpad (R291), and the shard's
partner logs the operation (R384). -/
def State.performInsert (s : State) (e : IqEv) (pid lane key pay kreg t : Nat) : Option State :=
  match Map.find? s.pools pid with
  | none => none
  | some p =>
    let segs := p.full t && p.spill != 0
    if s.asked 4 e.id || (segs && s.segHeld p t) then none
    else if segs && !s.segOk p t then some (s.lateFault e causeLease noLane)
    else if s.spills p t && s.assisted 4 && !p.spillOk.contains e.id then
      match Map.find? s.launches p.lid with
      | some l => some (s.post 4 l.ctx false l.tag 0 0 e.id)
      | none => none
    else
      let s := (if segs then s.segTouchAll p t else s).traffic (s.payer e.gid) t ⟨.tpad, 33554432 * t⟩ 8 .die
      let r := (s.setPool pid { p with spillOk := p.spillOk.filter (· ≠ e.id) }).insertAt pid t key pay
      some ((r.1.logTo (t ^^^ 4) t (.pool pid)).inserted e lane kreg r.2)

/-- A PLINS lane's insert (R313, R319, R322): a release at .dev. -/
def State.doInsert (s : State) (id : Nat) : Option State :=
  match s.iq.find? (fun e => e.id == id) with
  | none => none
  | some e =>
    match e.kind with
    | .plins pid lane key pay kreg =>
      match Map.find? s.pools pid, Map.find? s.blocks (e.gid / 32) with
      | some p, some b =>
        let t := b.core / 96
        let first := !s.iq.any (fun x => x.gid == e.gid && x.seq == e.seq && decide (x.id < e.id))
        let excess := p.within ⟨key, pay, t, (p.shard t).count⟩ && decide (p.allowance ≤ (p.shard t).used)
        if !first || !s.performed e.gid e.seq .dev true || !s.tileUp t then none
        else if excess then (if p.held.isSome || p.stopped then none else some (s.setPool pid { p with held := some id }))
        else s.performInsert e pid lane key pay kreg t
      | _, _ => none
    | _ => none

/-- POOL_NOTICE_ACK (R313): every shard has acknowledged, none of them on a tile that is not in RUN (R385). The held insert is
performed, and the shards stay stopped until the early round. -/
def State.doNoticeAck (s : State) (pid : Nat) : Option State :=
  match Map.find? s.pools pid with
  | none => none
  | some p =>
    match p.held with
    | none => none
    | some id =>
      let free := { p with held := none, stopped := true }
      if (List.range 8).any (fun t => !s.tileUp t) then none
      else match s.iq.find? (fun e => e.id == id) with
      | none => some (s.setPool pid free)
      | some e =>
        match e.kind, Map.find? s.blocks (e.gid / 32) with
        | .plins _ lane key pay kreg, some b =>
          let t := b.core / 96
          if s.spills p t && s.assisted 4 && !p.spillOk.contains id then s.performInsert e pid lane key pay kreg t
          else (s.setPool pid free).performInsert e pid lane key pay kreg t
        | _, _ => some (s.setPool pid free)

/-- The reply to a spill event (R358): the insert may spill and goes on as any insert, by R313, or it fails. -/
def State.spillReply (s : State) (id : Nat) (spill : Bool) : State :=
  match s.iq.find? (fun e => e.id == id) with
  | none => s
  | some e =>
    match e.kind with
    | .plins pid lane _ _ kreg =>
      match Map.find? s.pools pid with
      | none => s
      | some p =>
        if spill then s.setPool pid { p with spillOk := id :: p.spillOk }
        else (if p.held = some id then s.setPool pid { p with held := none, stopped := true } else s).inserted e lane kreg false
    | _ => s

/-! Takes (R314, R320) -/

/-- The number of consecutive snapshots at which an element stood in the window (R317). -/
def Pool.age (p : Pool) (x : Elem) : Nat :=
  match List.find? (fun q => q.1.same x) p.window with
  | some q => q.2
  | none => 0

/-- Elements that the last summaries marked urgent and that stand in shard t, at or below the threshold (R314). -/
def State.urgentAt (s : State) (p : Pool) (t : Nat) : List Elem :=
  (s.shardEls p t).filter (fun x => p.within x && p.sums.any (fun m => m.urgent.any (fun y => y.same x)))

/-- The older of two urgent elements (R317). -/
def Pool.older (p : Pool) (a b : Elem) : Bool :=
  decide (p.age b < p.age a) || (p.age a == p.age b && Elem.lt p.kord a b)

/-- The oldest of some urgent elements. -/
def Pool.oldest (p : Pool) (xs : List Elem) : Option Elem :=
  xs.foldl (fun acc x => match acc with
    | some y => if p.older x y then some x else acc
    | none => some x) none

/-- Every shard was empty at the last round. -/
def Pool.allEmpty (p : Pool) : Bool := p.sums.all (fun m => m.n == 0)

/-- Whether shard a comes before shard b in the order of forwards (R314). -/
def Pool.before (p : Pool) (a b : Nat) : Bool :=
  match (p.sums.getD a ⟨0, [], []⟩).els.head?, (p.sums.getD b ⟨0, [], []⟩).els.head? with
  | some x, some y => Elem.lt p.kord x y || (x.same y && decide (a < b))
  | some _, none => true
  | none, some _ => false
  | none, none => decide (a < b)

def Pool.insShard (p : Pool) (t : Nat) : List Nat → List Nat
  | [] => [t]
  | u :: us => if p.before t u then t :: u :: us else u :: p.insShard t us

/-- The shards in the order of forwards. -/
def Pool.order (p : Pool) : List Nat := (List.range 8).foldl (fun acc t => p.insShard t acc) []

/-- What a shard does with a take. -/
inductive Serve where
  | give (t : Nat) (x : Elem)
  | empty
  | pass (t : Nat)
  | wait
  deriving DecidableEq, Repr

/-- Serve of R314 for a take at shard t. -/
def State.serve (s : State) (p : Pool) (k : Take) (t : Nat) : Serve :=
  match p.oldest (s.urgentAt p t) with
  | some x => .give t x
  | none =>
    let far := ((List.range 8).filter (· ≠ t)).filterMap (fun u => (p.oldest (s.urgentAt p u)).map (fun x => (u, x)))
    let best := far.foldl (fun (acc : Option (Nat × Elem)) q => match acc with
      | some r => if p.older q.2 r.2 then some q else acc
      | none => some q) none
    match best with
    | some q => .pass q.1
    | none =>
      match leastElem p.kord (s.shardEls p t) with
      | some x =>
        if p.within x then .give t x
        else match List.find? (fun u => !(t :: k.tried).contains u) p.order with
          | some u => .pass u
          | none => .wait
      | none =>
        if p.allEmpty && t == k.home then (if (p.shard t).fresh then .wait else .empty)
        else match List.find? (fun u => !(t :: k.tried).contains u) p.order with
          | some u => .pass u
          | none => .wait

/-- An element leaves shard t, in one step (R314), which the shard's partner logs (R384). -/
def State.removeElem (s : State) (pid : Nat) (p : Pool) (t : Nat) (x : Elem) : State :=
  let p := p.forget x
  let s := s.logTo (t ^^^ 4) t (.pool pid)
  if (p.shard t).els.any (fun y => y.same x) then
    s.setPool pid (p.setShard t { p.shard t with els := (p.shard t).els.filter (fun y => !y.same x) })
  else (s.setPool pid p).segPop pid t (x.count - 2 ^ 64)

/-- The registers of a completed PLTAKE (R320), its acquire (R323), and its end. -/
def State.takeDone (s : State) (gid ent : Nat) (r : PoolReq) : State :=
  match { s with cur := ⟨gid, ent⟩ }.issuer? with
  | none => s
  | some c =>
    let d := r.e.dst.toNat
    let k := r.e.a.toNat
    let val := fun (f : Nat × Nat → Nat) (L : Nat) => (Map.find? r.res L).map (fun (x : Option (Nat × Nat)) =>
      match x with
      | some q => BitVec.ofNat 32 (f q)
      | none => (0 : Word))
    let g := (c.g.vPut d (val Prod.fst)).vPut (d + 1) (val Prod.snd)
    let got := maskOf (fun L => r.res.any (fun q => q.1 == L))
    let empty := maskOf (fun L => r.res.any (fun q => q.1 == L && q.2.isNone))
    let g := g.kPut k ((g.kGet k &&& ~~~got) ||| empty)
    let g := g.modFrag ent (fun f => { f with pool := none })
    let s := if r.res.any (fun q => q.2.isSome) then s.stale gid c.b.core c.tile .dev else s
    s.finish { c with g := g } r.e ⟨g, 0⟩ c.own false

/-- A lane of a PLTAKE is answered (R320). -/
def State.answer (s : State) (k : Take) (x : Option (Nat × Nat)) : State :=
  match s.fragAt ⟨k.gid, k.ent⟩ with
  | none => s
  | some f =>
    match f.pool with
    | none => s
    | some r =>
      let r := { r with left := r.left.filter (· ≠ k.lane), res := Map.put r.res k.lane x }
      let s := s.modFrag ⟨k.gid, k.ent⟩ (fun f => { f with pool := some r })
      if r.left.isEmpty then s.takeDone k.gid k.ent r else s

/-- Whether a take still has its lane waiting. -/
def State.wants (s : State) (k : Take) : Bool :=
  match s.fragAt ⟨k.gid, k.ent⟩ with
  | some f => match f.pool with
    | some r => r.left.contains k.lane
    | none => false
  | none => false

/-- Some segment of a pool cannot be reached yet: takes wait for the next round, and the round for the segment (R308, R346). -/
def State.takeHeld (s : State) (p : Pool) : Bool := p.spill != 0 && (List.range 8).any (fun t => s.segHeld p t)

/-- The segments that a take at shard t looks at: the shard's own, and those that held an urgent element of the last summaries (R314). -/
def Pool.looksAt (p : Pool) (t : Nat) : List Nat :=
  if p.spill = 0 then []
  else (List.range 8).filter (fun u => u == t || p.sums.any (fun m => m.urgent.any (fun y => y.tile == u && decide (2 ^ 64 ≤ y.count))))

/-- A take reaches shard t and is served, answered EMPTY, passed on, or left for the next round (R314). A stopped shard serves it where it
is when it serves again (R310, R313). A segment whose pages do not translate is the fault of the PLTAKE (R336, R337). The 8 bytes of an
element come from the tile scratchpad, over the links (R291, R294). -/
def State.takeAt (s : State) (pid : Nat) (k : Take) (t : Nat) : State :=
  match Map.find? s.pools pid with
  | none => s
  | some p =>
    let p := p.setShard t { p.shard t with takes := (p.shard t).takes + 1 }
    if !s.wants k then s
    else if p.held.isSome || p.stopped || s.takeHeld p then s.setPool pid { p with wait := p.wait ++ [{ k with goal := t }] }
    else if (p.looksAt t).any (fun u => !s.segOk p u) then
      match s.fragAt ⟨k.gid, k.ent⟩ with
      | some f => (s.setPool pid p).faultBlock ⟨k.gid, k.ent⟩ (mkTrap f causeLease (faultDetail causeLease noLane) f.act 0)
      | none => s
    else
      let s := (p.looksAt t).foldl (fun s u => s.segTouchAll p u) s
      match s.serve p k t with
      | .give u x => ((s.traffic (s.payer k.gid) k.home ⟨.tpad, 33554432 * u⟩ 8 .die).removeElem pid p u x).answer k (some (x.key, x.pay))
      | .empty => (s.setPool pid p).answer k none
      | .pass u => ((linksBetween t u).foldl State.carry s).setPool pid { p with fwd := p.fwd ++ [{ k with goal := u, tried := t :: k.tried }] }
      | .wait => s.setPool pid { p with wait := p.wait ++ [{ k with goal := k.home, tried := [] }] }

/-- POOL_TAKE_FORWARD (R314): the oldest forwarded take reaches the shard it was sent to. -/
def State.doTakeForward (s : State) (pid : Nat) : Option State :=
  match Map.find? s.pools pid with
  | none => none
  | some p =>
    match p.fwd with
    | [] => none
    | k :: ks =>
      if !s.tileUp k.goal then none
      else some (((s.setPool pid { p with fwd := ks }).logTo (k.tried.headD k.home) k.goal (.take pid)).takeAt pid k k.goal)

/-! Rounds (R310 to R313, R317) -/

/-- Window elements of a shard, its region's and its segment's (R308, R312); `segs` are the elements of the segments. -/
def Pool.windowIn (p : Pool) (segs : List (List Elem)) (t : Nat) : Nat :=
  (((p.shard t).els ++ segs.getD t []).filter p.within).length

/-- Whether racking moves an element this way (R312): from a shard with more than its share of the window, an eighth, to one with fewer,
or an urgent element toward a shard that more takes have reached in the last round than it has window elements. -/
def Pool.mayRack (p : Pool) (segs : List (List Elem)) (x : Elem) (src dst : Nat) : Bool :=
  let n := p.windowIn segs
  let all := ((List.range 8).map n).sum
  (decide (all < 8 * n src) && decide (8 * n dst < all)) ||
    (p.sums.any (fun m => m.urgent.any (fun y => y.same x)) && decide (n dst < (p.shard dst).takes))

/-- One move of racking (R312): a window element of one region goes to another that has room; anything else is no move. -/
def Pool.rack (segs : List (List Elem)) (p : Pool) (m : RackMove) : Pool :=
  let a := p.shard m.src
  match List.find? (fun x => x.key == m.key && x.tile == m.tile && x.count == m.count) a.els with
  | none => p
  | some x =>
    if m.src = m.dst ∨ 8 ≤ m.dst ∨ p.full m.dst ∨ !p.within x ∨ !p.mayRack segs x m.src m.dst then p
    else
      let p := p.setShard m.src { a with els := a.els.filter (fun y => !y.same x) }
      p.setShard m.dst { p.shard m.dst with els := x :: (p.shard m.dst).els }

/-- Returns from segment t until the region is half full (R308), at most `n` of them. -/
def State.unspill (s : State) (pid t : Nat) : Nat → State
  | 0 => s
  | n + 1 =>
    match Map.find? s.pools pid with
    | none => s
    | some p =>
      if 32 * p.cap ≤ (p.shard t).els.length then s
      else match leastElem p.kord (s.segEls p t) with
        | none => s
        | some x =>
          let sh := p.shard t
          let new : Elem := { x with tile := t, count := sh.count }
          let p := (p.setShard t { sh with els := new :: sh.els, count := sh.count + 1 }).retag x new
          State.unspill ((s.setPool pid p).segPop pid t (x.count - 2 ^ 64)) pid t n

/-- A fault that no fragment has made ends a block, or is offered to the fault-service duty (R369). -/
def State.offerFault (s : State) (bid cause : Nat) : State :=
  match Map.find? s.blocks bid with
  | none => s
  | some b =>
    if s.assisted 3 && b.live then (s.evict bid .service).modBlock bid (fun b => { b with cause := cause, detail := 0 })
    else if s.assisted 3 && b.stopping then s
    else s.endBlock bid cause 0

/-- A walk for the racking engine's own spill traffic has failed, which no instruction made: LEASE is the fault of each PLTAKE that waits
for the round and of every block of the pool's launch (R336, R369; DESIGN CHOICE, assumption 51). The round has not begun, and the
shards serve again, so that a later one may. -/
def State.leasePool (s : State) (pid : Nat) (p : Pool) : State :=
  let s := s.setPool pid { p with stopped := false, wait := [] }
  let s := ((p.wait.map (fun k => (⟨k.gid, k.ent⟩ : Cursor))).eraseDups).foldl (fun s cur => match s.fragAt cur with
    | some f => if f.pool.isSome then s.faultBlock cur (mkTrap f causeLease (faultDetail causeLease noLane) f.act 0) else s
    | none => s) s
  (s.blocks.filter (fun b => b.2.lid == p.lid)).foldl (fun s b => s.offerFault b.1 causeLease) s

/-- POOL_ROUND (R310): snapshots, summaries, threshold and window, racking by the moves given, returns from the spill segments, the
allowances, and the takes that waited, served again where they wait. Its parameters are those of R309. It does not begin while a
forwarded take is on its way (R316). -/
def State.doRound (s : State) (pid : Nat) (moves : List RackMove) : Option State :=
  match Map.find? s.pools pid with
  | none => none
  | some p =>
    if p.held.isSome || !p.fwd.isEmpty || s.takeHeld p || (List.range 8).any (fun t => !s.tileUp t) then none
    else if p.spill != 0 && (List.range 8).any (fun t => !s.segOk p t) then some (s.leasePool pid p)
    else
      let s := if p.spill = 0 then s else (List.range 8).foldl (fun s t => s.segTouchAll p t) s
      let els := tab 8 (fun t => sortElems p.kord (s.shardEls p t))
      let theta := leastElem p.kord (els.filterMap (fun l => if 48 < l.length then l[47]? else none))
      let p := { p with theta := theta, rho := s.regs.rho, starve := s.regs.starve }
      let window : List (Elem × Nat) := (els.map (fun l => (l.take 48).filter p.within)).flatten.map (fun x => (x, p.age x + 1))
      let urgent := (window.filter (fun (q : Elem × Nat) => decide (p.starve ≤ q.2))).map Prod.fst
      let sums := els.map (fun l => (⟨l.length, l.take 48, (l.take 48).filter (fun x => urgent.any (fun y => y.same x))⟩ : Summary))
      let p := { p with window := window, sums := sums, shards := p.shards.map (fun h => { h with fresh := false }) }
      let segs := if p.spill = 0 then [] else tab 8 (fun t => s.segEls p t)
      let p := moves.foldl (Pool.rack segs) p
      let s := s.setPool pid p
      let s := if p.spill = 0 then s else (List.range 8).foldl (fun s t => s.unspill pid t (32 * p.cap)) s
      match Map.find? s.pools pid with
      | none => none
      | some p =>
        let ks := p.wait
        let p := { p with shards := p.shards.map (fun h => { h with used := 0, takes := 0 }), stopped := false, wait := [] }
        some (ks.foldl (fun s k => s.takeAt pid k k.goal) (s.setPool pid p))

/-- A pool starts (R306): empty, its segments' counts zero, and round 0. -/
def State.startPool (s : State) (lid handle : Nat) (h : Hnd) : State :=
  let x := h.raw
  let pid := poolNo lid handle
  let p : Pool := ⟨lid, handle, (x.extractLsb' 152 16).toNat, (x.extractLsb' 144 8).toNat, x.getLsbD 143,
    List.replicate 8 ⟨[], 0, 0, false, 0⟩, List.replicate 8 ⟨0, [], []⟩, none, [], s.regs.rho, s.regs.starve, none, false, [], [], []⟩
  let s := s.setPool pid p
  if p.spill = 0 then s else (List.range 8).foldl (fun s t => s.segWrite p t 0 64 0) s

/-! The pool instructions -/

/-- The pool that an instruction names, or the cause that ends the block (R318). -/
def State.poolOf (s : State) (c : Iss) (e : Enc) (right : Hnd → Bool) : Except Nat (Nat × Pool) :=
  let m := c.memHandle e e.b
  let h := c.handle m.1
  if !m.2.1 || h.kind ≠ 3 then .error causeHandle
  else if !right h then .error causeRights
  else match Map.find? s.pools (poolNo c.b.lid m.1) with
    | some p => .ok (poolNo c.b.lid m.1, p)
    | none => .error causeHandle

/-- The lanes of Contrib with the mask k0 (R318). -/
def Iss.poolLanes (c : Iss) : List Nat := lanesOf (c.contrib c.own)

/-- PLINS (R319, R322): its inserts enter IQ(g). -/
def State.plins (s : State) (c : Iss) (e : Enc) : State :=
  match s.poolOf c e Hnd.wr with
  | .error r => s.stopBlock c (r, noLane) c.own
  | .ok (pid, _) =>
    let r := e.a.toNat
    let kreg := if e.dst = 0x60 then 0 else e.dst.toNat
    let es : List IqEv := c.poolLanes.mapIdx (fun i L =>
      ⟨s.nextId + i, c.cur.gid, c.cur.ent, s.seq, .glob, .rc,
        .plins pid L (c.g.vGet r L).toNat (c.g.vGet (r + 1) L).toNat kreg, c.f.site c.own, (0, 0), false⟩)
    ({ s with iq := s.iq ++ es }.takeIds es.length).finish c e c.eff c.own false

/-- PLTAKE (R320): a take per lane reaches the local shard; the fragment waits until each is answered. -/
def State.pltake (s : State) (c : Iss) (e : Enc) : State :=
  if c.f.pool.isSome then s.waitAt c
  else
    match s.poolOf c e (fun h => h.rd && h.wr) with
    | .error r => s.stopBlock c (r, noLane) c.own
    | .ok (pid, _) =>
      let ls := c.poolLanes
      if ls.isEmpty then s.finish c e c.eff c.own false
      else if !s.tileUp c.tile then s.waitAt c
      else
        let s := (s.modFrag c.cur (fun f => { f with pool := some ⟨s.seq, e, ls, []⟩ })).waitAt c
        ls.foldl (fun s L => s.takeAt pid ⟨c.cur.gid, c.cur.ent, L, c.tile, c.tile, []⟩ c.tile) s

/-- PLPEEK (R321). -/
def State.plpeek (s : State) (c : Iss) (e : Enc) : State :=
  match s.poolOf c e Hnd.rd with
  | .error r => s.stopBlock c (r, noLane) c.own
  | .ok (_, p) =>
    match leastElem p.kord (p.sums.filterMap (fun m => m.els.head?)) with
    | some x => s.sca c e true (BitVec.ofNat 64 (x.key + 2 ^ 32))
    | none => s.sca c e true 0

/-- PLCNT (R321). -/
def State.plcnt (s : State) (c : Iss) (e : Enc) : State :=
  match s.poolOf c e Hnd.rd with
  | .error r => s.stopBlock c (r, noLane) c.own
  | .ok (_, p) => s.sca c e false (BitVec.ofNat 64 (min ((p.sums.map Summary.n).sum) 0xFFFF_FFFF))

/-- R319 -/
def execPlins (e : Enc) (s : State) : Out := issuing (.plins e) s (fun c => s.plins c e)
/-- R320 -/
def execPltake (e : Enc) (s : State) : Out := issuing (.pltake e) s (fun c => s.pltake c e)
/-- R321 -/
def execPlpeek (e : Enc) (s : State) : Out := issuing (.plpeek e) s (fun c => s.plpeek c e)
/-- R321 -/
def execPlcnt (e : Enc) (s : State) : Out := issuing (.plcnt e) s (fun c => s.plcnt c e)
/-- R310 to R313, R317 -/
def execPoolRound (pool : Nat) (moves : List RackMove) (s : State) : Out := stepped s (s.doRound pool moves)
/-- R313 -/
def execPoolNoticeAck (pool : Nat) (s : State) : Out := stepped s (s.doNoticeAck pool)
/-- R314 -/
def execPoolTakeForward (pool : Nat) (s : State) : Out := stepped s (s.doTakeForward pool)

end Sys2Proof.Machine
end

