-- ==== Sys2Proof/Machine/Late.lean ====
section
/-! DEFINITION. Faults that the fault-service duty takes (R6, R369): what an image shows of them, and what its block does on resuming. -/

namespace Sys2Proof.Machine

/-- The scratchpad bytes a block holds. -/
def State.spadOf (s : State) (b : Block) : Nat × Nat :=
  (b.spbase, match Map.find? s.launches b.lid with
    | some l => 128 * l.desc.spad
    | none => 0)

/-! Putting fragments back (R369) -/

/-- The fragment whose fault it is: the one at its entry, or one that holds its lanes now; none when it has been put back already. -/
def Group.culprit (g : Group) (x : Late) : Option (Nat × Frag) :=
  let free := fun (p : Nat × Entry) => match p.2 with
    | .frag f => if f.st == FState.pending then none else some (p.1, f)
    | _ => none
  match g.entry x.ent with
  | .frag f => if f.st == FState.pending then none else some (x.ent, f)
  | _ => g.table.findSome? (fun p => (free p).bind (fun q => if q.2.act &&& x.site.lanes != 0 then some q else none))

/-- Before an image is written, each fragment with a fault found after its instruction issued goes back to that instruction in
STATE 2. -/
def State.putBackLate (s : State) (bid : Nat) : State :=
  match Map.find? s.blocks bid with
  | none => s
  | some b =>
    let step := fun (acc : State × List Late) (x : Late) =>
      let gid := 32 * bid + x.gi
      match (if x.back.isSome then none else (Map.find? acc.1.groups gid).bind (fun g => g.culprit x)) with
      | some (ent, f) => (acc.1.modFrag ⟨gid, ent⟩ (fun f => f.putBack x.site), acc.2 ++ [{ x with ent := ent, back := some f }])
      | none => (acc.1, acc.2 ++ [x])
    let r := b.late.foldl step (s, [])
    r.1.setBlock bid { b with late := r.2 }

/-! Going on (R6, R369) -/

/-- Where each block of a launch cluster had its scratchpad, and where it has it now (R166). -/
def State.shifts (s : State) (b : Block) (old : List Nat) : List (Nat × Nat) :=
  let mine := if b.child.isSome then [b]
    else (s.blocks.filter (fun p => p.2.lid == b.lid && p.2.cluster == b.cluster && p.2.child.isNone)).map Prod.snd
  mine.map (fun m => (old.getD m.cblk 0, 524288 * m.core + m.spbase))

/-- An address in a core scratchpad after the blocks of a cluster have moved; `len` bytes belong to each. -/
def shifted (ps : List (Nat × Nat)) (len a : Nat) : Nat :=
  match ps.find? (fun p => p.1 ≤ a && a < p.1 + len) with
  | some p => p.2 + (a - p.1)
  | none => a

/-- An access at other addresses. -/
def IqKind.at_ (f : Nat → Nat) : IqKind → IqKind
  | .load line bs acq => .load (f line) (bs.map (fun b => (f b.1, b.2))) acq
  | .atom a r => .atom (f a) r
  | .bar a op => .bar (f a) op
  | .stcq a q => .stcq (f a) q
  | .jinit a => .jinit (f a)
  | .fence sc => .fence sc
  | .plins p L k y r => .plins p L k y r

/-- An end of a transfer, and a completion, at other scratchpad addresses. -/
def EndPt.at_ (f : Nat → Nat) : EndPt → EndPt
  | .pt .spad a => .pt .spad (f a)
  | .win starts off => .win (starts.map f) off
  | p => p
def Compl.at_ (f : Nat → Nat) : Compl → Compl
  | .credit l n => .credit (if l.sp = .spad then ⟨.spad, f l.addr⟩ else l) n
  | .counter p w => .counter (p.at_ f) w
  | .batch => .batch

/-- The engine thread that a fault had stopped runs again, in the batch that held it. -/
def State.rerun (s : State) (gid : Nat) (b : Block) (f : Nat → Nat) (x : Late) : State :=
  match x.eng with
  | none => s
  | some e =>
    let id := s.nextId
    let kind := match e.kind with
      | .coll k => .coll { k with stat := k.stat.at_ f }
      | k => k
    let e' := { e with gid := gid, core := b.core, tile := b.core / 96, seq := s.seq, kind := kind, src := e.src.at_ f,
                       dst := e.dst.at_ f, done := e.done.at_ f }
    let s := { s with nextId := id + 1 }.setEngine id e'
    s.modGroup gid (fun g => match x.batch with
      | some 0 => { g with openSet := g.openSet ++ [(id, e.sigma)] }
      | some n => { g with batches := g.batches ++ [(n, [(id, e.sigma)])] }
      | none => g)

/-- What a fault has left of its instruction is done when its block resumes: its accesses are pending again, its engine thread runs, and
the fragment, unless the host has moved it, stands as it stood. The operands are those that the instruction read (DEDUCED, assumption
14). -/
def State.goOn (s : State) (bid : Nat) (b : Block) (x : Late) : State :=
  let gid := 32 * bid + x.gi
  let f := shifted (s.shifts b x.starts) (s.spadOf b).2
  let evs := x.evs.mapIdx (fun i e => { e with id := s.nextId + i * (entryIds + 1), gid := gid, seq := s.seq, late := false,
                                                kind := if e.sp = .spad then e.kind.at_ f else e.kind })
  let s := { s with iq := s.iq ++ evs, nextId := s.nextId + evs.length * (entryIds + 1) }
  let s := s.rerun gid b f x
  let s := { s with seq := s.seq + 1 }
  let cur : Cursor := ⟨gid, x.ent⟩
  match x.back, s.fragAt cur with
  | some old, some now =>
    if now.st == .pending && now.pc == x.site.pc && now.hnd == x.site.hnd && now.act == old.act then
      s.modFrag cur (fun _ => { old with buf := none, park := old.park.bind (fun p =>
        if p.1 < 16 then some (p.1, Map.get 0 b.bars p.1) else none) })
    else s
  | _, _ => s

/-- A fragment that stands at a header, which it could not enter, enters it (R88): as a transfer unless it has come to the end of its
block. -/
def State.enterAt (s : State) (cur : Cursor) : State :=
  match { s with cur := cur }.issuer? with
  | none => s
  | some c => match s.unitAt c c.f.hnd c.f.pc with
    | .ok w =>
      if opField w == 0x1FE && c.f.pc % 8 == 0 && c.f.latch.isEmpty && c.f.st != .pending then
        s.moves c [.enter cur.ent c.f.pc (s.blockEnd c c.f != some c.f.pc)]
      else s
    | .error _ => s

/-- The takes that a PLTAKE still waits for reach the local shard again (R320). -/
def State.retake (s : State) (cur : Cursor) : State :=
  match { s with cur := cur }.issuer? with
  | none => s
  | some c => match c.f.pool with
    | none => s
    | some r => match s.poolOf c r.e (fun h => h.rd && h.wr) with
      | .ok (pid, _) => r.left.foldl (fun s L => s.takeAt pid ⟨cur.gid, cur.ent, L, c.tile, c.tile, []⟩ c.tile) s
      | .error _ => s

/-- A handler that a fault interrupted finds the trap registers as they were before the first fault (R370). -/
def State.oldTraps (s : State) (bid : Nat) (b : Block) : State :=
  b.late.reverse.foldl (fun s x => s.modGroup (32 * bid + x.gi) (fun g => if g.handling then { g with trap := x.trap } else g)) s

/-- A block that has been restored from an image goes on, once those of its launch cluster have been restored too: what its faults have
left, pending traps and instructions to try again (R375, R380), blocks still to be entered, and barriers it waited at (R239). -/
def State.resumeBlock (s : State) (bid : Nat) : State :=
  match Map.find? s.blocks bid with
  | none => s
  | some b =>
    let at_ := b.late.map (fun x => (⟨32 * bid + x.gi, x.ent⟩ : Cursor))
    let s := ((b.late.foldl (fun s x => s.goOn bid b x) s).oldTraps bid b).modBlock bid (fun b => { b with late := [] })
    let gids := (s.groupsOf bid).map Prod.fst
    let waits := gids.flatMap (fun g => ((Map.find? s.groups g).elim [] Group.table).map (fun p => (⟨g, p.1⟩ : Cursor)))
    let s := gids.foldl (fun s g => s.nextTrap g) s
    let s := waits.foldl State.enterAt s
    at_.eraseDups.foldl State.retake (s.repark bid)

/-- The engine threads that faults stopped go on when the block ends instead, as a fault leaves them (R239); one with an end in a core
scratchpad has none left and is dropped (DESIGN CHOICE, assumption 14). -/
def State.rerunEnded (s : State) (xs : List Late) : State :=
  let away := fun (p : EndPt) => match p with
    | .pt .spad _ | .win _ _ => false
    | _ => true
  let free := fun (e : Engine) => away e.src && away e.dst && (match e.done with
    | .credit l _ => l.sp != .spad
    | .counter p _ => away p
    | .batch => true) && (match e.kind with
    | .coll k => away k.stat
    | _ => true)
  xs.foldl (fun s x => match x.eng with
    | some e => if free e then { s with nextId := s.nextId + 1 }.setEngine s.nextId e else s
    | none => s) s

end Sys2Proof.Machine
end

