-- ==== Sys2Proof/Machine/Blocks.lean ====
section
/-! DEFINITION. Placing blocks (R242, R284 to R287, R290, R299, R301, R330, R380, R381), ending and evicting them (R239, R251, R279,
R295, R365, R369, R382), and pre-emption (R295). -/

namespace Sys2Proof.Machine

/-! Room (R284) -/

/-- The lowest start from `lo` on, at a multiple of `align`, of `len` bytes below `hi` that none of the taken ranges overlaps. -/
def firstFit (lo hi align len : Nat) (taken : List (Nat × Nat)) : Option Nat :=
  let up := fun (a : Nat) => (a + align - 1) / align * align
  let fits := fun (a : Nat) => decide (a + len ≤ hi) && taken.all (fun t => !overlap a len t.1 t.2)
  ((lo :: (taken.map (fun t => t.1 + t.2)).filter (fun a => lo ≤ a)).map up).filter fits |>.min?

/-- The groups on a core, with their launch's vector registers. -/
def State.groupsOn (s : State) (core : Nat) : List (Group × Nat) :=
  s.groups.filterMap (fun p => match Map.find? s.blocks (p.1 / 32) with
    | some b => if b.core = core then (Map.find? s.launches b.lid).map (fun l => (p.2, l.desc.vregs)) else none
    | none => none)

/-- Blocks on a core. -/
def State.blocksOn (s : State) (core : Nat) : List (Nat × Block) := s.blocks.filter (fun p => p.2.core == core)

/-- Free register bytes of each sector of a core (R20). -/
def State.freeRegs (s : State) (core : Nat) : List Nat :=
  tab 4 (fun k => 196608 - ((s.groupsOn core).map (fun p => if p.1.sector = k then 384 * p.2 else 0)).sum)

/-- Free slots of each sector of a core (R19). -/
def State.freeSlots (s : State) (core : Nat) : List (List Nat) :=
  tab 4 (fun k => (List.range 8).filter (fun n => !(s.groupsOn core).any (fun p => p.1.sector == k && p.1.slot == n)))

/-- Sector and slot for each of n groups (R284): the sector with the most free register bytes that has a free slot, the lowest on a
tie, and its lowest free slot. -/
def assign (need : Nat) : Nat → List Nat → List (List Nat) → Option (List (Nat × Nat))
  | 0, _, _ => some []
  | n + 1, regs, slots =>
    let ks := (List.range 4).filter (fun k => !(slots.getD k []).isEmpty)
    match ks.find? (fun k => ks.all (fun j => decide (regs.getD j 0 ≤ regs.getD k 0))) with
    | none => none
    | some k =>
      if regs.getD k 0 < need then none
      else (assign need n (regs.set k (regs.getD k 0 - need)) (slots.set k (slots.getD k []).tail)).map
        (fun r => (k, (slots.getD k []).headD 0) :: r)

/-- A place for a block: sectors and slots, its scratchpad's start and its lane slices' start. -/
structure Room where
  places : List (Nat × Nat)
  spbase : Nat
  slbase : Nat
  deriving DecidableEq, Repr

/-- The place a core has for a block of a launch (R284); `slices` when it needs lane-slice bytes of the core's tile beside those in
`extra`. -/
def State.room (s : State) (core : Nat) (l : Launch) (slices : Bool) (extra : List (Nat × Nat)) : Option Room :=
  let d := l.desc
  let bs := (s.blocksOn core).map Prod.snd
  let bars := (bs.map (fun b => if b.st = .over then 0 else match Map.find? s.launches b.lid with
    | some m => m.desc.bars
    | none => 0)).sum
  let t := core / 96
  let arena := s.arenaStart t
  let sl := if slices then firstFit arena (arena + s.regs.arena * 2 ^ 30) 128 d.sliceBytes ((s.tileRec t).slices ++ extra) else some 0
  match assign (384 * d.vregs) (groupCount d.lanes) (s.freeRegs core) (s.freeSlots core), firstFit 0 524288 128 (128 * d.spad)
      (bs.map s.spadOf), sl with
  | some ps, some sp, some a => if bars + d.bars ≤ 64 then some ⟨ps, sp, a⟩ else none
  | _, _, _ => none

/-! Eligible cores and columns (R286, R289, R290) -/

/-- The profiles a launch accepts (R7, R276). -/
def Launch.accepts (l : Launch) (core : Nat) : Bool :=
  if profileW (core / 96) then l.desc.prof != 1 else l.desc.prof != 2

def State.cluState (s : State) (clu : Nat) : CluState := Map.get .on s.clusters clu

/-- Whether the sage pair places blocks at all (R387, R388). -/
def State.scheduling (s : State) : Bool := !s.regs.sageHalted && !s.regs.shut && s.regs.own == .owned

/-- A core that is eligible but for its column (R286). -/
def State.canTake (s : State) (core : Nat) (l : Launch) : Bool :=
  decide (core < 768) && l.accepts core && (s.ctx l.ctx).mask.getLsbD core && (s.core core).ret != 3
    && s.cluState (core / 8) == .on && (s.tileRec (core / 96)).st == .run && !(s.column (core / 8)).throttled

/-- A column below the dispatch threshold (R286). -/
def State.cool (s : State) (col : Nat) : Bool := decide ((s.column col).temp10 < 10 * s.regs.tdisp)

/-- A block to be placed: its launch, block index, the record of a child, and the image it resumes from. -/
structure Item where
  lid   : Nat
  bidx  : Nat
  child : Option Child
  img   : Option Img
  deriving DecidableEq, Repr

/-- Whether an item is alone in its launch cluster for ever: a child (R299). -/
def Item.alone (x : Item) : Bool :=
  x.child.isSome || (match x.img with
    | some i => i.child
    | none => false)

/-- Free register bytes of a core. -/
def State.freeBytes (s : State) (core : Nat) : Nat := (s.freeRegs core).sum

/-- Places for items on distinct cores of a list (R285, R286): each takes the core with the most free register bytes, the lowest
number on a tie. -/
def State.fill (s : State) (l : Launch) : List Item → List Nat → List (Nat × Nat) → Option (List (Item × Nat × Room))
  | [], _, _ => some []
  | x :: xs, cores, extra =>
    let rs := cores.filterMap (fun c => if s.canTake c l then (s.room c l x.img.isNone extra).map (fun r => (c, r)) else none)
    match rs.find? (fun p => rs.all (fun q => decide (s.freeBytes q.1 ≤ s.freeBytes p.1))) with
    | none => none
    | some (c, r) =>
      let extra := if x.img.isNone then (r.slbase, l.desc.sliceBytes) :: extra else extra
      (s.fill l xs (cores.filter (· ≠ c)) extra).map (fun rest => (x, c, r) :: rest)

/-- Resident blocks of a column by power class; `none` counts all. -/
def State.resident (s : State) (col : Nat) (power : Option Nat) : Nat :=
  (s.blocks.filter (fun p => p.2.core / 8 == col && (match power, Map.find? s.launches p.2.lid with
    | some k, some l => l.desc.power == k
    | some _, none => false
    | none, _ => true))).length

/-- The rank of a column for a power class (R286): the least is chosen. -/
def State.rank (s : State) (power col : Nat) : Int :=
  let c : Int := s.resident col (some 1)
  let m : Int := s.resident col (some 2)
  match power with
  | 1 => c - m
  | 2 => m - c
  | _ => s.resident col none

/-- Whether column a comes before column b. -/
def State.colBefore (s : State) (power a b : Nat) : Bool :=
  let ta := (s.column a).temp10
  let tb := (s.column b).temp10
  decide (s.rank power a < s.rank power b) || (s.rank power a == s.rank power b && (decide (ta < tb) || (ta == tb && decide (a < b))))

/-- The first column by an order. -/
def firstCol (before : Nat → Nat → Bool) (xs : List Nat) : Option Nat :=
  xs.foldl (fun acc c => match acc with
    | some b => if before c b then some c else acc
    | none => some c) none

/-- The resident blocks of an item's launch cluster. -/
def State.mates (s : State) (l : Launch) (x : Item) : List Block :=
  if x.alone then []
  else ((s.blocks.filter (fun p => p.2.lid == x.lid && p.2.cluster == x.bidx / l.clw && p.2.child.isNone && p.2.st != .ending
    && p.2.st != .over)).map Prod.snd)

/-- A column is cooler than another; equal ones go by number (R290; DEDUCED, assumption 33). -/
def State.cooler (s : State) (a b : Nat) : Bool :=
  decide ((s.column a).temp10 < (s.column b).temp10) || ((s.column a).temp10 == (s.column b).temp10 && decide (a < b))

/-- A core without resident blocks in a cooler column could take an item, and so will by stealing (R290, R301). -/
def State.otherTakes (s : State) (l : Launch) (xs : List Item) (core : Nat) : Bool :=
  (List.range 768).any (fun d => s.cooler (d / 8) (core / 8) && (s.blocksOn d).isEmpty && (s.fill l xs [d] []).isSome)

/-- Where items that are placed together go (R285, R286, R290): `only` for a child popped or stolen by a core, which takes it under R290
where no core of a cooler column could (DEDUCED, assumption 33). -/
def State.choose (s : State) (xs : List Item) (only : Option Nat) : Option (List (Item × Nat × Room)) :=
  match xs with
  | [] => none
  | x :: _ =>
    match Map.find? s.launches x.lid with
    | none => none
    | some l =>
      let mates := s.mates l x
      let cols := match only, mates with
        | some c, _ => [c / 8]
        | none, b :: _ => [b.core / 8]
        | none, [] => List.range 96
      let coresOf := fun (col : Nat) => match only with
        | some c => [c]
        | none => (tab 8 (fun i => 8 * col + i)).filter (fun c => !mates.any (fun b => b.core == c))
      let ok := cols.filter (fun c => (s.fill l xs (coresOf c) []).isSome)
      let col := match firstCol (s.colBefore l.desc.power) (ok.filter s.cool) with
        | some c => some c
        | none =>
          if l.prio ≠ 3 || only.any (fun c => s.otherTakes l xs c) then none else firstCol s.cooler ok
      col.bind (fun c => s.fill l xs (coresOf c) [])

/-! Candidates (R287, R301) -/

/-- A launch whose blocks may start: admitted, and not ended as a whole (R23, R279, R386). -/
def Launch.live (l : Launch) : Bool := l.phase == .admitted && decide (l.status < 6)

/-- Candidates of a launch in ascending order of their first block's index. -/
def byIndex (xs : List (List Item)) : List (List Item) :=
  let key := fun (x : List Item) => (x.head?.map Item.bidx).getD 0
  xs.foldl (fun acc x => acc.takeWhile (fun y => key y ≤ key x) ++ x :: acc.dropWhile (fun y => key y ≤ key x)) []

/-- A launch's unplaced blocks in ascending block index (R287), those of a launch cluster together: those that start again, and the next
cluster that no block of has started. -/
def Launch.nextItems (l : Launch) (lid : Nat) : List (List Item) :=
  let again := fun (b : Nat) => l.redo.any (fun p => p.1 == b && p.2.1.isNone)
  let clusters := ((l.redo.filter (fun p => p.2.1.isNone)).map (fun p => p.1 / l.clw)).eraseDups
  let blocks := clusters.map (fun k => ((tab l.clw (fun i => k * l.clw + i)).filter again).map (fun b => (⟨lid, b, none, none⟩ : Item)))
  let kids := l.redo.filterMap (fun p => p.2.1.map (fun x => [(⟨lid, p.1, some x, none⟩ : Item)]))
  byIndex (blocks ++ kids) ++ [tab (min l.clw (l.nblk - l.next)) (fun i => ⟨lid, l.next + i, none, none⟩)]

/-- Whether a launch has blocks that wait for a place: a valid image is an unplaced block again (R280). -/
def Launch.waiting (l : Launch) : Bool := l.live && (!l.redo.isEmpty || decide (l.next < l.nblk) || l.images.any Img.ready)

/-- The items of the images that are resumed together with an image (R381); none while one of them is not ready. -/
def Launch.imageItems (l : Launch) (lid : Nat) (i : Img) : List Item :=
  let is := if i.child then [i] else l.images.filter (fun j => !j.child && j.bidx / l.clw == i.bidx / l.clw)
  if is.all Img.ready then is.map (fun j => ⟨lid, j.bidx, none, some j⟩) else []

/-- Launches of a priority in admission order. -/
def State.atPrio (s : State) (p : Nat) : List (Nat × Launch) :=
  let ls := s.launches.filter (fun q => q.2.live && q.2.prio == p)
  ls.foldl (fun acc x => acc.takeWhile (fun y => y.2.order ≤ x.2.order) ++ x :: acc.dropWhile (fun y => y.2.order ≤ x.2.order)) []

/-- Images of a priority that are ready, in the order of their requests. -/
def State.readyImages (s : State) (p : Nat) : List (List Item) :=
  let is := ((s.atPrio p).map (fun q => (q.2.images.filter Img.ready).map (fun i => (q.1, q.2, i)))).flatten
  let is := is.foldl (fun acc x => acc.takeWhile (fun y => y.2.2.order ≤ x.2.2.order) ++ x ::
    acc.dropWhile (fun y => y.2.2.order ≤ x.2.2.order)) []
  (is.map (fun x => x.2.1.imageItems x.1 x.2.2)).filter (fun xs => !xs.isEmpty && (xs.all (fun x =>
    match Map.find? s.launches x.lid with
    | some l => (s.mates l x).isEmpty
    | none => false)))

/-- A child as an item. -/
def Child.item (x : Child) : Item := ⟨x.lid, x.parent, some x, none⟩

/-- Where a candidate comes from: the sage pair, the head of a core's deque, or the tail of a victim's, which a thief takes. -/
inductive From where
  | sage
  | head (core : Nat)
  | tail (thief victim : Nat)
  deriving DecidableEq, Repr

/-- The core that alone may run a candidate. -/
def From.only : From → Option Nat
  | .sage => none
  | .head c => some c
  | .tail t _ => some t

/-- A deque entry as a candidate of a priority (R301). -/
def State.entryItem (s : State) (x : Option Child) (p : Nat) (f : From) : List (List Item × From) :=
  match x with
  | some x => match Map.find? s.launches x.lid with
    | some l => if l.live && l.prio == p then [([x.item], f)] else []
    | none => []
  | none => []

/-- The cores whose deques a thief looks at, nearest first (R301). -/
def victims (thief : Nat) : List Nat :=
  let near := fun (d : Nat) => (tab d (fun i => thief / d * d + i)).filter (· ≠ thief)
  near 8 ++ (near 96).filter (fun c => c / 8 ≠ thief / 8) ++ (List.range 768).filter (fun c => c / 96 ≠ thief / 96)

/-- What a core without a resident block may steal, at a priority (R287, R301). -/
def State.thefts (s : State) (thief p : Nat) : List (List Item × From) :=
  if !(s.blocksOn thief).isEmpty || s.cores.all (fun q => q.2.deque.isEmpty) then []
  else (victims thief).flatMap (fun v =>
    if (s.tileRec (v / 96)).st == .run then s.entryItem (s.core v).deque.getLast? p (.tail thief v) else [])

/-- What `passed` was when the longest-waiting unplaced block of a launch became unplaced (R287). -/
def Launch.passedAt (l : Launch) : Nat :=
  ((if l.next < l.nblk then [0] else []) ++ l.redo.map (fun (p : Nat × Option Child × Nat) => p.2.2) ++ (l.images.filter Img.ready).map Img.passed).min?.getD l.passed

/-- No unplaced block of an earlier launch would have let more than 4,096 later blocks pass on cores of its profiles (R287), were one to
start on each of these cores. -/
def State.mayPass (s : State) (l : Launch) (cores : List Nat) : Bool :=
  s.launches.all (fun q => !(q.2.waiting && decide (q.2.order < l.order) && decide (l.prio ≤ q.2.prio)) ||
    decide (q.2.passed - q.2.passedAt + (cores.filter q.2.accepts).length ≤ 4096))

/-- The candidates in order (R287), with the deques of the cores given and what the thieves given may steal. -/
def State.candidates (s : State) (cores thieves : List Nat) : List (List Item × From) :=
  [3, 2, 1, 0].flatMap (fun p =>
    (s.readyImages p).map (fun xs => (xs, .sage)) ++ cores.flatMap (fun c => s.entryItem (s.core c).deque.head? p (.head c))
      ++ ((s.atPrio p).filter (fun q => q.2.waiting)).flatMap (fun q => (q.2.nextItems q.1).map (fun xs => (xs, .sage)))
      ++ thieves.flatMap (fun t => s.thefts t p))

/-- Where a candidate goes, when it may start (R287). -/
def State.chosen (s : State) (q : List Item × From) : Option (List (Item × Nat × Room)) :=
  match s.choose q.1 q.2.only with
  | none => none
  | some ps =>
    let cores := ps.map (fun p => p.2.1)
    if ps.all (fun p => p.1.img.isSome || (match Map.find? s.launches p.1.lid with
      | some l => s.mayPass l cores
      | none => false)) then some ps else none

/-! Starting a block (R242, R299, R330) -/

/-- The parts of a list of ranges outside a range, and that range for a context. -/
def carve (us : List Used) (start len ctx : Nat) : List Used :=
  if len = 0 then us
  else ⟨start, len, ctx⟩ :: (us.map (fun u =>
    (if u.start < start then [{ u with len := min u.len (start - u.start) }] else [])
      ++ (if start + len < u.start + u.len then
        [{ u with start := max u.start (start + len), len := u.start + u.len - max u.start (start + len) }] else []))).flatten

/-- Another context was the last to use some of the bytes (R330). -/
def foreign (us : List Used) (start len ctx : Nat) : Bool := us.any (fun u => u.ctx != ctx && overlap u.start u.len start len)

/-- The scratchpad and lane-slice bytes of a block become its context's, zeroed where another context used them (R330). -/
def State.takeBytes (s : State) (ctx core spbase spad slbase slices : Nat) (fresh : Bool) : State :=
  let c := s.core core
  let s := if fresh && foreign c.used spbase spad ctx then { s with spad := s.spad.zero (524288 * core + spbase) spad } else s
  let s := s.setCore core { c with used := carve c.used spbase spad ctx }
  let t := s.homeTile slbase
  let r := s.tileRec t
  let s := if fresh && foreign r.used slbase slices ctx then s.zeroMem slbase slices else s
  s.setTile t { r with used := carve r.used slbase slices ctx,
                       slices := if slices = 0 then r.slices else (slbase, slices) :: r.slices.filter (· ≠ (slbase, slices)) }

/-- Lane-slice bytes are released. -/
def State.freeSlices (s : State) (a n : Nat) : State :=
  let t := s.homeTile a
  s.setTile t { s.tileRec t with slices := (s.tileRec t).slices.filter (· ≠ (a, n)) }

/-- A group at the start of a block (R242), with the scalars of a child (R299). -/
def startGroup (d : Desc) (entry : Word) (child : Option Child) (now i : Nat) (place : Nat × Nat) : Group :=
  let ls := groupLanes d.lanes i
  { sector := place.1, slot := place.2, lanes := ls.1, helpers := ls.2, v := []
    s := match child with
      | some x => [(0, x.arg), (1, x.join)]
      | none => []
    k := [], tiles := [], icnt := [], fl := ⟨0, 0, 0, 0, 0⟩, drm := 0, fpe := d.fpe, lastb := 0, openSet := [], batches := []
    table := [(0, .frag (newFrag (codeHnd entry) (codeOff entry) 0 ls.1 none now))], defer := []
    trap := ⟨0, 0, 0, 0, 0, 0, 0, 0, false, [], 0, none⟩, barArr := [], barWait := [], clArr := 0, exitAt := 0,
    perf := [], seen := [] }

/-- A core is taken under R290: for a block of priority 3, in a column at or above the dispatch threshold. -/
def State.hotPlace (s : State) (l : Launch) (core : Nat) : Bool := l.prio == 3 && !s.cool (core / 8)

/-- A block starts at its entry (R242). A child's start is an acquire at .dev (R299). -/
def State.startBlock (s : State) (x : Item) (l : Launch) (core : Nat) (r : Room) : State :=
  let d := l.desc
  let bid := s.nextId
  let entry := match x.child with
    | some y => y.entry
    | none => d.entry
  let b : Block := ⟨x.lid, x.bidx, core, if x.alone then 0 else x.bidx % l.clw, if x.alone then 0 else x.bidx / l.clw, d.lanes, [], 0,
    .running, 0, 0, x.child, r.spbase, r.slbase, 0, s.hotPlace l core, []⟩
  let s := { s with nextId := bid + 1 }.takeBytes l.ctx core r.spbase (128 * d.spad) r.slbase d.sliceBytes true
  let s := s.setBlock bid b
  let s := (r.places.mapIdx (fun i p => (i, p))).foldl (fun s p =>
    s.setGroup (32 * bid + p.1) (startGroup d entry x.child s.seq p.1 p.2)) s
  (List.range r.places.length).foldl (fun s i =>
    let s := if x.child.isSome then s.stale (32 * bid + i) core (core / 96) .dev else s
    match s.issOf (32 * bid + i) 0 with
    | some c => s.moves c [.enter 0 (codeOff entry) true]
    | none => s) s

/-- An image run is free again (R382). -/
def State.freeRun (s : State) (ctx : Nat) (i : Img) : State :=
  if i.virt then s else s.setCtx ctx { s.ctx ctx with runs := (s.ctx ctx).runs.filter (fun p => p.1 != i.pa) }

/-- A block is restored from an image's bytes (R210, R380): every copy that exists is stale for it. It goes on by `resumeBlock`. -/
def State.restoreBlock (s : State) (x : Item) (i : Img) (bs : List Byte) (l : Launch) (core : Nat) (r : Room) : State :=
  let d := l.desc
  let bid := s.nextId
  let slbase := imgNum bs 0x40 8
  let bidx := imgNum bs 0x18 8
  let child : Option Child := if imgNum bs 0x38 4 % 2 = 1 then
    some ⟨x.lid, imgWord bs 0x50, imgWord bs 0x48, imgWord bs 0x4C, bidx⟩ else none
  let b : Block := ⟨x.lid, bidx, core, imgNum bs 0x34 4, if child.isSome then 0 else bidx / l.clw, d.lanes,
    tab 16 (fun n => (n, imgNum bs (0x100 + 8 * n) 1 % 2)), 0, .running, 0, 0, child, r.spbase, slbase, imgNum bs 0x38 4 % 8,
    s.hotPlace l core, i.late⟩
  let s := { s with nextId := bid + 1 }.takeBytes l.ctx core r.spbase (128 * d.spad) slbase d.sliceBytes false
  let s := (s.setBlock bid b).modLaunch x.lid (fun m => { m with images := m.images.filter (fun j => j.order != i.order) })
  let s := s.freeRun l.ctx i
  let size := groupSize d.vregs
  let sp := 524288 * core + r.spbase
  let pad := bytesFrom sp (bs.drop (0x200 + groupCount d.lanes * size))
  let s := { s with spad := (s.spad.zero sp (128 * d.spad)).writeAll pad }
  let s := (r.places.mapIdx (fun i p => (i, p))).foldl (fun s p =>
    s.setGroup (32 * bid + p.1) (restoreGroup bs (0x200 + p.1 * size) s.seq d p.1 p.2)) s
  (List.range r.places.length).foldl (fun s i =>
    let gid := 32 * bid + i
    (s.stale gid core (core / 96) .dev).findHeaders gid) s

/-! Ending (R251, R278, R279, R299) -/

/-- A cause with which a block or child ends failed (R279). -/
def failing (cause : Nat) : Bool := decide (16 ≤ cause)

/-- A block or child counts as ended in its launch's record (R278, R279). One that a trap ends for want of a handler has not exited, so
that STATUS is not OK, and has not failed (DEDUCED, assumption 29). -/
def State.countEnd (s : State) (lid bidx cause detail : Nat) : State :=
  if cause = 0 then s
  else if !failing cause then s.modLaunch lid (fun l => { l with status := max l.status 1 })
  else s.modLaunch lid (fun l => { l with
    nfail := min (l.nfail + 1) 0xFFFF_FFFF
    fblk := some (l.fblk.getD bidx)
    cause := if l.fblk.isNone then 256 * detail + cause else l.cause
    status := max l.status 1 })

/-- Where a join object lies for the sage pair (R296). -/
def State.joinLoc (s : State) (l : Launch) (w : Word) : Option Loc :=
  let o := wordOpnd w
  let h := l.handle o.idx
  let a := h.base + o.off
  if noObject w then none
  else if h.space = 1 then some ⟨.tpad, 33554432 * h.home + 65536 * (s.ctx l.ctx).tsOff + a⟩
  else (s.physOf l.ctx a).map (fun pa => ⟨.glob, pa⟩)

/-- The ATOMIC step on a child's join object (R299). -/
def State.childJoin (s : State) (l : Launch) (child : Option Child) (failed : Bool) : State :=
  match child.bind (fun x => s.joinLoc l x.join) with
  | none => s
  | some k =>
    let s := if k.sp = .glob then s.cleanBut none (lineOf k.addr) else s
    let x := s.numAt k 8
    let out := (x % 2 ^ 32 + 2 ^ 32 - 1) % 2 ^ 32
    let fail := (x / 2 ^ 32 + if failed then 1 else 0) % 2 ^ 32
    s.rmw ioDie k 8 (out + 2 ^ 32 * fail) []

/-- Images of a launch end with a cause; their runs and lane slices are released, and their blocks' engine threads go on (R239). -/
def State.dropImages (s : State) (lid : Nat) (is : List Img) (cause detail : Nat) : State :=
  match Map.find? s.launches lid with
  | none => s
  | some l =>
    let s := is.foldl (fun s i =>
      let child : Option Child := match i.child, s.imageBytes l.ctx i with
        | true, some bs => some ⟨lid, 0, 0, imgWord bs 0x4C, i.bidx⟩
        | _, _ => none
      let s := (((s.childJoin l child (failing cause)).freeRun l.ctx i).countEnd lid i.bidx cause detail).rerunEnded i.late
      s.freeSlices i.slice.1 i.slice.2) s
    s.modLaunch lid (fun m => { m with images := m.images.filter (fun j => !is.any (fun i => i.order == j.order)) })

/-- A launch ends as a whole with a status (R23, R279, R331, R386): its blocks and images end with a cause, and nothing of it that
has not started starts. A child that still waits in a deque then leaves it and is not counted as failed, nor in its join object: the
spec does not say (DESIGN CHOICE, assumption 29). -/
def State.endLaunch (s : State) (lid status cause detail : Nat) : State :=
  match Map.find? s.launches lid with
  | none => s
  | some l =>
    if l.phase ≠ .admitted then s
    else
      let s := s.modLaunch lid (fun m => { m with status := max m.status status, redo := [] })
      let s := (s.blocks.filter (fun p => p.2.lid == lid)).foldl (fun s p => s.endBlock p.1 cause detail) s
      let s := s.dropImages lid l.images cause detail
      { s with cores := s.cores.map (fun p => (p.1, { p.2 with deque := p.2.deque.filter (fun x => x.lid != lid) })) }

/-- Items start on the cores chosen for them; an image that fails its checks ends its launch with status IMAGE (R280, R380), its blocks
with cause KILLED, for the spec names none (DESIGN CHOICE, assumption 29). Blocks restored together then go on (R381). -/
def State.startAll (s : State) (ps : List (Item × Nat × Room)) : State :=
  let go := fun (s : State) (p : Item × Nat × Room) =>
    let x := p.1
    match Map.find? s.launches x.lid with
    | none => s
    | some l =>
      if !l.live then s
      else match x.img with
        | some i =>
          match s.imageBytes l.ctx i with
          | some bs => if s.imageOk l bs then s.restoreBlock x i bs l p.2.1 p.2.2 else s.endLaunch x.lid 6 causeKilled 0
          | none => s.endLaunch x.lid 6 causeKilled 0
        | none =>
          let later := fun (m : Launch) => m.waiting && decide (m.order < l.order) && decide (l.prio ≤ m.prio) && m.accepts p.2.1
          let s := { s with launches := s.launches.map (fun (q : Nat × Launch) => if later q.2 then (q.1, { q.2 with passed := q.2.passed + 1 }) else q) }
          let s := s.modLaunch x.lid (fun m =>
            if m.redo.any (fun r => r.1 == x.bidx && r.2.1 == x.child) then
              { m with redo := m.redo.eraseP (fun r => r.1 == x.bidx && r.2.1 == x.child) }
            else if x.child.isSome then m else { m with next := x.bidx + 1 })
          s.startBlock x l p.2.1 p.2.2
  let t := ps.foldl go s
  let restored := (t.blocks.filter (fun b => s.nextId ≤ b.1 && ps.any (fun p => p.1.img.isSome && p.1.lid == b.2.lid && p.2.1 == b.2.core))).map Prod.fst
  restored.foldl State.resumeBlock t

/-- The first candidate that goes to a core (R287). -/
def State.firstFor (s : State) (core : Nat) : Option (From × List (Item × Nat × Room)) :=
  (s.candidates [core] [core]).findSome? (fun q => (s.chosen q).bind (fun ps =>
    if ps.any (fun p => p.2.1 == core) then some (q.2, ps) else none))

/-- BLOCK_PLACE (R287): the first candidate that goes to this core, unless it is a theft. -/
def State.doPlace (s : State) (core : Nat) : Option State :=
  if !s.scheduling then none
  else match s.firstFor core with
    | some (.sage, ps) => some (s.startAll ps)
    | some (.head c, ps) => some ((s.setCore c { s.core c with deque := (s.core c).deque.tail }).startAll ps)
    | _ => none

/-- A core that some candidate goes to. -/
def State.placeable (s : State) : Option Nat :=
  if !s.scheduling then none
  else ((s.candidates ((s.cores.filter (fun p => !p.2.deque.isEmpty)).map Prod.fst) []).findSome? (fun q => s.chosen q)).bind
    (fun ps => ps.head?.map (fun p => p.2.1))

/-- DEQUE_STEAL (R301): the thief's first candidate is the tail of another core's deque. The thief's tile logs it (R384). -/
def State.doSteal (s : State) (thief : Nat) : Option State :=
  if !s.scheduling then none
  else match s.firstFor thief with
    | some (.tail _ v, ps) =>
      let x := (s.core v).deque.getLast?
      let s := s.setCore v { s.core v with deque := (s.core v).deque.dropLast }
      let s := match x with
        | some x => if v / 96 = thief / 96 then s else s.logTo (thief / 96) (v / 96) (.steal v x)
        | none => s
      some (s.startAll ps)
    | _ => none

/-- Writes, reads and combine-buffer entries of a block's groups that have not been performed (R210, R251). -/
def State.busy (s : State) (bid : Nat) : Bool :=
  let mine := fun (w : WEv) => w.gid / 32 == bid
  s.sq.any mine || s.clv.any mine || s.cbuf.any mine || s.iq.any (fun e => e.gid / 32 == bid)

/-- Engine threads a block forked. -/
def State.forked (s : State) (bid : Nat) : Bool := s.engines.any (fun p => p.2.gid / 32 == bid)

/-- Dirty guests that hold writes of a block's groups. -/
def State.dirtyOf (s : State) (bid : Nat) : List Nat :=
  (s.guests.filter (fun g => g.dirty && g.writers.any (fun p => p.1 / 32 == bid && decide (p.1 < 2 ^ 40)))).map Copy.line

/-- Dirty guests are written back; none while a home does not answer (R385). -/
def State.cleanAll (s : State) (lines : List Nat) : Option State :=
  if lines.all (fun l => s.answers ⟨.glob, l⟩) then some (lines.foldl (fun s l => s.cleanBut none l) s) else none

/-- Bytes of the core scratchpads are used by engine threads or by other blocks' accesses that are not performed (R166, R221): an end of
a transfer, a credit, a counter or a COLR's STATUS lies there, or a queued access does. -/
def State.reached (s : State) (bid : Nat) (b : Block) : Bool :=
  let p := s.spadOf b
  let lo := 524288 * b.core + p.1
  let other := fun (gid : Nat) => gid / 32 != bid
  let inside := fun (a : Nat) => decide (lo ≤ a) && decide (a < lo + p.2)
  let into := fun (k : EndPt) (n : Nat) => match k with
    | .pt .spad a => overlap a n lo p.2
    | .win starts _ => starts.any inside
    | _ => false
  s.iq.any (fun e => other e.gid && ((e.sp == .spad && e.touches.any inside) || s.mayEnter e .spad (tab p.2 (fun i => lo + i)))) ||
  s.sq.any (fun w => other w.gid && w.sp == .spad && w.bytes.any (fun x => inside x.1)) ||
  s.engines.any (fun q =>
    let e := q.2
    into e.src e.n || into e.dst (s.engBytes e) || (match e.done with
      | .credit l _ => l.sp == .spad && inside l.addr
      | .counter k _ => into k 4
      | .batch => false) || (match e.kind with
      | .coll k => into k.stat 4
      | _ => false))

/-- What a block's groups have seen stays with the engine threads that they forked (R220). -/
def State.keepSeen (s : State) (bid : Nat) : State :=
  { s with engines := s.engines.map (fun p => if p.2.gid / 32 = bid then (p.1, { p.2 with seen := s.seenOf p.2.gid }) else p) }

/-- What a block holds on its core and tile is released (R221, R284). -/
def State.release (s : State) (bid : Nat) (b : Block) (slices : Bool) : State :=
  let s := { s with blocks := Map.del s.blocks bid, groups := s.groups.filter (fun p => p.1 / 32 != bid) }
  match Map.find? s.launches b.lid with
  | some l => if slices then s.freeSlices b.slbase l.desc.sliceBytes else s
  | none => s

/-- BLOCK_ENDED (R251): once drained a block counts as ended, or starts again when its core was lost (R23); its places are released when no engine thread uses them (R221). -/
def State.doBlockEnded (s : State) (bid : Nat) : Option State :=
  match Map.find? s.blocks bid with
  | none => none
  | some b =>
    match Map.find? s.launches b.lid with
    | none => none
    | some l =>
      let later := s.forked bid || s.reached bid b
      match b.st with
      | .over => if later then none else some (s.release bid b true)
      | .ending =>
        let home := match b.child.bind (fun x => s.joinLoc l x.join) with
          | some k => s.answers k
          | none => true
        if s.busy bid || !home then none
        else (s.cleanAll (s.dirtyOf bid)).map (fun s =>
          let again := b.cause == causeCoreLost && l.desc.restart && l.live
          let s := if again then s.modLaunch b.lid (fun m => { m with redo := m.redo ++ [(b.bidx, b.child, m.passed)] })
            else (s.childJoin l b.child (failing b.cause)).countEnd b.lid b.bidx b.cause b.detail
          if later then
            { (s.keepSeen bid).setBlock bid { b with st := .over } with groups := s.groups.filter (fun p => p.1 / 32 != bid) }
          else s.release bid b true)
      | _ => none

end Sys2Proof.Machine
end

