-- ==== Sys2Proof/Machine/Evict.lean ====
section
/-! DEFINITION. Pre-emption and the images of evicted blocks (R295, R365, R369, R381, R382). -/

namespace Sys2Proof.Machine

/-- Priorities of a context's launches that have resident blocks. -/
def State.residentPrios (s : State) (ctx : Nat) : List Nat :=
  ((s.launches.filter (fun q => q.2.ctx == ctx && s.blocks.any (fun p => p.2.lid == q.1 && p.2.st == .running))).map
    (fun q => q.2.prio))

/-- A context's image area can hold an image of every block it has resident (R329). -/
def State.canImage (s : State) (ctx : Nat) : Bool :=
  let c := s.ctx ctx
  s.launches.all (fun q => q.2.ctx != ctx || !q.2.live ||
    (firstFit c.imgBase (c.imgBase + 4096 * c.imgPg) 16384 (imageLen q.2.desc) []).isSome)

/-- Contexts that may be victims of a launch of priority p (R295): each launch with resident blocks has a lower priority. -/
def State.victimsOf (s : State) (p : Nat) : List (Nat × Nat) :=
  (((s.launches.map (fun q => q.2.ctx)).eraseDups).filterMap (fun c => match (s.residentPrios c).max? with
    | some m => if m < p ∧ s.canImage c then some (c, m) else none
    | none => none))

/-- Cores that hold running blocks of a context. -/
def State.coresOf (s : State) (ctx : Nat) : List Nat :=
  ((s.blocks.filter (fun p => p.2.st == .running && (match Map.find? s.launches p.2.lid with
    | some l => l.ctx == ctx
    | none => false))).map (fun p => p.2.core)).eraseDups

/-- Whether context a's cores exceed its share by weight at least as much as context b's, among some contexts (R281, R295). -/
def State.exceeds (s : State) (among : List Nat) (a b : Nat) : Bool :=
  let total : Int := (among.map (fun c => (s.coresOf c).length)).sum
  let weight : Int := (among.map (fun c => (s.ctx c).weight)).sum
  let x := fun (c : Nat) => ((s.coresOf c).length : Int) * weight - total * (s.ctx c).weight
  decide (x b ≤ x a)

/-- PREEMPT (R295 steps 1 and 2): a core leaves a victim's mask, and its blocks there are to be evicted. -/
def State.doPreempt (s : State) (ctx core : Nat) : Option State :=
  match ((s.launches.filter (fun q => q.2.waiting)).map (fun q => q.2.prio)).max? with
  | none => none
  | some p =>
    let vs := s.victimsOf p
    match List.find? (fun v => v.1 == ctx) vs with
    | none => none
    | some v =>
      let peers := (vs.filter (fun w => w.2 == v.2)).map Prod.fst
      if !s.scheduling || vs.any (fun w => decide (w.2 < v.2)) || peers.any (fun w => !s.exceeds peers ctx w)
          || !(s.coresOf ctx).contains core then none
      else
        let x := s.ctx ctx
        let s := s.setCtx ctx { x with mask := x.mask &&& ~~~(1#768 <<< core) }
        some ((s.blocks.filter (fun b => b.2.core == core && b.2.st == .running && (match Map.find? s.launches b.2.lid with
          | some l => l.ctx == ctx
          | none => false))).foldl (fun s b => s.evict b.1 .preempt) s)

/-- No fragment of a block stands within an EXLW or waits for a pool (R295, R320). -/
def State.atBoundary (s : State) (bid : Nat) : Bool :=
  (s.groupsOf bid).all (fun p => p.2.table.all (fun q => match q.2 with
    | .frag f => f.latch.isEmpty && f.pool.isNone
    | _ => true))

/-- A block of a cluster that is being pre-empted for a core that its context's mask has lost, while none of the cluster has stopped at
a boundary (R295 step 2, R381). -/
def State.cancellable (s : State) (bid : Nat) : Bool :=
  let bs := (s.clusterOf bid).filterMap (fun k => (Map.find? s.blocks k).map (fun b => (k, b)))
  let lost := fun (b : Block) => match Map.find? s.launches b.lid with
    | some l => !(s.ctx l.ctx).mask.getLsbD b.core
    | none => false
  bs.any (fun p => lost p.2) && bs.all (fun p => p.2.st == .stopping .preempt && !s.atBoundary p.1)

/-- Cores return to the masks of the contexts, and the blocks there that have not stopped yet are not evicted (R295; when they return
is a DESIGN CHOICE, assumption 38). -/
def State.masksReturn (s : State) : State :=
  { s with blocks := s.blocks.map (fun p => if s.cancellable p.1 then (p.1, { p.2 with st := .running }) else p)
           ctxs := s.ctxs.map (fun p => (p.1, { p.2 with mask := BitVec.allOnes 768 })) }

/-- Dirty guests that hold bytes a block's groups have seen (R210). -/
def State.seenDirty (s : State) (bid : Nat) : List Nat :=
  (s.guests.filter (fun g => g.dirty && (s.groupsOf bid).any (fun p => p.2.seen.any (fun q => lineOf q.1 == g.line)))).map Copy.line

/-- What follows the image of a block (R295 step 6, R358, R365, R369). -/
def State.offer (s : State) (why : Evict) (pa : Nat) (l : Launch) (order : Nat) : State :=
  match why with
  | .preempt => s
  | .svc n lo hi => s.post 7 l.ctx false l.tag (pa + n % 2 ^ 14) (lo.toNat + 2 ^ 32 * hi.toNat) order
  | .service => s.post 3 l.ctx false l.tag pa 0 order

/-- BLOCK_IMAGE_WRITE (R295 steps 3 to 6). The sage pair, while it runs (R16), asks for the RESUME of an image that it has saved itself
while residency is in hardware mode (R280), or of one whose launch cluster a reply has resumed (R381). It waits for other groups' writes
that the block has read and that have not joined the coherence order, so that the block reads nothing older on resuming (R198, R210). -/
def State.doImageWrite (s : State) (bid : Nat) : Option State :=
  match Map.find? s.blocks bid with
  | none => none
  | some b =>
    match b.st, Map.find? s.launches b.lid with
    | .stopping why, some l =>
      let s := if s.atBoundary bid then s.passParked bid else s
      let b := (Map.find? s.blocks bid).getD b
      let away := s.unjoined.any (fun w => w.obs.any (fun g => g / 32 == bid))
      if s.regs.sageHalted || s.forked bid || s.reached bid b || s.busy bid || s.cbuf.any (fun w => w.core == b.core) || away
          || !s.atBoundary bid then none
      else match s.cleanAll (s.dirtyOf bid ++ s.seenDirty bid) with
        | none => none
        | some s =>
          let x := s.ctx l.ctx
          let n := imageLen l.desc
          match firstFit x.imgBase (x.imgBase + 4096 * x.imgPg) 16384 n x.runs with
          | none => if why = .preempt then none else some (s.endBlock bid causeService 1)
          | some pa =>
            let kind := (if b.child.isSome then 1 else 0) + (match why with
              | .svc _ _ _ => 2
              | .service => 4
              | .preempt => 0)
            let order := s.nextId
            let s := s.putBackLate bid
            let b := (Map.find? s.blocks bid).getD b
            let mate := l.images.any (fun j => j.ready && !j.child && b.child.isNone && j.bidx / l.clw == b.cluster)
            let img : Img := ⟨pa, false, n, b.bidx, b.child.isSome, why == .preempt && (!s.assisted 1 || mate), order, b.cause, b.detail,
              (b.slbase, l.desc.sliceBytes), b.late, l.passed⟩
            let s := { s with nextId := order + 1 }.store ioDie (bytesFrom pa (s.imageOf bid b l kind))
            let s := s.setCtx l.ctx { s.ctx l.ctx with runs := (pa, (n + 16383) / 16384 * 16384) :: (s.ctx l.ctx).runs }
            let s := (s.release bid b false).modLaunch b.lid (fun m => { m with images := m.images ++ [img] })
            some (s.offer why pa l order)
    | _, _ => none

/-- R287, R301 -/
def execBlockPlace (core : Nat) (s : State) : Out := stepped s (s.doPlace core)
/-- R301 -/
def execDequeSteal (thief : Nat) (s : State) : Out := stepped s (s.doSteal thief)
/-- R251 -/
def execBlockEnded (bid : Nat) (s : State) : Out := stepped s (s.doBlockEnded bid)
/-- R295 -/
def execPreempt (ctx core : Nat) (s : State) : Out := stepped s (s.doPreempt ctx core)
/-- R295 -/
def execBlockImageWrite (bid : Nat) (s : State) : Out := stepped s (s.doImageWrite bid)

end Sys2Proof.Machine
end

