-- ==== Sys2Proof/Machine/Launches.lean ====
section
/-! DEFINITION. Launches (R167, R169, R274 to R283, R305, R306): the checks of a LAUNCH, admission and its lease, and the completion
record. -/

namespace Sys2Proof.Machine

/-! Checks -/

/-- Bits hi .. lo of a number. -/
def fld (x hi lo : Nat) : Nat := x / 2 ^ lo % 2 ^ (hi + 1 - lo)

/-- The pool fields of a handle entry (R305). -/
def Hnd.capb (h : Hnd) : Nat := fld h.raw.toNat 167 152
def Hnd.spill (h : Hnd) : Nat := fld h.raw.toNat 151 144
/-- The length of a pool's shard region in each tile scratchpad (R305). -/
def Hnd.region (h : Hnd) : Nat := 512 * h.capb + 4096

/-- The bytes of a handle's range in its space (R168, R305). -/
def Hnd.range (h : Hnd) : Nat := if h.kind = 3 then h.region else h.bytes

/-- Whether an entry breaks R169, or as a pool R305, in a launch with these sizes (R330). A code handle is at most 2^27 bytes long
(R257). -/
def Hnd.breaks (h : Hnd) (tile spad slice : Nat) : Bool :=
  let x := h.raw.toNat
  let linear := h.kind == 1 || h.kind == 4
  let limit := match h.space with
    | 1 => tile
    | 2 => 4194304
    | 3 => spad
    | _ => slice
  decide (4 < h.kind ∨ 4 < h.space ∨ h.place = 3 ∨ fld x 225 221 ≠ 0 ∨ (h.space = 1 ∧ h.place ≠ 1)) || ((h.rcnt != 0) != (h.reuse == 2))
    || (h.kind != 2 && (h.fmt != 0 || h.swz != 0 || h.ndim != 0))
    || (h.kind != 0 &&
      ((linear && (h.len == 0 || fld x 110 0 != 0))
        || (h.kind == 4 && (h.wr || h.atom || decide (2 ^ 27 < h.len)))
        || (h.kind == 2 && (decide (8 < h.fmt) || h.ndim == 0 || decide (5 < h.ndim)
          || (List.range 5).any (fun d => decide (h.ndim ≤ d) && (h.size.getD d 1 != 1 || (d != 0 && h.strd.getD d 0 != 0)))
          || (h.fmt == 5 && h.size.getD 0 1 % 32 != 0)))
        || (h.kind == 3 && (h.space != 1 || h.home != 0 || h.capb == 0 || h.spill == 1 || h.spill == 2 || fld x 142 0 != 0))
        || (if h.space = 0 then linear && decide (2 ^ 57 < h.base + h.len) else decide (limit < h.base + h.range))))

/-- The shard regions of the pools of running launches, by absolute offset in a tile scratchpad. -/
def State.poolRegions (s : State) : List (Nat × Nat) :=
  s.pools.filterMap (fun p => (Map.find? s.launches p.2.lid).map (fun l =>
    let h := l.handle p.2.handle
    (65536 * (s.ctx l.ctx).tsOff + h.base, h.region)))

/-- Whether a pool entry breaks R306. -/
def State.poolBreaks (s : State) (l : Launch) (i : Nat) (h : Hnd) : Bool :=
  let sp := l.handle h.spill
  let others := (l.handles.mapIdx (fun j x => (j + 3, hndOf x))).filter (fun p => p.1 != i && (p.2.kind != 0 && p.2.space == 1))
  !s.feat 3 || others.any (fun p => overlap h.base h.region p.2.base p.2.range)
    || s.poolRegions.any (fun r => overlap (65536 * (s.ctx l.ctx).tsOff + h.base) h.region r.1 r.2)
    || (h.spill != 0 && !(sp.kind == 1 && sp.space == 0 && sp.rd && sp.wr && sp.len % 512 == 0))

/-- The pool handles of a launch. -/
def Launch.poolHandles (l : Launch) : List (Nat × Hnd) :=
  (l.handles.mapIdx (fun j x => (j + 3, hndOf x))).filter (fun p => p.2.kind == 3)

/-- R277 order 3. -/
def State.tableBreaks (s : State) (l : Launch) (first : Nat) : Bool :=
  first != 0 || (l.handles.map hndOf).any (fun h => h.breaks (65536 * (s.ctx l.ctx).tsLen) (128 * l.desc.spad) (4 * l.desc.slice))
    || l.poolHandles.any (fun p => s.poolBreaks l p.1 p.2)

/-- A launch descriptor's fields (R276). -/
def descOf (x : Nat) : Desc where
  seed := BitVec.ofNat 64 (fld x 191 128)
  fpe := BitVec.ofNat 5 (fld x 127 123)
  prio := fld x 122 121
  power := fld x 120 119
  prof := fld x 118 117
  bars := fld x 116 112
  restart := x.testBit 111
  slice := fld x 110 96
  spad := fld x 95 83
  vregs := fld x 82 76
  lanes := fld x 75 64
  trap := BitVec.ofNat 32 (fld x 63 32)
  entry := BitVec.ofNat 32 x

/-- Whether a code address of a descriptor names no code handle or lies beyond it (R277 order 2). -/
def Launch.badCode (l : Launch) (w : Word) : Bool :=
  let h := l.handle (codeHnd w)
  h.kind != 4 || decide (h.len ≤ codeOff w)

/-- R277 order 2, on a launch whose descriptor and table have been read. -/
def Launch.badDesc (l : Launch) (x : Nat) : Bool :=
  let d := l.desc
  x / 2 ^ 192 != 0 || d.power == 3 || decide (16 < d.bars ∨ 16384 < d.slice ∨ 4096 < d.spad ∨ d.vregs = 0 ∨ 64 < d.vregs
    ∨ d.lanes = 0 ∨ 3072 < d.lanes) || l.badCode d.entry || (d.trap != 0 && l.badCode d.trap)

/-- An address of a packet, aligned and mapped (R275, R277, R356). -/
def State.goodAddr (s : State) (ctx va align n : Nat) : Bool := decide (va < 2 ^ 57) && va % align == 0 && s.mapped ctx va n

/-- R277 order 1, but for CMPL. -/
def State.badPacket (s : State) (ctx x : Nat) : Bool :=
  fld x 511 320 != 0 || fld x 203 201 != 0 || fld x 31 8 != 0 || fld x 255 208 == 0 || fld x 207 204 == 0 || decide (8 < fld x 207 204)
    || decide (fld x 200 192 < 3) || decide (256 < fld x 200 192) || !s.goodAddr ctx (fld x 127 64) 64 64
    || !s.goodAddr ctx (fld x 191 128) 32 (32 * fld x 200 192)

/-! Ends -/

/-- The completion record (R278). -/
def Launch.record (l : Launch) : List Byte :=
  toBytes 32 (1 + l.tag.toNat * 2 ^ 32 + l.status * 2 ^ 64 + l.cause % 2 ^ 16 * 2 ^ 80 + l.nfail * 2 ^ 96
    + l.fblk.getD (2 ^ 64 - 1) % 2 ^ 64 * 2 ^ 128)

/-- A launch leaves its queue's packets that have not acted. -/
def State.leavesQueue (s : State) (lid : Nat) (l : Launch) : State :=
  s.setQueue l.queue { s.queue l.queue with acts := (s.queue l.queue).acts.filter (· ≠ .launch lid) }

/-- The home of a launch's completion record answers: DONE is performed there when it is written (R355, R385). -/
def State.recordUp (s : State) (l : Launch) : Bool := s.vaUp l.ctx l.cmpl 32

/-- A launch has ended: its record is written, its vector sent (R278, R355), and it leaves its queue. While the record's home does not
answer the launch is closing, and LAUNCH_END ends it. -/
def State.finishLaunch (s : State) (lid : Nat) (l : Launch) : State :=
  if !s.recordUp l then (s.setLaunch lid { l with phase := .closing }).leavesQueue lid l
  else
    let l := { l with phase := .ended }
    let s := ((s.setLaunch lid l).storeVa l.ctx l.cmpl l.record).leavesQueue lid l
    if (s.queue l.queue).vec ≤ 1 then s else s.sendMsix (s.queue l.queue).vec

/-- A launch is rejected (R277, R279). -/
def State.reject (s : State) (lid status : Nat) : State :=
  match Map.find? s.launches lid with
  | some l => s.finishLaunch lid { l with status := max l.status status }
  | none => s

/-- What holds a launch back from ending (R278): blocks, images, blocks to come, children, or blocks that a tile reset took. -/
def State.unfinished (s : State) (lid : Nat) (l : Launch) : Bool :=
  s.blocks.any (fun p => p.2.lid == lid) || !l.images.isEmpty || l.waiting
    || s.cores.any (fun p => p.2.deque.any (fun x => x.lid == lid)) || s.tiles.any (fun p => p.2.lost.any (fun x => x.1 == lid))

/-- LAUNCH_END (R278): the engine threads' dirty guests are written back, the record is written, and the lease, the pools and the
launch's places are released (R283, R306). Cores that pre-emption took from contexts return (DESIGN CHOICE, assumption 38). It waits for
the sage pair (R16) and for the record's home. -/
def State.doLaunchEnd (s : State) (lid : Nat) : Option State :=
  match Map.find? s.launches lid with
  | none => none
  | some l =>
    if s.regs.sageHalted || !s.recordUp l then none
    else if l.phase = .closing then some (s.finishLaunch lid l)
    else if l.phase ≠ .admitted || s.unfinished lid l then none
    else
      let lines := (s.guests.filter (fun g => g.dirty && g.writers.any (fun p => decide (2 ^ 40 ≤ p.1)))).map Copy.line
      (s.cleanAll lines).map (fun s =>
        let s := s.finishLaunch lid l
        { s with pools := s.pools.filter (fun p => p.2.lid != lid), pins := s.pins.filter (fun p => p.lid != lid) }.masksReturn)

/-! Admission -/

/-- Every launch that an EDGE names as the producer has ended (R209, R282). -/
def State.edgesMet (s : State) (l : Launch) : Bool :=
  l.edges.all (fun e => match Map.find? s.launches e.producer with
    | some p => p.phase == .ended
    | none => true)

/-- The first LAUNCH of its queue that has not acted (R274). -/
def State.firstInQueue (s : State) (lid : Nat) (l : Launch) : Bool :=
  ((s.queue l.queue).acts.filterMap (fun a => match a with
    | .launch k => some k
    | _ => none)).head? == some lid

/-- The sage pair reads the descriptor and the handle table (R167, R276). -/
def State.readLaunch (s : State) (l : Launch) : Nat × Nat × Launch :=
  let x := s.numVa l.ctx l.daddr 64
  let first := s.numVa l.ctx l.htab 96
  let hs := tab (l.hcnt - 3) (fun i => BitVec.ofNat 256 (s.numVa l.ctx (l.htab + 96 + 32 * i) 32))
  let d := descOf x
  (x, first, { l with desc := d, handles := hs, read := true, prio := min d.prio (s.queue l.queue).prio })

/-- What a duty decides about a launch (R358): whether it has answered, waits for the host, whatever the mode is now, or has still to
decide. -/
inductive Advice where
  | given
  | awaited
  | due
  deriving DecidableEq, Repr

def Launch.advice (l : Launch) (duty : Nat) : Advice :=
  if l.answered.contains duty then .given else if l.asked.contains duty then .awaited else .due

/-- The host is asked about a launch. -/
def State.consult (s : State) (lid : Nat) (l : Launch) (duty : Nat) (pages : List Nat) : State :=
  (s.modLaunch lid (fun m => { m with asked := duty :: m.asked })).post duty l.ctx false l.tag 0 (pages.headD 0) lid pages

/-- The pages that a launch's lease lacks (R341). -/
def State.lacks (s : State) (l : Launch) : List Nat :=
  (l.leased.flatMap (fun h => lacking s l.ctx h (h.base + h.bytes) (pageFuel h) (h.base / 4096 * 4096))).eraseDups

/-- The lease of a launch (R283, R341): the state, whether it is granted, and the leaves it pins. -/
def State.lease (s : State) (lid : Nat) (l : Launch) : State × Bool × List Pin :=
  l.leased.foldl (fun acc h =>
    if !acc.2.1 then acc
    else leaseRange acc.1 lid l.ctx l.tag h (h.base + h.bytes) (pageFuel h) (h.base / 4096 * 4096) acc.2.2) (s, true, [])

/-- A launch is admitted: its pools start (R306), the instruction caches drop its code (R97), the copies that its edges name are
dropped (R209), and its blocks may start. -/
def State.admitLaunch (s : State) (lid : Nat) (l : Launch) (pins : List Pin) : State :=
  let order := s.nextId
  let s := { s with nextId := order + 1, pins := pins ++ s.pins }.setLaunch lid { l with phase := .admitted, order := order }
  let s := l.poolHandles.foldl (fun s p => s.startPool lid p.1 p.2) s
  let s := s.dropCode l.ctx (l.handles.map hndOf)
  ((l.edges.map EdgeRec.ranges).flatten.foldl (fun s r => s.dropVa l.ctx r.1 r.2) s).leavesQueue lid l

/-- What follows the admission duty: the pools of launches that have begun to run meanwhile (R306), then the lease (R283, R341), which the
residency duty decides where it is host-assisted when the decision starts (R358). A lease that has entries or frames to write, and a pool
with segments to clear, wait until every tile takes messages: each write is performed at home before the lease is granted (R341, R385). -/
def State.grantLease (s : State) (lid : Nat) (l : Launch) : Option State :=
  let s := s.setLaunch lid l
  if l.poolHandles.any (fun p => s.poolBreaks l p.1 p.2) then some (s.reject lid 4)
  else
    let writes := !(s.lacks l).isEmpty || l.poolHandles.any (fun p => p.2.spill != 0)
    let lease := fun (_ : Unit) =>
      if writes && (List.range 8).any (fun t => !s.tileUp t) then none
      else
        let g := s.lease lid l
        some (if g.2.1 then g.1.admitLaunch lid l g.2.2 else g.1.reject lid 5)
    match l.advice 1 with
    | .awaited => none
    | .given => if (s.lacks l).isEmpty then lease () else some (s.reject lid 5)
    | .due => if s.assisted 1 && !(s.lacks l).isEmpty then some (s.consult lid l 1 (s.lacks l)) else lease ()

/-- LAUNCH_ADMIT (R277, R282, R283): it goes as far as it can. -/
def State.doAdmit (s : State) (lid : Nat) : Option State :=
  match Map.find? s.launches lid with
  | none => none
  | some l =>
    if l.phase ≠ .parsed || !s.firstInQueue lid l || !s.edgesMet l || !s.scheduling || !(s.ctx l.ctx).en || (s.ctx l.ctx).going then none
    else
      let r := if l.read then (0, 0, l) else s.readLaunch l
      let l1 := r.2.2
      if !l.read && l1.badDesc r.1 then some (s.reject lid 3)
      else if !l.read && s.tableBreaks l1 r.2.1 then some (s.reject lid 4)
      else
        let s := s.setLaunch lid l1
        match l1.advice 0, s.assisted 0 with
        | .awaited, _ => none
        | .due, true => some (s.consult lid l1 0 [])
        | _, _ => s.grantLease lid { l1 with answered := 0 :: l1.answered }

/-- R282 -/
def execLaunchAdmit (lid : Nat) (s : State) : Out := stepped s (s.doAdmit lid)
/-- R278 -/
def execLaunchEnd (lid : Nat) (s : State) : Out := stepped s (s.doLaunchEnd lid)

end Sys2Proof.Machine
end

