-- ==== Sys2Proof/Machine/Packets.lean ====
section
/-! DEFINITION. The packets of the work queues (R274, R275, R280, R328, R355 to R358): each event takes the packet at the head of a
queue when it is of the event's type, or performs what an earlier packet of that type still has to do. -/

namespace Sys2Proof.Machine

/-- A byte of device memory as the host port reads it: at home, zero where nothing is populated (R208, R350). -/
def State.hostByte (s : State) (pa : Nat) : Byte := if s.populated pa 1 then s.readHome ⟨.glob, pa⟩ else 0

/-- A number read at home. -/
def State.hostNum (s : State) (pa n : Nat) : Nat := ofBytes (tab n (fun i => s.hostByte (pa + i)))

/-- The packet at the head of a queue that may be parsed (R355, R387, R388), once its home answers (R385). -/
def State.packet (s : State) (q : Nat) : Option Nat :=
  let x := s.queue q
  let pa := x.base + 64 * (x.head.toNat % 2 ^ x.log2)
  if s.scheduling && x.en && x.wait.isNone && x.head != x.tail && s.answers ⟨.glob, pa⟩ then some (s.hostNum pa 64)
  else none

/-- A context's packets are accepted (R328, R331). -/
def State.accepts (s : State) (ctx : Nat) : Bool := (s.ctx ctx).en && !(s.ctx ctx).going

/-- The packet at the head has been parsed (R353). -/
def State.pop (s : State) (q : Nat) : State := s.setQueue q { s.queue q with head := (s.queue q).head + 1 }

/-- A packet of a type is parsed: discarded with CODE 1 when its context is not enabled (R328), or given to `f`. -/
def State.parse (s : State) (q : Nat) (type : Nat → Bool) (f : State → Nat → Nat → State) : Option State :=
  match s.packet q with
  | none => none
  | some x =>
    if !type x then none
    else
      let s := s.pop q
      let ctx := (s.queue q).ctx
      if s.accepts ctx then some (f s ctx x) else some (s.queueErr q 1)

/-- A packet's TYPE (R274). -/
def typeIs (n : Nat) (x : Nat) : Bool := x % 256 == n

/-- What a packet still has to do is put after its queue's other pending acts. -/
def State.addAct (s : State) (q : Nat) (a : QAct) : State := s.setQueue q { s.queue q with acts := (s.queue q).acts ++ [a] }
def State.dropAct (s : State) (q : Nat) (a : QAct) : State := s.setQueue q { s.queue q with acts := (s.queue q).acts.erase a }

/-- LAUNCH (R275, R277 order 1). The launch takes the edges that wait for its tag (R357). -/
def State.parseLaunch (s : State) (q ctx x : Nat) : State :=
  let lid := s.nextId
  let tag : Word := BitVec.ofNat 32 (fld x 63 32)
  let c := s.ctx ctx
  let edges := c.edges.filter (fun e => e.tag == tag)
  let l : Launch := ⟨tag, ctx, q, (s.queue q).prio, fld x 255 208, fld x 207 204, fld x 200 192, fld x 191 128, fld x 127 64,
    fld x 319 256, descOf 0, [], .parsed, false, 0, 0, 0, none, 0, [], [], edges, [], [], 0, 0⟩
  let s := { s with nextId := lid + 1 }.setCtx ctx { c with edges := c.edges.filter (fun e => e.tag != tag) }
  if !s.goodAddr ctx l.cmpl 32 32 then (s.setLaunch lid { l with phase := .ended, status := 2 }).queueErr q 7
  else if s.badPacket ctx x then (s.setLaunch lid l).reject lid 2
  else (s.setLaunch lid l).addAct q (.launch lid)

/-- The latest launch of a context with a tag that a condition picks. -/
def State.latestLaunch (s : State) (ctx : Nat) (tag : Word) (f : Launch → Bool) : Option (Nat × Launch) :=
  (s.launches.filter (fun p => p.2.ctx == ctx && p.2.tag == tag && f p.2)).getLast?

/-- An image is queued for RESUME (R280, R295). -/
def State.readyImage (s : State) (lid : Nat) (i : Img) : State :=
  let order := s.nextId
  { s with nextId := order + 1 }.modLaunch lid (fun m => { m with
    images := m.images.map (fun (j : Img) => if j.order == i.order then
      { j with ready := true, order := order, passed := m.passed } else j) })

/-- The reply to an evicted block's event resumes its image and those of its launch cluster (R381), but for one whose own event is out. -/
def State.readyMates (s : State) (lid : Nat) (i : Img) (self : Bool) : State :=
  match Map.find? s.launches lid with
  | none => s
  | some l =>
    let free := fun (j : Img) => !j.ready && !s.regs.duties.any (fun d => (d.duty == 3 || d.duty == 7) && d.what == j.order)
    let mates := l.images.filter (fun j => j.order != i.order && !i.child && !j.child && j.bidx / l.clw == i.bidx / l.clw && free j)
    ((if self then [i] else []) ++ mates).foldl (fun s j => s.readyImage lid j) s

/-- RESUME (R280): the image joins its launch, which must not have ended as a whole. The image of a block that waits in the image area is
that block's own, there or where the host has put it (DEDUCED, assumption 38). -/
def State.parseResume (s : State) (q ctx x : Nat) : State :=
  let va := fld x 127 64
  match s.latestLaunch ctx (BitVec.ofNat 32 (fld x 63 32)) Launch.live with
  | none => s.queueErr q 4
  | some (lid, l) =>
    if fld x 511 128 ≠ 0 ∨ fld x 31 8 ≠ 0 ∨ va % 4096 ≠ 0 ∨ 2 ^ 57 ≤ va then s.queueErr q 4
    else
      let img : Img := ⟨va, true, imageLen l.desc, s.numVa ctx (va + 0x18) 8, s.numVa ctx (va + 0x38) 4 % 2 == 1, true, s.nextId,
        causeKilled, 0, (0, 0), [], l.passed⟩
      match l.images.find? (fun i => !i.ready && i.bidx == img.bidx && i.child == img.child) with
      | none => { s with nextId := s.nextId + 1 }.setLaunch lid { l with images := l.images ++ [img] }
      | some i =>
        if s.physOf ctx va = some i.pa then s.readyImage lid i
        else
          { s with nextId := s.nextId + 1 }.freeRun ctx i |>.modLaunch lid (fun m => { m with
            images := m.images.map (fun (j : Img) => if j.order == i.order then
              { j with pa := va, virt := true, ready := true, order := s.nextId, passed := m.passed } else j) })

/-- EDGE (R209, R357). -/
def State.parseEdge (s : State) (q ctx x : Nat) : State :=
  let n := fld x 99 96 + 1
  let va := fld x 191 128
  if fld x 31 8 ≠ 0 ∨ fld x 127 100 ≠ 0 ∨ fld x 511 192 ≠ 0 then s.queueErr q 3
  else if !s.goodAddr ctx va 16 (16 * n) then s.queueErr q 7
  else match s.latestLaunch ctx (BitVec.ofNat 32 (fld x 63 32)) (fun _ => true) with
    | none => s.queueErr q 5
    | some (lid, _) =>
      let ranges := tab n (fun i => (s.numVa ctx (va + 16 * i) 8, s.numVa ctx (va + 16 * i + 8) 8))
      let c := s.ctx ctx
      s.setCtx ctx { c with edges := c.edges ++ [⟨lid, BitVec.ofNat 32 (fld x 95 64), ranges⟩] }

/-- SIGNAL with EVT = 0 writes VALUE, or records CODE 7 (R357). -/
def State.actSignal (s : State) (q addr : Nat) (value : Word) : State :=
  let ctx := (s.queue q).ctx
  if s.goodAddr ctx addr 4 4 then s.storeVa ctx addr (toBytes 4 value.toNat) else s.queueErr q 7

/-- Every launch of a list has ended. -/
def State.ended (s : State) (lids : List Nat) : Bool :=
  lids.all (fun k => match Map.find? s.launches k with
    | some l => l.phase == .ended
    | none => true)

/-- SIGNAL with EVT = 0, parsed (R357). -/
def State.parseSignal (s : State) (q _ctx x : Nat) : State :=
  if fld x 31 8 ≠ 0 ∨ fld x 511 168 ≠ 0 then s.queueErr q 3
  else
    let after := (s.launches.filter (fun p => p.2.queue == q && p.2.phase != .ended)).map Prod.fst
    let value := BitVec.ofNat 32 (fld x 63 32)
    if after.isEmpty && s.vaUp (s.queue q).ctx (fld x 127 64) 4 then s.actSignal q (fld x 127 64) value else s.addAct q (.signal (fld x 127 64) value after)

/-- MARK's record (R357). -/
def State.actMark (s : State) (q addr : Nat) (tag : Word) : State :=
  let ctx := (s.queue q).ctx
  if s.goodAddr ctx addr 16 16 then s.storeVa ctx addr (toBytes 8 s.clk ++ toBytes 4 tag.toNat ++ toBytes 4 1) else s.queueErr q 7

/-- MARK, parsed (R357). -/
def State.parseMark (s : State) (q _ctx x : Nat) : State :=
  let tag := BitVec.ofNat 32 (fld x 63 32)
  if fld x 31 8 ≠ 0 ∨ fld x 511 128 ≠ 0 then s.queueErr q 3
  else if (s.queue q).acts.isEmpty && s.vaUp (s.queue q).ctx (fld x 127 64) 16 then s.actMark q (fld x 127 64) tag
  else s.addAct q (.mark (fld x 127 64) tag)

/-- WAIT, parsed: it holds the later packets of its queue (R357). -/
def State.parseWait (s : State) (q ctx x : Nat) : State :=
  if fld x 31 8 ≠ 0 ∨ fld x 511 128 ≠ 0 then s.queueErr q 3
  else if !s.goodAddr ctx (fld x 127 64) 4 4 then s.queueErr q 7
  else s.setQueue q { s.queue q with wait := some (fld x 127 64, BitVec.ofNat 32 (fld x 63 32)) }

/-- WAIT_SATISFIED (R357). -/
def State.doWaitSatisfied (s : State) (q : Nat) : Option State :=
  let x := s.queue q
  match x.wait with
  | none => none
  | some (va, value) =>
    if !s.scheduling || !s.vaUp x.ctx va 4 then none
    else if !s.goodAddr x.ctx va 4 4 then some ((s.setQueue q { x with wait := none }).queueErr q 7)
    else
      let w := ofBytes (tab 4 (fun i => match s.physOf x.ctx (va + i) with
        | some pa => s.hostByte pa
        | none => 0))
      if value.toNat ≤ w then some (s.setQueue q { x with wait := none }) else none

/-! Replies (R358) -/

/-- CODEs a duty accepts. -/
def dutyCodes (duty : Nat) : Nat := if duty = 1 ∨ duty = 2 then 1 else 2

/-- The launch that holds an image, by the image's place. -/
def State.imageBy (s : State) (order : Nat) : Option (Nat × Img) :=
  s.launches.findSome? (fun p => (p.2.images.find? (fun i => i.order == order)).map (fun i => (p.1, i)))

/-- A duty's reply (R358). -/
def State.replied (s : State) (d : Duty) (code : Nat) : State :=
  match d.duty with
  | 0 =>
    if code = 0 then s.modLaunch d.what (fun l => { l with answered := 0 :: l.answered })
    else match Map.find? s.launches d.what with
      | some l => if l.phase = .parsed then s.reject d.what 9 else s
      | none => s
  | 1 => s.modLaunch d.what (fun l => { l with answered := 1 :: l.answered })
  | 2 => s
  | 4 => s.spillReply d.what (code == 0)
  | 5 => s.setColumn d.what { s.column d.what with throttled := code != 0, dwell := true }
  | 6 =>
    if code = 0 ∧ Map.get .full s.links d.what = .narrow then { s with links := Map.put s.links d.what .sleep } else s
  | k =>
    match s.imageBy d.what with
    | none => s
    | some (lid, i) =>
      if (k == 3) == (code == 1) then s.readyMates lid i true
      else (s.readyMates lid i false).dropImages lid [i] (if k = 3 then i.cause else causeService) (if k = 3 then i.detail else 0)

/-- A SIGNAL with EVT ≠ 0 (R357, R358). An event whose record still waits for room in the ring has not been posted (R359). -/
def State.parseReply (s : State) (q _ctx x : Nat) : State :=
  let evt := BitVec.ofNat 32 (fld x 159 128)
  let code := fld x 167 160
  if fld x 31 8 ≠ 0 ∨ fld x 511 168 ≠ 0 then s.queueErr q 3
  else match s.regs.duties.find? (fun d => d.seq == evt && !s.regs.unposted evt) with
    | none => s.queueErr q 6
    | some d =>
      if !(s.queue q).drv || decide (dutyCodes d.duty ≤ code) then s.queueErr q 6
      else (s.setRegs (fun r => { r with duties := r.duties.filter (fun k => k.seq != evt) })).replied d code

/-- The oldest SIGNAL of a queue whose launches have ended and whose home answers (R385). -/
def State.dueSignal (s : State) (q : Nat) : Option QAct :=
  (s.queue q).acts.find? (fun a => match a with
    | .signal addr _ after => s.ended after && s.vaUp (s.queue q).ctx addr 4
    | _ => false)

/-- A SIGNAL that is due acts, or the next is parsed. -/
def State.doSignal (s : State) (q : Nat) : Option State :=
  match s.dueSignal q with
  | some (.signal addr value after) => some ((s.dropAct q (.signal addr value after)).actSignal q addr value)
  | _ => s.parse q (fun x => typeIs 4 x && fld x 159 128 == 0) (fun s => s.parseSignal q)

/-- The MARK at the head of a queue's pending acts writes its record, or the next is parsed. -/
def State.doMark (s : State) (q : Nat) : Option State :=
  match (s.queue q).acts with
  | .mark addr tag :: _ =>
    if s.vaUp (s.queue q).ctx addr 16 then some ((s.dropAct q (.mark addr tag)).actMark q addr tag)
    else s.parse q (typeIs 6) (fun s => s.parseMark q)
  | _ => s.parse q (typeIs 6) (fun s => s.parseMark q)

/-- R275, R277 -/
def execLaunch (q : Nat) (s : State) : Out := stepped s (s.parse q (typeIs 1) (fun s => s.parseLaunch q))
/-- R280 -/
def execResume (q : Nat) (s : State) : Out := stepped s (s.parse q (typeIs 2) (fun s => s.parseResume q))
/-- R357 -/
def execEdge (q : Nat) (s : State) : Out := stepped s (s.parse q (typeIs 3) (fun s => s.parseEdge q))
/-- R357 -/
def execSignal (q : Nat) (s : State) : Out := stepped s (s.doSignal q)
/-- R358 -/
def execDutyReply (q : Nat) (s : State) : Out :=
  stepped s (s.parse q (fun x => typeIs 4 x && fld x 159 128 != 0) (fun s => s.parseReply q))
/-- R357 -/
def execWait (q : Nat) (s : State) : Out := stepped s (s.parse q (typeIs 5) (fun s => s.parseWait q))
/-- R357 -/
def execWaitSatisfied (q : Nat) (s : State) : Out := stepped s (s.doWaitSatisfied q)
/-- R357 -/
def execMark (q : Nat) (s : State) : Out := stepped s (s.doMark q)
/-- R355: an unknown TYPE is skipped with CODE 3. -/
def execUnknownPacketType (q : Nat) (s : State) : Out :=
  stepped s (s.parse q (fun x => x % 256 == 0 || decide (6 < x % 256)) (fun s _ _ => s.queueErr q 3))

end Sys2Proof.Machine
end

