-- ==== Sys2Proof/Machine/Contexts.lean ====
section
/-! DEFINITION. Contexts, invalidation and decants (R328, R331, R339, R344 to R348). -/

namespace Sys2Proof.Machine

/-! Contexts -/

/-- The 32 bytes of a context's table entry (R328). -/
def State.ctxEntry (s : State) (n : Nat) : Nat := s.ownerNum (s.regs.ctxBase + 32 * n) 32

/-- Whether an entry may be enabled (R329, R331). -/
def State.entryOk (s : State) (x : Nat) : Bool :=
  fld x 255 252 == 0 && fld x 115 1 == 0 && x.testBit 0 && decide (fld x 251 242 ≤ 512) && decide (fld x 241 232 + fld x 251 242 ≤ 512)
    && fld x 231 224 != 0 && s.populated (4096 * fld x 155 116) 4096 && s.populated (4096 * fld x 195 156) 1

/-- An operation of CTX.CTL is running (R331). -/
def State.ctxBusy (s : State) : Bool := s.ctxs.any (fun p => p.2.going)

/-- CTX.CTL's STAT and CTX after an operation (R333). -/
def State.ctxStat (s : State) (ctx stat : Nat) : State := s.setRegs (fun r => { r with ctxCtx := ctx, ctxStat := stat })

/-- CTX_ENABLE (R331). -/
def State.doEnable (s : State) (n : Nat) : State :=
  let x := s.ctxEntry n
  if s.ctxBusy || s.regs.own ≠ .owned || !s.entryOk x || (s.ctx n).en || 4096 ≤ n then s.ctxStat n 3
  else
    (s.setCtx n { Ctx.reset with en := true, root := 4096 * fld x 155 116, imgBase := 4096 * fld x 195 156, imgPg := fld x 223 196,
                                 tsOff := fld x 241 232, tsLen := fld x 251 242, weight := fld x 231 224 }).ctxStat n 2

/-- CTX_RELOAD (R331). -/
def State.doReload (s : State) (n : Nat) : State :=
  if s.ctxBusy || s.regs.own ≠ .owned || !(s.ctx n).en then s.ctxStat n 3
  else (s.setCtx n { s.ctx n with weight := fld (s.ctxEntry n) 231 224 }).ctxStat n 2

/-- The launches of a context end with status KILLED (R331 step 2). -/
def State.killCtx (s : State) (n : Nat) : State :=
  (s.launches.filter (fun p => p.2.ctx == n)).foldl (fun s p => match p.2.phase with
    | .parsed => s.reject p.1 9
    | .admitted => s.endLaunch p.1 9 causeKilled 0
    | .closing | .ended => s) (s.setCtx n { s.ctx n with going := true })

/-- CTX_DISABLE (R331 steps 1 and 2). -/
def State.doDisable (s : State) (n : Nat) : State :=
  if s.ctxBusy || s.regs.own ≠ .owned || !(s.ctx n).en then s.ctxStat n 3
  else (s.killCtx n).ctxStat n 1

/-- A decant is abandoned: the mapping stays (R345, R347). -/
def State.abandon (s : State) (id : Nat) : State :=
  match Map.find? s.decants id with
  | none => s
  | some d => { s with decants := Map.del s.decants id,
                       regs := if d.host then { s.regs with decStat := 4 } else s.regs }

/-- CTX_DISABLE_DONE (R331 steps 3 and 4). -/
def State.doDisabled (s : State) (n : Nat) : Option State :=
  if !(s.ctx n).going || s.launches.any (fun p => p.2.ctx == n && p.2.phase != .ended) then none
  else
    let s := { s with pins := s.pins.filter (fun p => p.ctx != n) }
    let s := (s.decants.filter (fun p => p.2.ctx == n)).foldl (fun s p => s.abandon p.1) s
    let s := (s.shootdown (fun e => e.ctx == n)).setCtx n Ctx.reset
    some (if s.regs.own == .owned then s.setRegs (fun r => { r with ctxStat := 2 }) else s)

/-! Invalidation (R339) -/

/-- XL_INV (R339): the entries of the range leave every TLB, and the frames they gave are noted, beside those of an invalidation that
runs. One that meets a running decant is refused. -/
def State.doInv (s : State) (n : Nat) : State :=
  let all := s.regs.invLen == 0
  let size := 4096 * s.regs.invLen.toNat
  let hit := fun (va m : Nat) => all || overlap va m s.regs.invVa size
  let picks := fun (e : TlbEnt) => e.ctx == n && hit e.va e.size
  if s.decants.any (fun p => p.2.ctx == n && hit p.2.va p.2.size) then
    s.setRegs (fun r => { r with invCtx := n, invStat := 3 })
  else
    let ranges := (((s.tlb1 ++ s.tlb2).filter picks).map (fun e => (e.pa, e.size))).eraseDups
    (s.shootdown picks).setRegs (fun r => { r with
      invCtx := n, invStat := 1, invOn := true, invRanges := (if r.invOn then r.invRanges else []) ++ ranges, invSeq := s.seq })

/-- Accesses issued up to a place in the issue order that touch some ranges and are not performed at H (R193). -/
def State.pendingIn (s : State) (ranges : List (Nat × Nat)) (seq : Nat) : Bool :=
  let inside := fun (a : Nat) => ranges.any (fun r => decide (r.1 ≤ a) && decide (a < r.1 + r.2))
  let w := fun (x : WEv) => decide (x.seq ≤ seq) && x.sp == .glob && x.bytes.any (fun b => inside b.1)
  s.iq.any (fun e => decide (e.seq ≤ seq) && e.sp == .glob && e.touches.any inside) || s.sq.any w || s.clv.any w || s.cbuf.any w
    || s.guests.any (fun g => g.dirty && (List.range 128).any (fun i => inside (g.line + i))
      && g.writers.any (fun p => decide (p.2.1 ≤ seq)))

/-- XL_INV_DONE (R339). -/
def State.doInvDone (s : State) : Option State :=
  if !s.regs.invOn || s.pendingIn s.regs.invRanges s.regs.invSeq then none
  else some (s.setRegs (fun r => { r with invStat := 2, invOn := false, invRanges := [] }))

/-! Decants -/

/-- A range overlaps a part of an enabled window (R344). -/
def State.inWindow (s : State) (a n : Nat) : Bool :=
  s.regs.windows.any (fun w => w.en && (overlap a n w.cbase w.clen || overlap a n w.abase w.alen || overlap a n w.obase (2 * w.olen)
    || overlap a n w.sobase (4 * w.sbcnt)))

/-- The leaf that a decant would move, or the status that ends the request (R344). -/
def State.decantable (s : State) (ctx va dst : Nat) : Except Nat Leaf :=
  match (if (s.ctx ctx).en && s.feat 2 then s.walk ctx va else none) with
  | none => .error 3
  | some l =>
    if dst % l.size ≠ 0 || !s.populated dst l.size || overlap dst l.size l.pa l.size then .error 3
    else if s.decants.any (fun p => p.2.ctx == ctx && p.2.va == l.va) || 64 ≤ s.decants.length then .error 5
    else if s.inWindow l.pa l.size || s.inWindow dst l.size then .error 6
    else .ok l

/-- A decant starts with round 0 (R345). The copy engine is one of the tile where the old frame begins (DESIGN CHOICE, assumption 54). -/
def State.beginDecant (s : State) (ctx dst : Nat) (l : Leaf) (host : Bool) : State :=
  { s with nextId := s.nextId + 1, decants := Map.put s.decants s.nextId ⟨ctx, l.va, l.size, l.pa, dst, [], [], 0, false, host,
    s.homeTile l.pa⟩ }

/-- DECANT_START (R344). -/
def State.doDecant (s : State) (ctx : Nat) : State :=
  match s.decantable ctx s.regs.decVa s.regs.decDst with
  | .error stat => s.setRegs (fun r => { r with decCtx := ctx, decStat := stat })
  | .ok l => (s.beginDecant ctx s.regs.decDst l true).setRegs (fun r => { r with decCtx := ctx, decStat := 1 })

/-- The placement part of a frame (R172). -/
def State.partOf (s : State) (pa : Nat) : Nat :=
  if pa < s.interleaved then 0 else if pa < 2 ^ 40 then 1 + s.homeTile pa else 9

/-- What the migration duty is asked about: a page of a context (R358). -/
def pageOf (ctx va : Nat) : Nat := 2 ^ 57 * ctx + va

/-- DECANT_AUTO_START (R348): a decant of the sage pair's own, or in host-assisted mode an event. -/
def State.doAutoDecant (s : State) (ctx va dst : Nat) : Option State :=
  match s.decantable ctx va dst with
  | .error _ => none
  | .ok l =>
    if s.regs.sageHalted = true ∨ s.partOf dst ≠ s.partOf l.pa ∨ s.partOf (dst + l.size - 1) ≠ s.partOf l.pa then none
    else if s.asked 2 (pageOf ctx l.va) then none
    else if s.assisted 2 then some (s.post 2 ctx false 0 0 0 (pageOf ctx l.va))
    else some (s.beginDecant ctx dst l false)

/-- A line copied from its owner to the new frame (R345). -/
def State.copyLine (s : State) (old dst line : Nat) : State :=
  s.store ioDie (tab 128 (fun i => (dst + (line - old) + i, s.ownerByte (line + i))))

/-- The homes of a frame answer (R385). -/
def State.frameUp (s : State) (pa n : Nat) : Bool := (List.range (n / 4096)).all (fun i => s.answers ⟨.glob, pa + 4096 * i⟩)

/-- DECANT_ROUND (R345): the round's lines are copied; the page is then frozen, or the decant goes on or is abandoned. -/
def State.doRoundOf (s : State) (id : Nat) : Option State :=
  match Map.find? s.decants id with
  | none => none
  | some d =>
    if d.frozen || !s.frameUp d.dst d.size then none
    else
      let lines := if d.round = 0 then tab (d.size / 128) (fun i => d.old + 128 * i) else d.todo
      let s := lines.foldl (fun s l => s.copyLine d.old d.dst l) s
      let put := fun (d : Decant) => some { s with decants := Map.put s.decants id d }
      let n := d.marked.length
      if n < 64 then put { d with frozen := true, todo := [] }
      else if 8 ≤ d.round then (if n ≤ 512 then put { d with frozen := true, todo := [] } else some (s.abandon id))
      else put { d with todo := d.marked, marked := [], round := d.round + 1 }

/-- Physical addresses of an access move with a page. -/
def IqEv.movesTo (e : IqEv) (f : Nat → Nat) : IqEv := if e.sp = .glob then { e with kind := e.kind.at_ f } else e

/-- What faults have left of accesses to a page moves with it: it is tried again where the page then lies (R347, R369). -/
def State.movePending (s : State) (old dst n : Nat) : State :=
  let f := fun (a : Nat) => if old ≤ a ∧ a < old + n then dst + (a - old) else a
  let go := fun (xs : List Late) => xs.map (fun x => { x with evs := x.evs.map (fun e => e.movesTo f) })
  { s with blocks := s.blocks.map (fun p => (p.1, { p.2 with late := go p.2.late }))
           launches := s.launches.map (fun p => (p.1, { p.2 with images := p.2.images.map (fun i => { i with late := go i.late }) })) }

/-- DECANT_FREEZE_DONE (R346 steps 2 to 6): the accesses already translated are performed, the page moves, its entries are written and
its TLB entries dropped. It waits while a home of the frames or of the entries does not answer (R385). -/
def State.doFreezeDone (s : State) (id : Nat) : Option State :=
  match Map.find? s.decants id with
  | none => none
  | some d =>
    let range := [(d.old, d.size)]
    if !d.frozen || { s with guests := [] }.pendingIn range s.seq
        || s.guests.any (fun g => g.dirty && decide (d.old ≤ g.line) && decide (g.line < d.old + d.size) && !s.answers ⟨.glob, g.line⟩) then
      none
    else match s.entryOf d.ctx d.va with
      | none => some (s.abandon id)
      | some (level, a, e) =>
      let p := pageEntries level a d.size
      if !s.homesUp p.1 (8 * p.2) || !s.frameUp d.old d.size || !s.frameUp d.dst d.size then none
      else
        let s := (s.copyRange d.old d.dst d.size).movePending d.old d.dst d.size
        let s := { s with ver := moveKeys d.old d.dst d.size s.ver
                          groups := s.groups.map (fun (p : Nat × Group) => (p.1, { p.2 with seen := moveKeys d.old d.dst d.size p.2.seen })) }
        let s := s.putEntries level a d.size (validEntry e d.dst)
        let s := s.shootdown (fun t => t.ctx == d.ctx && overlap t.va t.size d.va d.size)
        let s := { s with decants := Map.del s.decants id }
        some (if d.host then s.setRegs (fun r => { r with decStat := 2 }) else s.post 2 d.ctx true 0 d.old d.va 0)

/-- R331 -/
def execCtxEnable (ctx : Nat) (s : State) : Out := .next (s.doEnable ctx)
/-- R331 -/
def execCtxDisable (ctx : Nat) (s : State) : Out := .next (s.doDisable ctx)
/-- R331 -/
def execCtxDisableDone (ctx : Nat) (s : State) : Out := stepped s (s.doDisabled ctx)
/-- R331 -/
def execCtxReload (ctx : Nat) (s : State) : Out := .next (s.doReload ctx)
/-- R339 -/
def execXlInv (ctx : Nat) (s : State) : Out := .next (s.doInv ctx)
/-- R339 -/
def execXlInvDone (s : State) : Out := stepped s s.doInvDone
/-- R344 -/
def execDecantStart (ctx : Nat) (s : State) : Out := .next (s.doDecant ctx)
/-- R348 -/
def execDecantAutoStart (ctx va dst : Nat) (s : State) : Out := stepped s (s.doAutoDecant ctx va dst)
/-- R345 -/
def execDecantRound (id : Nat) (s : State) : Out := stepped s (s.doRoundOf id)
/-- R346 -/
def execDecantFreezeDone (id : Nat) (s : State) : Out := stepped s (s.doFreezeDone id)

end Sys2Proof.Machine
end

