-- ==== Sys2Proof/Machine/Hash.lean ====
section
/-! DEFINITION. SHAKE256 (FIPS 202), and the verification of an SLH-DSA-SHAKE-256s signature (FIPS 205), which R34, R360 and R361 name.
The spec gives neither algorithm: both stand here as the standards give them (PRESUMED, assumption 52). -/

namespace Sys2Proof.Machine

/-! SHAKE256, over the permutation Keccak-p[1600, 24], on 25 lanes of 64 bits, lane (x, y) at place x + 5y. Its constants and rotations are not
tables here: they come from the register and the walk that define them. -/

/-- The shift register with feedback x⁸ + x⁶ + x⁵ + x⁴ + 1, from value v after t shifts. -/
def keccakShift (v : Nat) : Nat → Nat
  | 0 => v
  | t + 1 => keccakShift (if v < 128 then 2 * v else (2 * v) ^^^ 0x171) t

/-- What round r adds to lane (0, 0): bit 2^j − 1 is the register's lowest bit after 7r + j shifts. -/
def keccakIota (r : Nat) : BitVec 64 := BitVec.ofNat 64 ((tab 7 (fun j => keccakShift 1 (7 * r + j) % 2 * 2 ^ (2 ^ j - 1))).sum)

/-- The place to which the lanes' walk goes on from place p. -/
def keccakHop (p : Nat) : Nat := p / 5 + (2 * (p % 5) + 3 * (p / 5)) % 5 * 5

/-- Each lane on the walk from (1, 0), turned left by the next triangular number, goes one place on (steps ρ and π). -/
def keccakWalk (a : List (BitVec 64)) : Nat → Nat → Nat → List (BitVec 64) → List (BitVec 64)
  | 0, _, _, out => out
  | n + 1, t, p, out => keccakWalk a n (t + 1) (keccakHop p) (out.set (keccakHop p) ((a.getD p 0).rotateLeft ((t + 1) * (t + 2) / 2 % 64)))

/-- The parity of column x. -/
def keccakParity (a : List (BitVec 64)) (x : Nat) : BitVec 64 := (List.range 5).foldl (fun b y => b ^^^ a.getD (x % 5 + 5 * y) 0) 0

/-- Round r. -/
def keccakRound (a : List (BitVec 64)) (r : Nat) : List (BitVec 64) :=
  let par := tab 5 (keccakParity a)
  let mixed := a.mapIdx (fun p v => v ^^^ par.getD ((p + 4) % 5) 0 ^^^ (par.getD ((p + 1) % 5) 0).rotateLeft 1)
  let moved := keccakWalk mixed 24 0 1 mixed
  let beside := fun (p k : Nat) => moved.getD (p - p % 5 + (p + k) % 5) 0
  moved.mapIdx (fun p v => (v ^^^ (beside p 2 &&& ~~~beside p 1)) ^^^ (if p = 0 then keccakIota r else 0))

def keccak (a : List (BitVec 64)) : List (BitVec 64) := (List.range 24).foldl keccakRound a

/-- A block of 136 bytes goes into the sponge. -/
def absorb (a : List (BitVec 64)) (block : List Byte) : List (BitVec 64) :=
  keccak (a.mapIdx (fun i x => if i < 17 then x ^^^ BitVec.ofNat 64 (ofBytes ((block.drop (8 * i)).take 8)) else x))

/-- Blocks of output. -/
def squeeze : Nat → List (BitVec 64) → List Byte
  | 0, _ => []
  | n + 1, a => ((a.take 17).flatMap (fun x => toBytes 8 x.toNat)) ++ squeeze n (keccak a)

/-- n bytes of SHAKE256. -/
def shake256 (msg : List Byte) (n : Nat) : List Byte :=
  let pad := 136 - msg.length % 136
  let tail : List Byte := if pad = 1 then [0x9F] else [0x1F] ++ List.replicate (pad - 2) 0 ++ [0x80]
  let bs := msg ++ tail
  let a := (List.range (bs.length / 136)).foldl (fun a i => absorb a ((bs.drop (136 * i)).take 136)) (List.replicate 25 0)
  (squeeze ((n + 135) / 136) a).take n

/-! SLH-DSA-SHAKE-256s: n = 32, h = 64, d = 8, h' = 8, a = 14, k = 22, w = 16 -/

/-- Bytes of a number, most significant first. -/
def bigEndian (n x : Nat) : List Byte := (toBytes n x).reverse
def ofBig (bs : List Byte) : Nat := ofBytes bs.reverse

/-- An ADRS: layer, tree, type, and its last three words. -/
structure Adrs where
  layer : Nat
  tree  : Nat
  kind  : Nat
  w1    : Nat
  w2    : Nat
  w3    : Nat

def Adrs.bytes (x : Adrs) : List Byte :=
  bigEndian 4 x.layer ++ bigEndian 12 x.tree ++ bigEndian 4 x.kind ++ bigEndian 4 x.w1 ++ bigEndian 4 x.w2 ++ bigEndian 4 x.w3

/-- F, H and T_l of the SHAKE parameter sets. -/
def slhHash (seed : List Byte) (x : Adrs) (m : List Byte) : List Byte := shake256 (seed ++ x.bytes ++ m) 32

/-- Digits of `bits` bits, most significant first. -/
def digits (bs : List Byte) (bits n : Nat) : List Nat :=
  let x := ofBig bs
  let total := 8 * bs.length
  tab n (fun i => x / 2 ^ (total - bits * (i + 1)) % 2 ^ bits)

/-- Element i of 32 bytes. -/
def elem32 (bs : List Byte) (i : Nat) : List Byte := (bs.drop (32 * i)).take 32

/-- A WOTS+ chain from step `i` over `s` steps. -/
def slhChain (seed : List Byte) (x : Adrs) : Nat → Nat → List Byte → List Byte
  | 0, _, v => v
  | s + 1, i, v => slhChain seed x s (i + 1) (slhHash seed { x with w3 := i } v)

/-- The digits of m that a WOTS+ key signs, and those of their checksum. -/
def slhDigits (m : List Byte) : List Nat :=
  let msg := digits m 4 64
  msg ++ digits (bigEndian 2 ((msg.map (fun v => 15 - v)).sum * 16)) 4 3

/-- The WOTS+ public key whose chains end so. -/
def slhEnds (seed : List Byte) (x : Adrs) (ends : List (List Byte)) : List Byte :=
  slhHash seed { x with kind := 1, w2 := 0, w3 := 0 } ends.flatten

/-- The WOTS+ public key that a signature of m gives. -/
def slhWots (seed : List Byte) (x : Adrs) (sig m : List Byte) : List Byte :=
  slhEnds seed x ((slhDigits m).mapIdx (fun i v => slhChain seed { x with w2 := i } (15 - v) v (elem32 sig i)))

/-- The root that a leaf's authentication path gives; `first` is the number of the tree's leaf 0 at height 0. -/
def slhRoot (seed : List Byte) (x : Adrs) (idx first : Nat) (auth : List Byte) (n : Nat) (leaf : List Byte) : List Byte :=
  (List.range n).foldl (fun v j =>
    let at_ := { x with w2 := j + 1, w3 := (first + idx) / 2 ^ (j + 1) }
    if idx / 2 ^ j % 2 = 0 then slhHash seed at_ (v ++ elem32 auth j) else slhHash seed at_ (elem32 auth j ++ v)) leaf

/-- The root of an XMSS tree that a signature gives. -/
def slhXmss (seed : List Byte) (layer tree idx : Nat) (sig m : List Byte) : List Byte :=
  let leaf := slhWots seed ⟨layer, tree, 0, idx, 0, 0⟩ sig m
  slhRoot seed ⟨layer, tree, 2, 0, 0, 0⟩ idx 0 (sig.drop 2144) 8 leaf

/-- The FORS public key that a signature gives. -/
def slhFors (seed : List Byte) (tree leaf : Nat) (sig md : List Byte) : List Byte :=
  let roots := (digits md 14 22).mapIdx (fun i v =>
    let part := sig.drop (480 * i)
    let x : Adrs := ⟨0, tree, 3, leaf, 0, 0⟩
    slhRoot seed x v (2 ^ 14 * i) (part.drop 32) 14 (slhHash seed { x with w3 := 2 ^ 14 * i + v } (part.take 32)))
  slhHash seed ⟨0, tree, 4, leaf, 0, 0⟩ roots.flatten

/-- What a signature of a message with an empty context signs: the FORS digest, and the tree and leaf of the lowest layer. -/
def slhDigest (key rand msg : List Byte) : List Byte × Nat × Nat :=
  let d := shake256 (rand ++ key ++ [0, 0] ++ msg) 47
  (d.take 39, ofBig ((d.drop 39).take 7), ofBig ((d.drop 46).take 1))

/-- The tree of layer j above a tree and leaf of the lowest layer, and the leaf of it. -/
def slhAbove (tree leaf j : Nat) : Nat × Nat := (tree / 2 ^ (8 * j), if j = 0 then leaf else tree / 2 ^ (8 * (j - 1)) % 256)

/-- Whether 29,792 bytes are the signature of a message, with an empty context, under a 64-byte public key. -/
def slhValid (key msg sig : List Byte) : Bool :=
  let seed := key.take 32
  let (md, tree, leaf) := slhDigest key (sig.take 32) msg
  let top := (List.range 8).foldl (fun v j =>
    slhXmss seed j (slhAbove tree leaf j).1 (slhAbove tree leaf j).2 (sig.drop (10592 + 2400 * j)) v)
    (slhFors seed tree leaf ((sig.drop 32).take 10560) md)
  sig.length == 29792 && key.length == 64 && top == key.drop 32

/-! Keys and signing -/

/-- A private key: the seed of its secrets, the key of its message hash, and the seed of its public key. -/
structure SlhKey where
  sk   : List Byte
  prf  : List Byte
  seed : List Byte

/-- The secret at an address. -/
def SlhKey.secret (k : SlhKey) (x : Adrs) : List Byte := shake256 (k.seed ++ x.bytes ++ k.sk) 32

/-- The node at a height of the tree over `leaf`. -/
def slhNode (seed : List Byte) (x : Adrs) (leaf : Nat → List Byte) : Nat → Nat → List Byte
  | 0, i => leaf i
  | h + 1, i => slhHash seed { x with w2 := h + 1, w3 := i } (slhNode seed x leaf h (2 * i) ++ slhNode seed x leaf h (2 * i + 1))

/-- The authentication path of leaf i in a tree of height n. -/
def slhAuth (seed : List Byte) (x : Adrs) (leaf : Nat → List Byte) (i n : Nat) : List Byte :=
  (tab n (fun j => slhNode seed x leaf j ((i / 2 ^ j) ^^^ 1))).flatten

/-- Chain i of the WOTS+ key at an address, v steps from its secret. -/
def SlhKey.chain (k : SlhKey) (x : Adrs) (i v : Nat) : List Byte :=
  slhChain k.seed { x with w2 := i } v 0 (k.secret { x with kind := 5, w2 := i, w3 := 0 })

/-- Leaf i of an XMSS tree: a WOTS+ public key. -/
def SlhKey.leaf (k : SlhKey) (layer tree i : Nat) : List Byte :=
  slhEnds k.seed ⟨layer, tree, 0, i, 0, 0⟩ (tab 67 (fun c => k.chain ⟨layer, tree, 0, i, 0, 0⟩ c 15))

/-- The signature of m by leaf i of an XMSS tree. -/
def SlhKey.xmss (k : SlhKey) (layer tree i : Nat) (m : List Byte) : List Byte :=
  ((slhDigits m).mapIdx (fun c v => k.chain ⟨layer, tree, 0, i, 0, 0⟩ c v)).flatten
    ++ slhAuth k.seed ⟨layer, tree, 2, 0, 0, 0⟩ (k.leaf layer tree) i 8

/-- The FORS signature of a digest. -/
def SlhKey.fors (k : SlhKey) (tree leaf : Nat) (md : List Byte) : List Byte :=
  let x : Adrs := ⟨0, tree, 3, leaf, 0, 0⟩
  let secret := fun i => k.secret { x with kind := 6, w3 := i }
  ((digits md 14 22).mapIdx (fun t v =>
    secret (2 ^ 14 * t + v) ++ slhAuth k.seed x (fun i => slhHash k.seed { x with w3 := i } (secret i)) (2 ^ 14 * t + v) 14)).flatten

/-- The public key: its seed, and the root of the top tree. -/
def SlhKey.public (k : SlhKey) : List Byte := k.seed ++ slhNode k.seed ⟨7, 0, 2, 0, 0, 0⟩ (k.leaf 7 0) 8 0

/-- The signature of a message with an empty context, with 32 bytes of randomness. -/
def SlhKey.sign (k : SlhKey) (rand msg : List Byte) : List Byte :=
  let r := shake256 (k.prf ++ rand ++ [0, 0] ++ msg) 32
  let (md, tree, leaf) := slhDigest k.public r msg
  let fors := k.fors tree leaf md
  let trees := (List.range 8).foldl (fun (out : List Byte × List Byte) j =>
    let sig := k.xmss j (slhAbove tree leaf j).1 (slhAbove tree leaf j).2 out.2
    (out.1 ++ sig, slhXmss k.seed j (slhAbove tree leaf j).1 (slhAbove tree leaf j).2 sig out.2))
    ([], slhFors k.seed tree leaf fors md)
  r ++ fors ++ trees.1

/-- The key made at manufacture, with which the module signs its reports (R361). -/
def attestation : SlhKey := ⟨tab 32 Config.attestSecret, tab 32 (fun i => Config.attestSecret (32 + i)), tab 32 (fun i => Config.attestSecret (64 + i))⟩

end Sys2Proof.Machine
end

