-- ==== Sys2Proof/Machine/HostOps.lean ====
section
/-! DEFINITION. The host (R208, R325 to R327, R349 to R362): its accesses through BAR2, ownership and scrubbing, format windows
(R72, R73), firmware, attestation, collective sets, and the registers of BAR0 (R351 to R353). -/

namespace Sys2Proof.Machine

/-! BAR2 (R208, R350) -/

/-- Every home that a host access reaches answers (R385). -/
def State.hostReach (s : State) (pa n : Nat) : Bool := (List.range n).all (fun i => s.answers ⟨.glob, pa + i⟩)

/-- HOST_R: bytes at home, zero at unpopulated addresses. The host reaches no byte of a lane slice (R208): what a read returns there is
free (DESIGN CHOICE, assumption 55). -/
def State.doHostR (s : State) (pa n : Nat) : Option State :=
  if !s.hostReach pa n then none
  else some { s with fresh := s.fresh + 1, hostLog := s.hostLog ++ [tab n (fun i =>
    if s.inSlice (pa + i) then Config.sliceByte s.fresh i else s.hostByte (pa + i))] }

/-- HOST_W: bytes at unpopulated addresses and of enabled aliases are discarded, which is recorded (R75, R350), and so are bytes of a lane
slice, which the host does not reach (R208). Of a write that is only partly of these, the rest is written: the spec speaks of whole
writes (DESIGN CHOICE, assumption 55). -/
def State.doHostW (s : State) (pa : Nat) (bytes : List Byte) : Option State :=
  let bs := bytesFrom pa bytes
  let ok := fun (b : Nat × Byte) => s.populated b.1 1 && (s.aliasOf b.1).isNone && !s.inSlice b.1
  if !s.hostReach pa bytes.length then none
  else
    let s' := s.store ioDie (bs.filter ok)
    some (if bs.all ok then s' else s'.raiseErr 5 ioDie pa)

/-! Ownership (R325 to R327) -/

/-- OWN_ENROL (R353). -/
def State.doEnrol (s : State) : State :=
  if s.regs.own = .unowned then s.setRegs (fun r => { r with ownerKey := some r.keys, own := .owned, enrolStat := 2 })
  else s.setRegs (fun r => { r with enrolStat := 3 })

/-- OWN_REL: SCRUBBING, with every context to be disabled first (R325, R327). -/
def State.doRel (s : State) : State :=
  if s.regs.own ≠ .owned then s
  else
    let s := s.setRegs (fun r => { r with own := .scrubbing })
    (s.ctxs.filter (fun p => p.2.en)).foldl (fun s p => s.killCtx p.1) s

/-- SCRUB_DONE (R326): every byte and register at its reset value, but for what records the device; the module is UNOWNED. -/
def State.doScrubDone (s : State) : Option State :=
  if s.regs.own ≠ .scrubbing ∨ s.ctxs.any (fun p => p.2.en) then none
  else
    let rails := (s.regs.rails.zip Regs.reset.rails).map (fun p => ({ p.1 with ilim := p.2.ilim } : Rail))
    let old := s.regs
    some { State.reset with
      agenda := s.agenda, cur := s.cur, fresh := s.fresh, clk := s.clk, seq := s.seq, nextId := s.nextId, poison := s.poison
      cores := s.cores.map (fun p => (p.1, { p.2 with deque := [], used := [] }))
      tiles := s.tiles.map (fun p => (p.1, { Tile.reset with st := p.2.st }))
      columns := s.columns, links := s.links, hostLog := s.hostLog, msix := s.msix
      regs := { Regs.reset with own := .unowned, rails := rails, mhz := old.mhz, sageHalted := old.sageHalted,
                                sageRecent := old.sageRecent, shut := old.shut } }

/-- COLD_RESET (R325): the work in progress is gone, every register is at its reset value, and a scrub starts. What memory holds stays
until the scrub completes (DESIGN CHOICE, assumption 3). -/
def State.doColdReset (s : State) : State :=
  let rails := (s.regs.rails.zip Regs.reset.rails).map (fun p => ({ p.1 with ilim := p.2.ilim } : Rail))
  { State.reset with
    agenda := s.agenda, fresh := s.fresh, seq := s.seq, nextId := s.nextId, mem := s.mem, spad := s.spad, tspad := s.tspad
    poison := s.poison, columns := s.columns, hostLog := s.hostLog, msix := s.msix
    regs := { Regs.reset with rails := rails } }

/-! Format windows (R73) -/

/-- Whether a write of EN = 1 to window n is refused (R73, R354). -/
def State.windowBad (s : State) (n : Nat) (w : Window) (fmt : Nat) : Bool :=
  let others := (s.regs.windows.mapIdx (fun i x => (i, x))).filter (fun p => p.1 != n && p.2.en)
  !s.feat 6 || fmt != 1 || w.sbcnt == 0 || !s.populated w.abase w.alen || !s.populated w.cbase w.clen
    || overlap w.abase w.alen w.cbase w.clen || overlap w.abase w.alen w.obase (2 * w.olen)
    || overlap w.abase w.alen w.sobase (4 * w.sbcnt)
    || others.any (fun p => [(p.2.abase, p.2.alen), (p.2.cbase, p.2.clen)].any (fun r =>
      overlap w.abase w.alen r.1 r.2 || overlap w.cbase w.clen r.1 r.2))

def State.window (s : State) (n : Nat) : Window := s.regs.windows.getD n Window.reset
def State.setWindow (s : State) (n : Nat) (w : Window) : State := s.setRegs (fun r => { r with windows := r.windows.set n w })

/-- FW_ENABLE (R73): no copy of the memory under the alias stays. A refused write on a window that is enabled leaves EN = 0, and drops no
copy, since no copy of an alias line is ever held (DESIGN CHOICE, assumption 56). -/
def State.doFwEnable (s : State) (n : Nat) (fmt : BitVec 4) : State :=
  let w := s.window n
  if s.windowBad n w fmt.toNat then s.setWindow n { w with fmt := fmt.toNat, en := false, err := true }
  else (s.dropRange w.abase w.alen).setWindow n { w with fmt := fmt.toNat, en := true, err := false }

/-- FW_DISABLE (R73): every copy of the alias is dropped. -/
def State.doFwDisable (s : State) (n : Nat) : State :=
  let w := s.window n
  (s.dropRange w.abase w.alen).setWindow n { w with en := false }

/-! Firmware and attestation (R360, R361) -/

/-- The bytes of the image that is being loaded: its source, length and kind are those of the write that began the load. -/
def State.bootImage (s : State) : List Byte := tab s.regs.bootRun.2.1 (fun i => s.ownerByte (s.regs.bootRun.1 + i))

/-- A key register's bytes, the least significant first (DESIGN CHOICE, assumption 52). -/
def keyBytes (ks : List DWord) : List Byte := ks.flatMap (fun x => toBytes 8 x.toNat)

/-- The ROM verifies the signature under the owner key or the vendor key (R360). -/
def State.signed (s : State) (img : List Byte) : Bool :=
  let n := img.length - 29792
  let good := fun (key : List Byte) => slhValid key (img.take n) (img.drop n)
  (match s.regs.ownerKey with
    | some ks => good (keyBytes ks)
    | none => false) || good (tab 64 Config.vendorKey)

/-- BOOT_LOAD (R360): refused, or running until the signature has been verified. -/
def State.doBoot (s : State) (kind : Nat) : State :=
  let len := 64 + s.ownerNum (s.regs.bootSrc + 8) 4 + 29792
  let bad := s.regs.own != .owned || s.ctxs.any (fun p => p.2.en) || decide (2 < kind) || s.regs.bootLen.toNat != len
  s.setRegs (fun r => if bad then { r with bootKind := kind, bootStat := 3 }
    else { r with bootKind := kind, bootStat := 1, bootRun := (r.bootSrc, r.bootLen.toNat, kind) })

/-- The kind of a controller's image (R353): the sage pair, a worker core or a tile controller (R15, assumption 45). -/
def ctrlKind (n : Nat) : Nat := if n = 0 then 0 else if n < 9 then 1 else 2

/-- BOOT_LOAD_DONE (R360): every controller of the kind restarts from the new image. -/
def State.doBootDone (s : State) : Option State :=
  if s.regs.bootStat ≠ 1 then none
  else
    let img := s.bootImage
    let kind := s.regs.bootRun.2.2
    some (if s.signed img then { s with
        regs := { s.regs with bootStat := 2, firmware := s.regs.firmware.set kind (some img) }
        ctrls := s.ctrls.filter (fun p => ctrlKind p.1 != kind) }
      else s.setRegs (fun r => { r with bootStat := 4 }))

/-- OWN.STAT.STATE (R327). -/
def OwnState.code : OwnState → Nat
  | .unowned => 0
  | .owned => 1
  | .scrubbing => 2

/-- The digest of the image that runs on the controllers of a kind (R361): an owner image's, or the vendor's. -/
def State.digest (s : State) (kind : Nat) : List Byte :=
  match s.regs.firmware.getD kind none with
  | some img => shake256 img 32
  | none => tab 32 (Config.vendorDigest kind)

/-- ATT_REPORT (R361). The attestation key and its signatures' randomness are free (assumption 5). -/
def State.doAttest (s : State) : State :=
  let r := s.regs
  let key := match r.ownerKey with
    | some ks => shake256 (keyBytes ks) 32
    | none => List.replicate 32 0
  let report := keyBytes r.nonce ++ s.digest 0 ++ s.digest 1 ++ s.digest 2 ++ key ++ toBytes 8 r.accept.toNat ++ toBytes 4 0x00010768
    ++ toBytes 4 r.own.code ++ attestation.public ++ List.replicate 16 0
  let signed := report ++ attestation.sign (tab 32 (Config.attestRandom s.fresh)) report
  ({ s with fresh := s.fresh + 1 }.store ioDie (bytesFrom r.attDst signed)).setRegs (fun r => { r with attStat := 2 })

/-! Collective sets (R362) -/

/-- A COLR of a set is in flight. -/
def State.collBusy (s : State) (set : Nat) : Bool :=
  s.engines.any (fun p => match p.2.kind with
    | .coll k => k.set == set
    | _ => false)

/-- COLL_LOAD (R362, R354). -/
def State.doCollLoad (s : State) (set : Nat) : State :=
  let x := s.ownerNum (s.regs.collBase + 16 * set) 16
  let n := fld x 63 48 + 1
  let rank := fld x 47 32
  let members := tab n (fun i => BitVec.ofNat 32 (s.ownerNum (fld x 127 64 + 4 * i) 4))
  let bad := !s.feat 0 || !x.testBit 0 || decide (n ≤ rank) || members.getD rank 0 != s.regs.linkId || fld x 15 1 != 0 || s.collBusy set
  let s := s.setRegs (fun r => { r with collSet := set, collStat := if bad then 3 else 2 })
  if bad then s
  else { s with collSets := Map.put s.collSets set ⟨members, rank, if fld x 31 16 = 0 then 1000 else fld x 31 16, 0⟩ }

/-! Work queues (R353, R355) -/

/-- WQ_DOORBELL (R355). -/
def State.doDoorbell (s : State) (q : Nat) (tail : Word) : State :=
  let x := s.queue q
  if !x.en then s.queueErr q 2
  else if !s.accepts x.ctx then s.queueErr q 1
  else if 2 ^ x.log2 < (tail - x.head).toNat then s.queueErr q 2
  else s.setQueue q { x with tail := tail }

/-- EV_HEAD_WRITE (R359): room for the records that waited. -/
def State.doEvHead (s : State) (head : Word) : State :=
  ringFlush (s.setRegs (fun r => { r with evHead := head })) s.regs.evWait

/-- A write of WQ.CTL (R353). -/
def Queue.control (x : Queue) (v : Nat) : Queue :=
  let log2 := fld v 4 0
  if log2 < 4 ∨ 20 < log2 then x
  else if x.en then { x with en := v.testBit 31 }
  else { x with en := v.testBit 31, drv := v.testBit 30, prio := fld v 29 28, ctx := fld v 27 16, vec := fld v 15 5, log2 := log2 }

/-! The register map (R351 to R353) -/

def clamp (lo hi x : Nat) : Nat := max lo (min hi x)

/-- Bits hi .. lo of a value, in their places. -/
def keepBits (hi lo x : Nat) : Nat := fld x hi lo * 2 ^ lo

/-- A register whose whole is 64 bits wide (R351). -/
def isWide (off : Nat) : Bool :=
  [0x08, 0x10, 0x208, 0x300, 0x310, 0x2000, 0x2010, 0x2020, 0x2028, 0x4000].contains off || (0x140 ≤ off && off < 0x180)
    || (0x318 ≤ off && off < 0x338) || (0x2040 ≤ off && off < 0x20E0) || (0x3000 ≤ off && off < 0x3400 && off % 64 < 0x30)
    || (0x100000 ≤ off && off < 0x500000 && off % 32 == 0)

/-- The window register at + 8k (R72). -/
def Window.get (w : Window) (k : Nat) : Nat :=
  match k with
  | 0 => w.cbase
  | 1 => w.sbcnt
  | 2 => w.abase
  | 3 => w.obase
  | 4 => w.olen
  | _ => w.sobase
def Window.put (w : Window) (k v : Nat) : Window :=
  if w.en then w
  else match k with
    | 0 => { w with cbase := keepBits 51 7 v }
    | 1 => { w with sbcnt := fld v 31 0 }
    | 2 => { w with abase := keepBits 51 13 v }
    | 3 => { w with obase := keepBits 51 1 v }
    | 4 => { w with olen := fld v 31 0 }
    | _ => { w with sobase := keepBits 51 2 v }

/-- What a read of a 64-bit register returns. -/
def State.readWide (s : State) (off : Nat) : Nat :=
  let r := s.regs
  if off = 0x08 then 0x7F
  else if off = 0x10 then r.accept.toNat
  else if 0x140 ≤ off ∧ off < 0x180 then (r.keys.getD ((off - 0x140) / 8) 0).toNat
  else if off = 0x208 then r.evBase
  else if off = 0x300 then r.bootSrc
  else if off = 0x310 then r.attDst
  else if 0x318 ≤ off ∧ off < 0x338 then (r.nonce.getD ((off - 0x318) / 8) 0).toNat
  else if off = 0x2000 then r.ctxBase
  else if off = 0x2010 then r.invVa
  else if off = 0x2020 then r.decVa
  else if off = 0x2028 then r.decDst
  else if 0x2040 ≤ off ∧ off < 0x20E0 then (if off % 16 = 0 then r.resBase else r.resLim).getD ((off - 0x2040) / 16) 0
  else if 0x3000 ≤ off ∧ off < 0x3400 then (s.window ((off - 0x3000) / 64)).get (off % 64 / 8)
  else if off = 0x4000 then r.collBase
  else if 0x100000 ≤ off ∧ off < 0x500000 then (s.queue ((off - 0x100000) / 32)).base
  else 0

/-- A 64-bit register takes a value: its writable fields change. -/
def State.writeWide (s : State) (off v : Nat) : State :=
  if off = 0x10 then (if s.regs.own = .unowned then s.setRegs (fun r => { r with accept := BitVec.ofNat 7 v }) else s)
  else if 0x140 ≤ off ∧ off < 0x180 then
    s.setRegs (fun r => { r with keys := r.keys.set ((off - 0x140) / 8) (BitVec.ofNat 64 v) })
  else if off = 0x208 then s.setRegs (fun r => { r with evBase := keepBits 51 6 v })
  else if off = 0x300 then s.setRegs (fun r => { r with bootSrc := keepBits 51 6 v })
  else if off = 0x310 then s.setRegs (fun r => { r with attDst := keepBits 51 6 v })
  else if 0x318 ≤ off ∧ off < 0x338 then
    s.setRegs (fun r => { r with nonce := r.nonce.set ((off - 0x318) / 8) (BitVec.ofNat 64 v) })
  else if off = 0x2000 then
    (if s.ctxs.any (fun p => p.2.en) then s else s.setRegs (fun r => { r with ctxBase := keepBits 51 17 v }))
  else if off = 0x2010 then s.setRegs (fun r => { r with invVa := keepBits 56 12 v })
  else if off = 0x2020 then s.setRegs (fun r => { r with decVa := keepBits 56 12 v })
  else if off = 0x2028 then s.setRegs (fun r => { r with decDst := keepBits 51 12 v })
  else if 0x2040 ≤ off ∧ off < 0x20E0 then
    let n := (off - 0x2040) / 16
    s.setRegs (fun r => if off % 16 = 0 then { r with resBase := r.resBase.set n (keepBits 51 12 v) }
      else { r with resLim := r.resLim.set n (keepBits 51 12 v) })
  else if 0x3000 ≤ off ∧ off < 0x3400 then
    let n := (off - 0x3000) / 64
    s.setWindow n ((s.window n).put (off % 64 / 8) v)
  else if off = 0x4000 then s.setRegs (fun r => { r with collBase := keepBits 51 6 v })
  else if 0x100000 ≤ off ∧ off < 0x500000 then
    let q := (off - 0x100000) / 32
    if (s.queue q).en then s else s.setQueue q { s.queue q with base := keepBits 51 6 v }
  else s

/-- A write of a register with STAT, CTX and OP: its CTX field, then its operation (R333). -/
def State.writeOp (s : State) (off v : Nat) : State :=
  let n := fld v 27 16
  match off, v % 4 with
  | 0x2008, 0 => s.setRegs (fun r => { r with ctxCtx := n })
  | 0x2008, 1 => s.doEnable n
  | 0x2008, 2 => s.doDisable n
  | 0x2008, _ => s.doReload n
  | 0x200C, 0 => s.setRegs (fun r => { r with invCtx := n })
  | 0x200C, 1 => s.doInv n
  | 0x200C, _ => s.setRegs (fun r => { r with invCtx := n, invStat := 3 })
  | 0x201C, 0 => s.setRegs (fun r => { r with decCtx := n })
  | 0x201C, 1 => s.doDecant n
  | 0x201C, _ => s.setRegs (fun r => { r with decCtx := n, decStat := 3 })
  | 0x4008, 0 => s.setRegs (fun r => { r with collSet := n })
  | 0x4008, 1 => s.doCollLoad n
  | 0x4008, _ => s.setRegs (fun r => { r with collSet := n, collStat := 3 })
  | 0x30C, 0 => s.setRegs (fun r => { r with bootKind := fld v 5 4 })
  | 0x30C, 1 => s.doBoot (fld v 5 4)
  | 0x30C, _ => s.setRegs (fun r => { r with bootKind := fld v 5 4, bootStat := 3 })
  | 0x338, 1 => s.doAttest
  | 0x338, 0 => s
  | 0x338, _ => s.setRegs (fun r => { r with attStat := 3 })
  | _, _ => s

/-- LAYOUT (R353). -/
def State.writeLayout (s : State) (v : Nat) : State :=
  let ig := fld v 5 0
  let arena := fld v 23 16
  if s.regs.own = .unowned ∧ ig ≤ 31 ∧ arena + 4 * ig ≤ 127 then s.setRegs (fun r => { r with arena := arena, ig4 := ig }) else s

/-- ERR.STAT's bits that a write of 1 clears (R353). Any write to one of them sends vector 0; writes to RING are ignored. -/
def State.clearErr (s : State) (v : Nat) : State :=
  let s' := s.setRegs (fun r => { r with
    hostwErr := r.hostwErr && !v.testBit 5, coreErr := r.coreErr && !v.testBit 4, tileErr := r.tileErr && !v.testBit 3
    derateErr := r.derateErr && !v.testBit 2, sageErr := r.sageErr && !v.testBit 0 })
  if [0, 2, 3, 4, 5].any (fun i => v.testBit i) then s'.sendMsix 0 else s'

/-! Columns (R289, R358) -/

/-- A column moves when its condition holds and no dwell runs; under the thermal duty a release is asked for, and one that has been asked
for waits for its reply. -/
def State.moveColumn (s : State) (col : Nat) : State :=
  let c := s.column col
  if c.dwell then s
  else if !c.throttled then (if 10 * s.regs.tthrot ≤ c.temp10 then s.setColumn col { c with throttled := true, dwell := true } else s)
  else if 10 * (s.regs.tthrot - s.regs.hyst) < c.temp10 || s.asked 5 col then s
  else if s.assisted 5 then s.post 5 0 false 0 0 col col
  else s.setColumn col { c with throttled := false, dwell := true }

/-- A write of THM.TTHROT or THM.HYST moves the columns whose condition it makes true. -/
def State.moveColumns (s : State) : State := (List.range 96).foldl (fun s c => s.moveColumn c) s

/-- A 32-bit register of a work queue takes a value (R353). -/
def State.writeQueue (s : State) (q reg v : Nat) : State :=
  match reg with
  | 0x8 => s.setQueue q ((s.queue q).control v)
  | 0xC => s.doDoorbell q (BitVec.ofNat 32 v)
  | 0x14 => s.setQueue q { s.queue q with errSet := (s.queue q).errSet && !v.testBit 31 }
  | _ => s

/-- A 32-bit register takes a value (R72, R288, R309, R327, R333, R353). A write of TTHROT below TDISP leaves TDISP as it was (DESIGN
CHOICE, assumption 63): R288 clamps what is written. -/
def State.writeNarrow (s : State) (off v : Nat) : State :=
  match off with
  | 0x18 => s.setRegs (fun r => { r with linkId := BitVec.ofNat 32 v })
  | 0x104 => if v.testBit 0 then s.doRel else s
  | 0x108 => if v.testBit 0 then s.doEnrol else s
  | 0x200 => if s.feat 5 then s.setRegs (fun r => { r with fnMode := BitVec.ofNat 7 v }) else s
  | 0x210 =>
    if 4 ≤ fld v 4 0 ∧ fld v 4 0 ≤ 16 then ringFlush (s.setRegs (fun r => { r with evLog2 := fld v 4 0 })) s.regs.evWait else s
  | 0x214 => s.doEvHead (BitVec.ofNat 32 v)
  | 0x308 => s.setRegs (fun r => { r with bootLen := BitVec.ofNat 32 v })
  | 0x1000 => s.writeLayout v
  | 0x1010 => s.setRegs (fun r => { r with tdisp := clamp 60 r.tthrot (fld v 15 0) })
  | 0x1014 => (s.setRegs (fun r => { r with tthrot := clamp 70 105 (fld v 15 0) })).moveColumns
  | 0x1018 => (s.setRegs (fun r => { r with hyst := clamp 2 15 (fld v 15 0) })).moveColumns
  | 0x101C => s.setRegs (fun r => { r with dwell := clamp 250 10000 (fld v 15 0) })
  | 0x1020 => if s.assisted 6 then s.setRegs (fun r => { r with nidle := clamp 100 (min r.sidle 10000000) (fld v 23 0) }) else s
  | 0x1024 => if s.assisted 6 then s.setRegs (fun r => { r with sidle := clamp (max 100 r.nidle) 10000000 (fld v 23 0) }) else s
  | 0x1030 => s.setRegs (fun r => { r with rho := clamp 768 1048575 (fld v 19 0) })
  | 0x1034 => s.setRegs (fun r => { r with starve := clamp 1 255 (fld v 7 0) })
  | 0x1038 => s.setRegs (fun r => { r with period := clamp 1 10000 (fld v 13 0) })
  | 0x2018 => s.setRegs (fun r => { r with invLen := BitVec.ofNat 32 v })
  | 0x5000 => s.clearErr v
  | _ =>
    if 0x3000 ≤ off ∧ off < 0x3400 ∧ off % 64 = 0x30 then
      let n := (off - 0x3000) / 64
      if v.testBit 0 then s.doFwEnable n (BitVec.ofNat 4 (fld v 7 4))
      else (s.doFwDisable n).setWindow n { (s.doFwDisable n).window n with fmt := fld v 7 4 }
    else if 0x100000 ≤ off ∧ off < 0x500000 then s.writeQueue ((off - 0x100000) / 32) (off % 32) v
    else s.writeOp off v

/-- REGISTER_WRITE (R352): an aligned 4-byte or 8-byte write; any other reaches no register. -/
def State.doRegister (s : State) (off bytes : Nat) (value : DWord) : State :=
  let v := value.toNat
  let base := off / 8 * 8
  if isWide base then
    if bytes = 8 ∧ off = base then s.writeWide base v
    else if bytes = 4 ∧ off % 4 = 0 then
      let old := s.readWide base
      s.writeWide base (if off = base then old / 2 ^ 32 * 2 ^ 32 + v % 2 ^ 32 else v % 2 ^ 32 * 2 ^ 32 + old % 2 ^ 32)
    else s
  else if bytes = 4 ∧ off % 4 = 0 then s.writeNarrow off (v % 2 ^ 32)
  else s

/-- R208 -/
def execHostR (pa n : Nat) (s : State) : Out := stepped s (s.doHostR pa n)
/-- R208, R350 -/
def execHostW (pa : Nat) (bytes : List Byte) (s : State) : Out := stepped s (s.doHostW pa bytes)
/-- R355 -/
def execWqDoorbell (q : Nat) (tail : Word) (s : State) : Out := .next (s.doDoorbell q tail)
/-- R326 -/
def execScrubDone (s : State) : Out := stepped s s.doScrubDone
/-- R325 -/
def execColdReset (s : State) : Out := .next s.doColdReset
/-- R325, R327 -/
def execOwnRel (s : State) : Out := .next s.doRel
/-- R353 -/
def execOwnEnrol (s : State) : Out := .next s.doEnrol
/-- R359 -/
def execEvHeadWrite (head : Word) (s : State) : Out := .next (s.doEvHead head)
/-- R73 -/
def execFwEnable (n : Nat) (fmt : BitVec 4) (s : State) : Out := .next (s.doFwEnable n fmt)
/-- R73 -/
def execFwDisable (n : Nat) (s : State) : Out := .next (s.doFwDisable n)
/-- R360 -/
def execBootLoad (kind : Nat) (s : State) : Out := .next (s.doBoot kind)
/-- R360 -/
def execBootLoadDone (s : State) : Out := stepped s s.doBootDone
/-- R361 -/
def execAttReport (s : State) : Out := .next s.doAttest
/-- R362 -/
def execCollLoad (set : Nat) (s : State) : Out := .next (s.doCollLoad set)

end Sys2Proof.Machine
end

