-- ==== Sys2Proof/Machine/Matrix.lean ====
section
/-! DEFINITION. Accumulator tiles, operand descriptors and the matrix instructions (R143 to R158). -/

namespace Sys2Proof.Machine

/-! Tiles -/

/-- Word i of tile n; 0 for a word never written (R143). -/
def Group.tileWord (g : Group) (n i : Nat) : Word := (Map.get [] g.tiles n).getD i 0

/-- Writes the words of a tile that `f` gives. -/
def Group.tilePut (g : Group) (n : Nat) (f : Nat → Option Word) : Group :=
  { g with tiles := Map.put g.tiles n (tab 256 (fun i => (f i).getD (g.tileWord n i))) }

/-- Double i of a tile (R143). -/
def Group.tileDbl (g : Group) (n i : Nat) : DWord := g.tileWord n (2 * i + 1) ++ g.tileWord n (2 * i)

/-- Side of a view: 16 words, or 8 doubles (R143). -/
def side (dbl : Bool) : Nat := if dbl then 8 else 16

/-- Element (i, j) of a view, as bits. -/
def Group.elem (g : Group) (n : Nat) (dbl : Bool) (i j : Nat) : Nat :=
  if dbl then (g.tileDbl n (8 * i + j)).toNat else (g.tileWord n (16 * i + j)).toNat

/-- Writes every element of a view; bytes 512 to 1,023 stay under the FP64 view (R143). -/
def Group.putView (g : Group) (n : Nat) (dbl : Bool) (f : Nat → Nat → Nat) : Group :=
  let rows := tab (side dbl) (fun i => tab (side dbl) (fun j => f i j))
  let at_ := fun (i j : Nat) => (rows.getD i []).getD j 0
  g.tilePut n (fun w =>
    if dbl then
      if w < 128 then some (BitVec.ofNat 32 (at_ (w / 16) (w / 2 % 8) >>> (32 * (w % 2)))) else none
    else some (BitVec.ofNat 32 (at_ (w / 16) (w % 16))))

/-! Descriptors -/

/-- A descriptor pair (R145). -/
structure MDesc where
  layout : Word
  off    : Nat
  deriving DecidableEq, Repr

def Iss.mdesc (c : Iss) (code : Code) : MDesc := ⟨c.s (code.toNat - 0x40), (c.s (code.toNat - 0x40 + 1)).toNat⟩
def MDesc.hnd (d : MDesc) : Nat := (d.layout.extractLsb' 24 8).toNat
def MDesc.str (d : MDesc) : Nat := (d.layout.extractLsb' 12 12).toNat
def MDesc.span (d : MDesc) : Nat := 16 * 2 ^ (d.layout.extractLsb' 9 3).toNat
def MDesc.t (d : MDesc) : Bool := d.layout.getLsbD 8

/-- The shape of an operand or tile in memory: number of lines and bytes per line, with T = 0 and with T = 1 (R146, R149). -/
structure Shape where
  n0  : Nat
  b0  : Nat
  n1  : Nat
  b1  : Nat
  nx4 : Bool
  deriving DecidableEq, Repr

def Shape.lines (s : Shape) (t : Bool) : Nat := if t then s.n1 else s.n0
def Shape.len (s : Shape) (t : Bool) : Nat := if t then s.b1 else s.b0

/-- The type of an MMA or the use code of MDESC: 0 .bf16, 1 .f16, 2 .e4m3, 3 .e5m2, 4 .nx4, 5 .i8, 6 .f64, 7 and 8 the tile views
(R149, R156). -/
def shapeOf (use : Nat) : Shape :=
  match use with
  | 0 | 1 => ⟨16, 64, 32, 32, false⟩
  | 2 | 3 | 5 => ⟨16, 64, 64, 16, false⟩
  | 4 => ⟨16, 72, 128, 0, true⟩
  | 6 => ⟨8, 128, 16, 64, false⟩
  | 7 => ⟨16, 64, 16, 64, false⟩
  | _ => ⟨8, 64, 8, 64, false⟩

/-- The lowest reason of R147, 2 to 5, of a descriptor. -/
def Iss.descReason (c : Iss) (d : MDesc) (sh : Shape) (write : Bool) : Option Nat :=
  let h := c.handle d.hnd
  if !(h.kind == 1 || h.kind == 2) then some 2
  else if !(if write then h.wr else h.rd) then some 3
  else if d.layout.toNat % 256 ≠ 0 ∨ d.str = 0 ∨ 16 * d.str < sh.len d.t ∨ (d.t ∧ sh.nx4) then some 4
  else if d.off % 16 ≠ 0 then some 5
  else none

/-- The offsets of a descriptor's bytes, line after line (R146). -/
def MDesc.offs (d : MDesc) (sh : Shape) : List Nat :=
  (tab (sh.lines d.t) (fun l => tab (sh.len d.t) (fun b => swizzle d.span (d.off + 16 * d.str * l + b)))).flatten

/-- The fragment owns every lane of its group that has not exited (R144). -/
def Iss.whole (c : Iss) : Bool := c.g.alive &&& ~~~c.f.act == 0

/-- The reason of a matrix trap over several descriptors (R147). -/
def Iss.matrixReason (c : Iss) (ds : List (MDesc × Shape × Bool)) : Option Nat :=
  if !c.whole then some 1 else lowestCause (ds.map (fun d => c.descReason d.1 d.2.1 d.2.2))

/-- The cause by which a descriptor's bytes fail (R147, R337). -/
def State.descFailure (s : State) (c : Iss) (d : MDesc) (sh : Shape) (write : Bool) : Option Nat :=
  (s.fault? c (c.handle d.hnd) true (if write then .store else .load) 1
    ((d.offs sh).map (fun (o : Nat) => (⟨none, noLane, (o : Int), 1⟩ : Touch)))).map Prod.fst

/-- The places of a descriptor's bytes. -/
def State.descLocs (s : State) (c : Iss) (d : MDesc) (sh : Shape) (acc : Acc) : List (Loc × PageKind) :=
  (d.offs sh).filterMap (fun o => s.place c (c.handle d.hnd) none o acc)

/-- A matrix instruction: the trap of R147, the faults of its bytes, or its effect, its translations in the TLBs (R338). -/
def State.matrix (s : State) (c : Iss) (ds : List (MDesc × Shape × Bool)) (eff : State → State) : State :=
  match c.matrixReason ds with
  | some r => s.takeTrap c (mkTrap c.f 4 r c.own 0)
  | none =>
    match lowestCause (ds.map (fun d => s.descFailure c d.1 d.2.1 d.2.2)) with
    | some r => s.stopBlock c (r, noLane) c.own
    | none => ds.foldl (fun s d =>
        s.touchAll c (c.handle d.1.hnd) ((d.1.offs d.2.1).map (fun (o : Nat) => (⟨none, noLane, (o : Int), 1⟩ : Touch)))) (eff s)

/-- An event of a matrix instruction's operands. -/
def IqEv.isOperand (e : IqEv) (ent : Nat) : Bool :=
  match e.kind with
  | .load _ bs _ => bs.any (fun p => match p.2 with
    | .buf n _ => n == ent
    | _ => false)
  | _ => false

/-- The issuing fragment with its group as the state holds it now, its operands taken up. -/
def Iss.taken (c : Iss) (s : State) : Iss :=
  { c with g := ((Map.find? s.groups c.cur.gid).getD c.g).modFrag c.cur.ent (fun f => { f with buf := none }) }

/-- The number under which a matrix instruction reads offset and outlier lines (R151), apart from every event's and engine's. -/
def Cursor.reader (c : Cursor) : Nat := 2 ^ 41 + 16 * c.gid + c.ent

/-- Reads the operand bytes of a matrix instruction, at descriptors and shapes, as the group's own reads at its place in program order,
one per line (R148, R196), and acts once they have all arrived. A line has the reuse class of the last operand's handle that reaches
it (R171). -/
def State.operands (s : State) (c : Iss) (ds : List (MDesc × Shape)) (act : State → Iss → List Byte → State) : State :=
  match c.f.buf with
  | none => s.matrix c (ds.map (fun d => (d.1, d.2, false))) (fun s =>
      let ops := ds.map (fun d => (s.descLocs c d.1 d.2 .r, (c.handle d.1.hnd).cls))
      let ls := ops.flatMap Prod.fst
      let cls := fun (sp : Space) (line : Nat) =>
        (((ops.filter (fun o => o.1.any (fun l => l.1.sp == sp && lineOf l.1.addr == line))).getLast?).map Prod.snd).getD (0, 0)
      ((((s.dropParts c.cur.reader).enterReads c none c.own cls (ls.mapIdx (fun i l => (l.1, l.2, Dest.buf c.cur.ent i))))).modFrag c.cur
        (fun f => { f with buf := some (List.replicate ls.length 0) })).waitAt c)
  | some bs =>
    if s.iq.any (fun e => e.gid == c.cur.gid && e.isOperand c.cur.ent) then s.waitAt c
    else act s (c.taken s) bs

/-- Reads global bytes at their homes as the group would (R76, R151): one value per line, none behind what the group has written or
read. A line it has read ahead gives what it held then. -/
def State.readLines (s : State) (c : Iss) (as : List Nat) : Sync :=
  if knownIn s.unjoined c.cur.gid s.nextId .glob as then .wait
  else
    let r := ((as.map lineOf).eraseDups).foldl (fun (acc : Sync × List (Nat × Byte × Nat)) l =>
      match acc.1 with
      | .got s _ =>
        match s.serveHome c.cur.reader (s.seenOf c.cur.gid) (as.filter (fun a => lineOf a == l)) with
        | .wait => (.wait, [])
        | .poison => (.poison, [])
        | .bytes s' got => (.got (s'.see c.cur.gid (got.map (fun p => (p.1, p.2.2)))) [], acc.2 ++ got)
      | _ => acc) (.got s [], [])
    match r.1 with
    | .got s' _ => .got s' (as.map (gotAt r.2))
    | x => x

/-- Acts with the bytes of global addresses, read at their homes. -/
def State.withLines (s : State) (c : Iss) (as : List Nat) (act : State → Iss → (Nat → Byte) → State) : State :=
  match s.readLines c as with
  | .wait => s.waitAt c
  | .poison => s.stopBlock c (causePoison, noLane) c.own
  | .got s' bs => act s' (c.taken s') (fun a => ((as.zip bs).find? (fun p => p.1 == a)).elim 0 Prod.snd)

/-! MMA -/

/-- A list in pieces of n. -/
def chunks {α : Type} (n : Nat) (xs : List α) (k : Nat) : List (List α) := tab k (fun i => (xs.drop (n * i)).take n)

/-- Rows from lines: with T = 1, line l holds element l of every row (R146). -/
def rowsOf {α : Type} (d : α) (ls : List (List α)) (t : Bool) (m : Nat) : List (List α) :=
  if t then tab m (fun i => ls.map (fun l => l.getD i d)) else ls

/-- The bytes of an operand as numbers: rows of A, or columns of B. -/
def operandNums (bs : List Byte) (sh : Shape) (t : Bool) (z m : Nat) : List (List Nat) :=
  let ls := (chunks (sh.len t) bs (sh.lines t)).map (fun l => (chunks z l (l.length / z)).map ofBytes)
  rowsOf 0 ls t m

/-- A block of a NX4 operand (R69, R151): its codes, scale and special byte, and, when an enabled window's compact range holds it, the
window and the block's number there. -/
structure NxBlock where
  codes : Nat
  scale : Nat
  sp    : Nat
  win   : Option (Window × Nat)
  deriving DecidableEq, Repr

/-- The blocks of a NX4 operand (R146, R151): 16 rows of 128 elements in four blocks of 18 bytes. -/
def State.nxBlocks (s : State) (bs : List Byte) (locs : List (Loc × PageKind)) : List (List NxBlock) :=
  tab 16 (fun r => tab 4 (fun b =>
    let o := 72 * r + 18 * b
    let blk := (bs.drop o).take 18
    let win := match (locs[o]?).map Prod.fst with
      | some l =>
        if l.sp ≠ .glob then none
        else (s.regs.windows.find? (fun w => w.en && decide (w.cbase ≤ l.addr) && decide (l.addr < w.cbase + w.clen))).map
          (fun w => (w, (l.addr - w.cbase) / 18))
      | none => none
    ⟨ofBytes (blk.take 16), (blk.getD 16 0).toNat, (blk.getD 17 0).toNat, win⟩))

/-- Positions of a block that name an outlier entry (R70). -/
def NxBlock.escapes (x : NxBlock) : List Nat := if x.sp < 128 then [] else (List.range 32).filter (fun i => nx4Code x.codes i == 8)

/-- The bytes of the superblock's offset that a block's escapes read. -/
def NxBlock.offsetAt (x : NxBlock) : List Nat :=
  match x.win with
  | some (w, b) => if x.escapes.isEmpty then [] else tab 4 (fun i => w.sobase + 4 * (b / 128) + i)
  | none => []

/-- The entry of an escape. -/
def NxBlock.entry (x : NxBlock) (rd : Nat → Byte) (w : Window) (b i : Nat) : Nat :=
  w.offset rd (b / 128) + x.sp % 128 + escapesBefore x.codes i

/-- The bytes of the outlier entries that a block's escapes read. -/
def NxBlock.outliersAt (x : NxBlock) (rd : Nat → Byte) : List Nat :=
  match x.win with
  | some (w, b) => x.escapes.flatMap (fun i =>
      let n := x.entry rd w b i
      if n < w.olen then tab 2 (fun k => w.obase + 2 * n + k) else [])
  | none => []

/-- The values of a block (R70, R151): an escape outside every window, or beyond the list, is NaN. -/
def NxBlock.values (x : NxBlock) (off out : Nat → Byte) : List FV :=
  tab 32 (fun i => nx4Value x.scale x.sp (nx4Code x.codes i) (match x.win with
    | some (w, b) => w.outlier out (x.entry off w b i)
    | none => .nan false))

/-- A matrix instruction whose operands have arrived reads, at its home, one line of an enabled window's offsets or outliers ahead of
acting on it (R76, R151). -/
def State.matrixPart (s : State) (id line : Nat) : Option State :=
  let cur : Cursor := ⟨(id - 2 ^ 41) / 16, (id - 2 ^ 41) % 16⟩
  match s.fragAt cur with
  | some f =>
    let near := s.regs.windows.any (fun w => w.en &&
      ((decide (w.sobase < line + 128) && decide (line < w.sobase + 4 * w.sbcnt)) ||
        (decide (w.obase < line + 128) && decide (line < w.obase + 2 * w.olen))))
    if id < 2 ^ 41 || f.buf.isNone || s.iq.any (fun e => e.gid == cur.gid && e.isOperand cur.ent) || !near || line % 128 ≠ 0 then none
    else s.takePart id line (s.seenOf cur.gid)
  | none => none

/-- Acts with the rows of two NX4 operands, once the offset lines and then the outlier lines their blocks name have been read. -/
def State.withRows (s : State) (c : Iss) (a b : List (List NxBlock)) (act : State → Iss → List (List FV) → List (List FV) → State) :
    State :=
  let all := a.flatten ++ b.flatten
  s.withLines c (all.flatMap NxBlock.offsetAt).eraseDups (fun s c off =>
    s.withLines c (all.flatMap (fun x => x.outliersAt off)).eraseDups (fun s c out =>
      let rows := fun (m : List (List NxBlock)) => m.map (fun r => r.flatMap (fun x => x.values off out))
      act (s.dropParts c.cur.reader) c (rows a) (rows b)))

/-- A run of products, rounded, added to the accumulator and rounded again (R150). -/
def runStep (f : Fmt) (c : Nat) (ps : List (FV × FV)) : Nat :=
  let x := if ps.any (fun p => p.1.isNan || p.2.isNan || (p.1.mul p.2).isNone) then Exact.nan
    else (sumTerms 0 (ps.filterMap (fun p => p.1.mul p.2))).1
  let r := (f.round 0 false 0 x).1
  (f.finish 0 false 0 (opAdd 0 (f.unpack c) (f.unpack r))).1

/-- One element of C + A × B (R150). -/
def mmaElem (f : Fmt) (c : Nat) (row col : List FV) (k r : Nat) : Nat :=
  (chunks r (row.zip col) (k / r)).foldl (fun c ps => runStep f c ps) c

/-- MMA's type by opcode and VAR, as a use code (R149, R156). -/
def mmaUse (e : Enc) (high : Bool) : Nat := if high then 4 + e.var.toNat else e.var.toNat

/-- Element format, accumulator format, K and run length of a type (R149). -/
def mmaParams (use : Nat) : Fmt × Fmt × Nat × Nat :=
  match use with
  | 0 => (fmtB16, fmt32, 32, 8)
  | 1 => (fmt16, fmt32, 32, 8)
  | 2 => (fmtE4, fmt32, 64, 16)
  | 3 => (fmtE5, fmt32, 64, 16)
  | 4 => (fmtE2, fmt32, 128, 32)
  | _ => (fmt64, fmt64, 16, 4)

/-- MMA (R149 to R151). -/
def State.mma (s : State) (c : Iss) (e : Enc) (high : Bool) : State :=
  let use := mmaUse e high
  let sh := shapeOf use
  let a := c.mdesc e.a
  let b := c.mdesc e.b
  s.operands c [(a, sh), (b, sh)]
    (fun s c bs =>
       let ba := bs.take (a.offs sh).length
       let bb := bs.drop (a.offs sh).length
       let p := mmaParams use
       let m := if use = 6 then 8 else 16
       let n := e.dst.toNat
       let dbl := use == 6
       let put := fun (s : State) (c : Iss) (ra rb : List (List FV)) =>
         let g := c.g.putView n dbl (fun i j =>
           mmaElem p.2.1 (c.g.elem n dbl i j) (ra.getD i []) (rb.getD j []) p.2.2.1 p.2.2.2)
         s.finish c e ⟨g, 0⟩ c.own false
       if use = 5 then
         let ra := operandNums ba sh a.t 1 m
         let rb := operandNums bb sh b.t 1 m
         let g := c.g.putView n false (fun i j =>
           let x := (((ra.getD i []).zip (rb.getD j [])).map (fun q => signedOf 8 q.1 * signedOf 8 q.2)).sum
           Ty.wrap .i32 (signedOf 32 (c.g.elem n false i j) + x))
         s.finish c e ⟨g, 0⟩ c.own false
       else if use = 4 then s.withRows c (s.nxBlocks ba (s.descLocs c a sh .r)) (s.nxBlocks bb (s.descLocs c b sh .r)) put
       else
         let vals := fun (bs : List Byte) (t : Bool) => (operandNums bs sh t (p.1.bits / 8) m).map (fun r => r.map p.1.unpack)
         put s c (vals ba a.t) (vals bb b.t))

/-- The view that VAR selects: FP32, or FP64 for 3 (R92). -/
def isDbl (e : Enc) : Bool := e.var == 3
def viewShape (e : Enc) : Shape := shapeOf (if isDbl e then 8 else 7)

/-- MLD (R153). -/
def State.mld (s : State) (c : Iss) (e : Enc) : State :=
  let sh := viewShape e
  let d := c.mdesc e.a
  let dbl := isDbl e
  s.operands c [(d, sh)] (fun s c bs =>
    let rows := operandNums bs sh d.t (if dbl then 8 else 4) (side dbl)
    s.finish c e ⟨c.g.putView e.dst.toNat dbl (fun i j => (rows.getD i []).getD j 0), 0⟩ c.own false)

/-- MST (R153). -/
def State.mst (s : State) (c : Iss) (e : Enc) : State :=
  let sh := viewShape e
  let d := c.mdesc e.dst
  let dbl := isDbl e
  let z := if dbl then 8 else 4
  s.matrix c [(d, sh, true)]
    (fun s => let vals := (tab (side dbl) (fun l => (tab (side dbl) (fun x =>
        toBytes z (if d.t then c.g.elem e.b.toNat dbl x l else c.g.elem e.b.toNat dbl l x))).flatten)).flatten
     let locs := s.descLocs c d sh .w
     let xs := (locs.zip vals).map (fun p => (p.1.1, p.1.2, p.2))
     ((s.enterWrites c s.nextId s.seq none false false (c.handle d.hnd).cls xs).takeIds xs.length).finish c e c.eff c.own false)

/-- The element that lane L of the q-th register holds (R154). -/
def mapElem (dbl : Bool) (q L : Nat) : Option (Nat × Nat) :=
  if dbl then (if L < 64 then some (L / 8, L % 8) else none)
  else if 6 * q + L / 16 < 16 then some (6 * q + L / 16, L % 16) else none

/-- MRD (R154). -/
def State.mrd (s : State) (c : Iss) (e : Enc) : State :=
  let dbl := isDbl e
  let v := e.dst.toNat
  let word := fun (q L : Nat) =>
    if !bitOf c.g.lanes L then none
    else match mapElem dbl (if dbl then 0 else q) L with
      | some (i, j) => some (BitVec.ofNat 32 (c.g.elem e.a.toNat dbl i j >>> (if dbl then 32 * q else 0)))
      | none => some 0
  s.matrix c [] (fun s => s.finish c e
    ⟨(List.range (if dbl then 2 else 3)).foldl (fun g q => g.vPut (v + q) (word q)) c.g, 0⟩ c.own false)

/-- MWR (R154). -/
def State.mwr (s : State) (c : Iss) (e : Enc) : State :=
  let dbl := isDbl e
  let v := e.a.toNat
  let lane := fun (r L : Nat) => if bitOf c.g.lanes L then (c.g.vGet r L).toNat else 0
  let el := fun (i j : Nat) =>
    if dbl then lane v (8 * i + j) + 2 ^ 32 * lane (v + 1) (8 * i + j)
    else lane (v + i / 6) (16 * (i % 6) + j)
  s.matrix c [] (fun s => s.finish c e ⟨c.g.putView e.dst.toNat dbl el, 0⟩ c.own false)

/-- A factor of MSCL (R155). -/
def Iss.factor (c : Iss) (e : Enc) (code : Code) (dbl : Bool) (i : Nat) : Nat :=
  let ty : Ty := if dbl then .f64 else .f32
  let perLane := code.toNat < 0x40 || code == 0x61 || code == 0x62
  if perLane && !bitOf c.g.lanes i then 0 else (c.read e code i (some i) ty).toNat % 2 ^ ty.bits

/-- The exact triple product (R155). -/
def triple (a b d : FV) : Exact :=
  if a.isNan || b.isNan || d.isNan then .nan
  else match a.mul b with
    | none => .nan
    | some p => match p.mul d with
      | none => .nan
      | some q => q.exact

/-- MSCL (R155). -/
def State.mscl (s : State) (c : Iss) (e : Enc) : State :=
  let dbl := isDbl e
  let f := if dbl then fmt64 else fmt32
  let n := e.dst.toNat
  let el := fun (i j : Nat) =>
    (f.round 0 false 0 (triple (f.unpack (c.g.elem n dbl i j)) (f.unpack (c.factor e e.a dbl i)) (f.unpack (c.factor e e.b dbl j)))).1
  s.matrix c [] (fun s => s.finish c e ⟨c.g.putView n dbl el, 0⟩ c.own false)

/-- What MDESC answers (R156). -/
def State.mdescCode (s : State) (c : Iss) (e : Enc) : Nat :=
  let b := (c.sa e e.b .n32).toNat
  let use := b % 16
  let write := b.testBit 4
  let d := c.mdesc e.a
  let sh := shapeOf use
  if 8 < use then 15
  else if (use = 4 ∧ profileW c.tile) ∨ ((use = 6 ∨ use = 8) ∧ !profileW c.tile) then 7
  else match c.descReason d sh write with
    | some r => r
    | none =>
      if (d.offs sh).any (fun o => !s.inBounds c (c.handle d.hnd) none (o : Int) 1) then 6 else 0

/-- MDESC (R156). -/
def State.mdesc (s : State) (c : Iss) (e : Enc) : State :=
  s.matrix c [] (fun s => s.finish c e (c.putSca c.eff e.dst false (BitVec.ofNat 64 (s.mdescCode c e))) c.own false)

/-- R152 -/
def execMzero (e : Enc) (s : State) : Out :=
  issuing (.mzero e) s (fun c => s.matrix c []
    (fun s => s.finish c e ⟨c.g.tilePut e.dst.toNat (fun _ => some 0), 0⟩ c.own false))
/-- R150 -/
def execMma (e : Enc) (s : State) : Out := issuing (.mma e) s (fun c => s.mma c e false)
/-- R150 -/
def execMmaNx4I8F64 (e : Enc) (s : State) : Out := issuing (.mmaNx4I8F64 e) s (fun c => s.mma c e true)
/-- R153 -/
def execMld (e : Enc) (s : State) : Out := issuing (.mld e) s (fun c => s.mld c e)
/-- R153 -/
def execMst (e : Enc) (s : State) : Out := issuing (.mst e) s (fun c => s.mst c e)
/-- R154 -/
def execMrd (e : Enc) (s : State) : Out := issuing (.mrd e) s (fun c => s.mrd c e)
/-- R154 -/
def execMwr (e : Enc) (s : State) : Out := issuing (.mwr e) s (fun c => s.mwr c e)
/-- R155 -/
def execMscl (e : Enc) (s : State) : Out := issuing (.mscl e) s (fun c => s.mscl c e)
/-- R156 -/
def execMdesc (e : Enc) (s : State) : Out := issuing (.mdesc e) s (fun c => s.mdesc c e)

end Sys2Proof.Machine
end

