-- ==== Sys2Proof/Machine/OrderEvents.lean ====
section
/-! DEFINITION. The ordering machine's steps as events of their own (R195, R203, R204): each takes effect when its guard holds. -/

namespace Sys2Proof.Machine

/-- R195, R197 -/
def execRead (id : Nat) (s : State) : Out := stepped s (s.eventRead id)
/-- R195 -/
def execRiseC (id : Nat) (s : State) : Out := stepped s (s.eventRiseC id)
/-- R195 -/
def execRiseT (id : Nat) (s : State) : Out := stepped s (s.eventRiseT id)
/-- R195 -/
def execWriteback (tile line : Nat) (s : State) : Out := stepped s (s.eventWriteback tile line)
/-- R203 -/
def execDrainNt (id : Nat) (s : State) : Out := stepped s (s.eventDrainNt id)
/-- The reuse class of a fill (R171): that of the handle by which a pending load of the place reads the line, else the class the line has
there already, else normal. -/
def State.fillClass (s : State) (here : Nat → Bool) (copies : List Copy) (place line : Nat) : Nat × Nat :=
  let wants := fun (e : IqEv) => here ((Map.find? s.blocks (e.gid / 32)).elim 768 Block.core) && e.sp == .glob && (match e.kind with
    | .load l _ _ => l == line
    | _ => false)
  match s.iq.find? wants with
  | some e => e.cls
  | none => ((copies.find? (fun c => c.place == place && c.line == line)).map Copy.cls).getD (0, 0)

/-- R195: of a populated line. -/
def execFillL1 (core line : Nat) (s : State) : Out :=
  stepped s (if line % 128 = 0 ∧ core < 768 ∧ s.populated line 128 then
    s.doFillL1 core line (s.fillClass (· == core) s.l1 core line) else none)
/-- R195: of a populated line. -/
def execFillG (tile line : Nat) (s : State) : Out :=
  stepped s (if line % 128 = 0 ∧ tile < 8 ∧ s.populated line 128 then s.eventFillG tile line (s.fillClass (fun c => decide (c / 96 = tile)) s.guests tile line) else none)
/-- R195 -/
def execDrop (inL1 : Bool) (place line : Nat) (s : State) : Out := stepped s (s.doDrop inL1 place line)

/-- A read of one line ahead (R76, R151), by a pending read, an engine thread or a matrix instruction. -/
def State.doPart (s : State) (id line : Nat) : Option State :=
  if id < 2 ^ 40 then s.loadPart id line else if id < 2 ^ 41 then s.enginePart id line else s.matrixPart id line

/-- ATOMIC of an event: a read-modify-write (R204), or the insert of a PLINS (R319). -/
def State.performAtomic (s : State) (id : Nat) : Option State :=
  match s.eventAtomic id with
  | some s' => some s'
  | none => s.doInsert id

/-- R204 -/
def execAtomic (id : Nat) (s : State) : Out := stepped s (s.performAtomic id)

end Sys2Proof.Machine
end

