-- ==== Sys2Proof/Machine/RegRead.lean ====
section
/-! DEFINITION. What a host read of a register of BAR0 (R351 to R353) or of the control space (R389) returns. No row of the opcode
table reads a register; these say what the module shows of its state. -/

namespace Sys2Proof.Machine

/-- STAT, CTX and OP as they read (R333). -/
def opWord (stat n : Nat) : Nat := stat * 2 ^ 28 + n * 2 ^ 16

/-- ERR.STAT (R353): RING is 1 while some WQ.ERR.SET is 1. -/
def State.errStat (s : State) : Nat :=
  let b := fun (x : Bool) (n : Nat) => if x then 2 ^ n else 0
  b s.regs.hostwErr 5 + b s.regs.coreErr 4 + b s.regs.tileErr 3 + b s.regs.derateErr 2 + b (s.queues.any (fun p => p.2.errSet)) 1
    + b s.regs.sageErr 0

/-- CORE.STATc (R353). -/
def Core.stat (c : Core) : Nat := if c.ret = 3 then 15 else 2 * c.ret + if c.ret = 0 then 0 else 1

/-- WQ.CTL (R353). -/
def Queue.ctl (x : Queue) : Nat :=
  (if x.en then 2 ^ 31 else 0) + (if x.drv then 2 ^ 30 else 0) + x.prio * 2 ^ 28 + x.ctx * 2 ^ 16 + x.vec * 2 ^ 5 + x.log2

/-- A 32-bit register of BAR0. -/
def State.readNarrow (s : State) (off : Nat) : Nat :=
  let r := s.regs
  match off with
  | 0x0 => 0x00010768
  | 0x18 => r.linkId.toNat
  | 0x100 => r.own.code
  | 0x108 => r.enrolStat * 2 ^ 28
  | 0x200 => if s.feat 5 then r.fnMode.toNat else 0
  | 0x210 => r.evLog2
  | 0x214 => r.evHead.toNat
  | 0x218 => r.evTail.toNat
  | 0x308 => r.bootLen.toNat
  | 0x30C => r.bootStat * 2 ^ 28 + r.bootKind * 2 ^ 4
  | 0x338 => r.attStat * 2 ^ 28
  | 0x1000 => r.arena * 2 ^ 16 + r.ig4
  | 0x1010 => r.tdisp
  | 0x1014 => r.tthrot
  | 0x1018 => r.hyst
  | 0x101C => r.dwell
  | 0x1020 => r.nidle
  | 0x1024 => r.sidle
  | 0x1030 => r.rho
  | 0x1034 => r.starve
  | 0x1038 => r.period
  | 0x2008 => opWord r.ctxStat r.ctxCtx
  | 0x200C => opWord r.invStat r.invCtx
  | 0x2018 => r.invLen.toNat
  | 0x201C => opWord r.decStat r.decCtx
  | 0x4008 => opWord r.collStat r.collSet
  | 0x5000 => s.errStat
  | _ =>
    if 0x3000 ≤ off ∧ off < 0x3400 ∧ off % 64 = 0x30 then
      let w := s.window ((off - 0x3000) / 64)
      (if w.err then 2 ^ 8 else 0) + w.fmt * 2 ^ 4 + if w.en then 1 else 0
    else if 0x6000 ≤ off ∧ off < 0x6C00 then (s.core ((off - 0x6000) / 4)).stat
    else if 0x100000 ≤ off ∧ off < 0x500000 then
      let x := s.queue ((off - 0x100000) / 32)
      match off % 32 with
      | 0x8 => x.ctl
      | 0xC => x.tail.toNat
      | 0x10 => x.head.toNat
      | 0x14 => (if x.errSet then 2 ^ 31 else 0) + x.errCode
      | _ => 0
    else 0

/-- A read of BAR0 (R352): an aligned 4-byte or 8-byte read; reserved offsets read zero. -/
def State.readRegister (s : State) (off bytes : Nat) : Nat :=
  let base := off / 8 * 8
  if isWide base then
    if bytes = 8 ∧ off = base then s.readWide base
    else if bytes = 4 ∧ off % 4 = 0 then (if off = base then s.readWide base % 2 ^ 32 else s.readWide base / 2 ^ 32)
    else 0
  else if bytes = 4 ∧ off % 4 = 0 then s.readNarrow off
  else 0

/-- STATE of CLU.n (R389). -/
def CluState.code : CluState → Nat
  | .on => 0
  | .drain => 1
  | .save => 2
  | .gated => 3
  | .waking => 4

/-- The record of the error log in slot i: the latest written whose number is i mod 256 (R389), zero before the first. -/
def State.logRecord (s : State) (i : Nat) : List Byte :=
  let n := s.regs.elog.length
  let first := s.regs.elogTail + 2 ^ 32 - n
  ((List.range n).find? (fun k => (first + k) % 256 == i)).elim (List.replicate 32 0) (fun k => s.regs.elog.getD k [])

/-- A register of the control space, by its address, or a record of the error log, by its own (R389). -/
def State.readControl (s : State) (a : Nat) : Nat :=
  if 0x20000000 ≤ a ∧ a < 0x20000180 ∧ a % 4 = 0 then (s.cluState ((a - 0x20000000) / 4)).code * 2 ^ 28
  else if 0x20000200 ≤ a ∧ a < 0x20000220 ∧ a % 8 = 0 then
    match s.regs.rails[(a - 0x20000200) / 8]? with
    | some r => r.total * 2 ^ 40 + r.good * 2 ^ 32 + r.ilim % 2 ^ 16
    | none => 0
  else if 0x20000204 ≤ a ∧ a < 0x20000224 ∧ a % 8 = 4 then
    match s.regs.rails[(a - 0x20000204) / 8]? with
    | some r => r.total * 2 ^ 8 + r.good
    | none => 0
  else if a = 0x20000400 then s.regs.elogTail
  else if 0x20010000 ≤ a ∧ a < 0x20012000 then ofBytes ((s.logRecord ((a - 0x20010000) / 32)).drop (a % 32))
  else 0

/-- A read of a register of any function, by the offset REGISTER_WRITE would name (R349, R352, R389): function 0's BAR0, function 1's BAR0,
which aliases the work queues, or the control space (assumption 58). -/
def State.readAny (s : State) (off bytes : Nat) : Nat :=
  if off < 0x4000000 then s.readRegister off bytes
  else if off < 0x4400000 then s.readRegister (off - 0x4000000 + 0x100000) bytes
  else s.readControl off % 2 ^ (8 * bytes)

end Sys2Proof.Machine
end

