-- ==== Sys2Proof/Machine/Recovery.lean ====
section
/-! DEFINITION. Heat and budgets (R289 to R293), links (R294), retired halves and lost cores (R22, R23), warm tile resets (R384 to R386),
poison (R387), the sage pair, the rails and the clusters' power (R388 to R391), and the end of a YIELD period (R302). -/

namespace Sys2Proof.Machine

/-! Heat (R289, R358) -/

/-- COLUMN_TEMP_CHANGE. -/
def State.doTemp (s : State) (col temp10 : Nat) : State :=
  if 96 ≤ col then s else (s.setColumn col { s.column col with temp10 := temp10 }).moveColumn col

/-- THM_DWELL_EXPIRE. -/
def State.doDwell (s : State) (col : Nat) : Option State :=
  if (s.column col).dwell then some ((s.setColumn col { s.column col with dwell := false }).moveColumn col) else none

/-! Links (R294) -/

/-- LINK_NARROW. -/
def State.doNarrow (s : State) (n : Nat) : Option State :=
  if isLink n && s.linkState n == .full then some (s.setLink n .narrow) else none

/-- LINK_SLEEP; under the link power duty the host is asked (R358). -/
def State.doSleep (s : State) (n : Nat) : Option State :=
  if s.linkState n ≠ .narrow then none
  else if s.asked 6 n then none
  else if s.assisted 6 then some (s.post 6 0 false 0 0 n n)
  else some (s.setLink n .sleep)

/-- LINK_FULL. -/
def State.doFull (s : State) (n : Nat) : Option State :=
  if s.linkState n == .widening || s.linkState n == .waking then some (s.setLink n .full) else none

/-! Retired halves and lost cores (R22, R23) -/

/-- A core with both halves retired: its blocks end, and start again or end their launches. -/
def State.loseCore (s : State) (core : Nat) : State :=
  let bs := (s.blocksOn core).filter (fun p => p.2.st != .over && p.2.st != .ending)
  let lids := (bs.map (fun p => p.2.lid)).eraseDups
  let s := bs.foldl (fun s p => s.endBlock p.1 causeCoreLost 0) s
  lids.foldl (fun s k => match Map.find? s.launches k with
    | some l => if l.desc.restart then s else s.endLaunch k 8 causeCoreLost 0
    | none => s) s

/-- SLOT_CRC_MISMATCH: the transfer is repeated; at the second mismatch on end in one half, the half is retired. -/
def State.doCrc (s : State) (core half : Nat) (second : Bool) : Option State :=
  let c := s.core core
  let bit := if half = 0 then 1 else 2
  if 768 ≤ core ∨ 1 < half ∨ c.ret = 3 ∨ c.ret = bit then none
  else if second && c.crc.contains half then
    let s := (s.setCore core { c with ret := c.ret + bit, crc := c.crc.filter (· ≠ half) }).raiseErr 4 core 0
    some (if c.ret + bit = 3 then s.loseCore core else s)
  else some (s.setCore core { c with crc := if c.crc.contains half then c.crc else half :: c.crc })

/-! The sage pair (R388) -/

/-- Every running launch ends with a status. -/
def State.endAllLaunches (s : State) (status cause detail : Nat) : State :=
  s.launches.foldl (fun s p => if p.2.phase = .admitted then s.endLaunch p.1 status cause detail else s) s

/-- SAGE_MISMATCH (R16, R388): a second within 1 s of a restart ends everything. -/
def State.doSageMismatch (s : State) : State :=
  let soon := s.regs.sageRecent && Config.withinSecond s.fresh
  let s := ({ s with fresh := s.fresh + 1 }.setRegs (fun r => { r with sageHalted := true })).raiseErr 0 ioDie 0
  if soon then (s.endAllLaunches 9 causeKilled 0).setRegs (fun r => { r with shut := true }) else s

/-- SAGE_RESTART (R388): the pair starts again; what it keeps in memory stays, but not what lies where its image is loaded. -/
def State.doSageRestart (s : State) : Option State :=
  let len := ((s.regs.firmware.getD 0 none).elim 0 List.length) - 64 - 29792
  if s.regs.sageHalted then
    some { s with
      regs := { s.regs with sageHalted := false, sageRecent := true }
      ctrls := s.ctrls.map (fun p => if p.1 = 0 then (0, { Ctrl.reset with mem := p.2.mem.filter (fun q => decide (len ≤ q.1)) }) else p) }
  else none

/-! Warm tile resets (R384 to R387) -/

/-- The checkpoint area that a tile's partner keeps for it: the last 512 MiB of the partner's homed part (R383). -/
def State.checkpointArea (s : State) (t : Nat) : Nat := s.arenaStart ((t ^^^ 4) + 1) - 2 ^ 29

/-- Bytes of a tile's checkpoint: its dirty guests, the scratchpad lines that have changed, its cores' deques and copy queues and the
commit word (R384); the spec gives no layout (assumption 53). -/
def State.checkpointLen (s : State) (t : Nat) (guests : List Copy) (pad : Mem) (queues : Map Engine) : Nat :=
  let old := (s.tileRec t).pad
  let changed := (((pad.filter (fun p => !old.contains p)) ++ (old.filter (fun p => !pad.contains p))).map (fun p => lineOf p.1)).eraseDups
  let entries := ((s.cores.filter (fun p => p.1 / 96 == t)).map (fun p => p.2.deque.length)).sum
  min (2 ^ 28) (128 * (guests.length + changed.length + queues.length) + 16 * entries + 4)

/-- TILE_CHECKPOINT (R384), which needs the partner: what the checkpoint holds, and its bytes in the partner's area, which the partner
writes, so that they are no message to be logged (DESIGN CHOICE, assumption 53). What waited for room in the log goes on. -/
def State.doCheckpoint (s : State) (t : Nat) : Option State :=
  let r := s.tileRec t
  if r.st ≠ .run ∨ (s.tileRec (t ^^^ 4)).st ≠ .run ∨ 8 ≤ t then none
  else
    let lo := 33554432 * t
    let pad := s.tspad.filter (fun p => lo ≤ p.1 && p.1 < lo + 33554432)
    let guests := s.guests.filter (fun g => g.dirty && g.place == t)
    let deques := (s.cores.filter (fun p => p.1 / 96 == t && !p.2.deque.isEmpty)).map (fun p => (p.1, p.2.deque))
    let queues := s.engines.filter (fun p => p.2.tile == t)
    let bs := bytesFrom (s.checkpointArea t) (tab (s.checkpointLen t guests pad queues) (Config.checkpointByte s.fresh))
    let s := { s with fresh := s.fresh + 1 }.setTile t
      { r with pad := pad, guests := guests, deques := deques, queues := queues, log := [], held := [] }
    some ((s.store (t ^^^ 4) bs).store ioDie r.held)

/-- What a reset takes from a tile (R386): the blocks resident there and the children on its deques. -/
def State.lostBy (s : State) (t : Nat) : List (Nat × Nat × Option Child) :=
  (s.blocks.filter (fun p => p.2.core / 96 == t && p.2.st != .over)).map (fun p => (p.2.lid, p.2.bidx, p.2.child))
    ++ ((s.cores.filter (fun p => p.1 / 96 == t)).map (fun p => p.2.deque.map (fun x => (x.lid, x.parent, some x)))).flatten

/-- A frame has a part homed on a tile. -/
def State.touchesTile (s : State) (pa n t : Nat) : Bool := (List.range (n / 4096)).any (fun i => s.homeTile (pa + 4096 * i) == t)

/-- HALT (R385): the blocks, engine threads, copies and replies of a tile are abandoned. -/
def State.halt (s : State) (t : Nat) : State :=
  let lost := s.lostBy t
  let on := fun (core : Nat) => core / 96 == t
  let mine := fun (gid : Nat) => match Map.find? s.blocks (gid / 32) with
    | some b => on b.core
    | none => false
  let keep := fun (c : Copy) => s.guests.any (fun g => g.dirty && g.place == t && g.line == c.line)
  let dropped := (s.decants.filter (fun p => p.2.tile == t || s.touchesTile p.2.old p.2.size t || s.touchesTile p.2.dst p.2.size t)).map Prod.fst
  let blocks := s.blocks.filter (fun p => on p.2.core)
  let s := { s with
    iq := s.iq.filter (fun e => !mine e.gid), sq := s.sq.filter (fun w => w.tile != t), clv := s.clv.filter (fun w => w.tile != t)
    cbuf := s.cbuf.filter (fun w => w.tile != t), l1 := s.l1.filter (fun c => !on c.place)
    guests := s.guests.filter (fun c => c.place != t), icache := s.icache.filter (fun x => !on x.core)
    tlb1 := s.tlb1.filter (fun e => !on e.place), tlb2 := s.tlb2.filter (fun e => e.place != t)
    engines := s.engines.filter (fun p => p.2.tile != t)
    cores := s.cores.map (fun (p : Nat × Core) => if on p.1 then (p.1, { p.2 with deque := [] }) else p) }
  let s := blocks.foldl (fun s p => s.release p.1 p.2 true) s
  let s := dropped.foldl (fun s i => s.abandon i) s
  let r := s.tileRec t
  s.setTile t { r with st := .halt, lost := r.lost ++ lost, guests := r.guests.filter keep }

/-- TILE_FAULT (R385, R387): HALT; a fault of both partners stops the module. -/
def State.doTileFault (s : State) (t : Nat) : Option State :=
  if 8 ≤ t then none
  else
    let s' := (s.halt t).raiseErr 3 t 0
    if (s.tileRec (t ^^^ 4)).st = .run then some s'
    else some ((s'.endAllLaunches 7 causeTileReset t).setRegs (fun r => { r with shut := true }))

/-- TILE_RESET_DONE: to RESTORE (R385). -/
def State.doTileReset (s : State) (t : Nat) : Option State :=
  let r := s.tileRec t
  if r.st = .halt then some (s.setTile t { r with st := .restore }) else none

/-- TILE_RESTORE_DONE: the checkpoint's tile scratchpad, its deques and those of its dirty guests that home has not passed are
loaded. The threads of its copy queues were abandoned in HALT and do nothing more (R386). -/
def State.doTileRestore (s : State) (t : Nat) : Option State :=
  let r := s.tileRec t
  if r.st ≠ .restore then none
  else
    let lo := 33554432 * t
    let good := fun (c : Copy) => (List.range 128).all (fun i => decide (Map.get 0 s.ver (c.line + i) ≤ c.vers.getD i 0))
      && (s.dirty? c.line).isNone
    let kept := r.guests.filter good
    let s := { s with tspad := (s.tspad.zero lo 33554432).writeAll r.pad, guests := kept ++ s.guests }
    let s := r.deques.foldl (fun s p => s.setCore p.1 { s.core p.1 with deque := p.2 }) s
    some (s.setTile t { r with st := .replay, guests := kept })

/-- A block that a reset took starts again, or ends its launch (R386). -/
def State.settleLost (s : State) (t : Nat) (x : Nat × Nat × Option Child) : State :=
  match Map.find? s.launches x.1 with
  | none => s
  | some l =>
    if l.phase ≠ .admitted then s
    else if l.desc.restart && l.live then s.modLaunch x.1 (fun m => { m with redo := m.redo ++ [(x.2.1, x.2.2, m.passed)] })
    else ((s.childJoin l x.2.2 (failing causeTileReset)).countEnd x.1 x.2.1 causeTileReset t).endLaunch x.1 7 causeTileReset t

/-- A logged message applied again (R385): a write, or a theft from a deque. Takes and pool operations have no effect left to repeat, since
a pool keeps what was acknowledged. -/
def State.replay (s : State) (m : LogMsg) : State :=
  match m with
  | .byte l b => s.putHome l b
  | .steal core x => s.setCore core { s.core core with deque := (s.core core).deque.erase x }
  | .take _ | .pool _ => s

/-- TILE_REPLAY_DONE (R385, R386): the logged messages are applied in order, the tile runs, what was held for it is released, and the
blocks and children it lost are settled, those on its deques among them. -/
def State.doTileReplay (s : State) (t : Nat) : Option State :=
  let r := s.tileRec t
  if r.st ≠ .replay then none
  else
    let s := r.log.foldl (fun s e => s.replay e.msg) s
    let s := { s with cores := s.cores.map (fun (p : Nat × Core) => if p.1 / 96 = t then (p.1, { p.2 with deque := [] }) else p) }
    let s := (s.setTile t { s.tileRec t with st := .run, lost := [], held := [] }).store ioDie r.held
    some (r.lost.foldl (fun s x => s.settleLost t x) s)

/-- MEM_UNCORRECTABLE (R387). -/
def State.doPoison (s : State) (line : Nat) : Option State :=
  if line % 128 ≠ 0 ∨ !s.populated line 128 then none
  else some ((if s.poison.contains line then s else { s with poison := line :: s.poison }).logError (s.homeTile line) 6 line)

/-! Rails and clusters (R390, R391) -/

/-- RAIL_PHASE_FAIL (R390). -/
def State.doRailFail (s : State) (n : Nat) : Option State :=
  match s.regs.rails[n]? with
  | none => none
  | some r =>
    if r.good = 0 then none
    else
      let r' := { r with good := r.good - 1, ilim := r.ilim * (r.good - 1) / r.total }
      some ((s.setRegs (fun g => { g with rails := g.rails.set n r', mhz := Config.lowestMhz })).raiseErr 2 ioDie n)

/-- OPERATING_POINT_SET (R31, R390): boost ends at 1.55 GHz. -/
def State.doPoint (s : State) (mhz : Nat) : Option State :=
  if 1550 < mhz ∨ mhz = 0 then none else some (s.setRegs (fun r => { r with mhz := mhz }))

def State.setClu (s : State) (n : Nat) (x : CluState) : State := { s with clusters := Map.put s.clusters n x }
def inClu (n core : Nat) : Bool := core / 8 == n

/-- CLU_REQ (R391): the cluster's blocks are to be evicted. -/
def State.doCluReq (s : State) (n : Nat) : Option State :=
  if 96 ≤ n ∨ s.cluState n ≠ .on then none
  else some ((s.blocks.filter (fun p => inClu n p.2.core && p.2.st == .running)).foldl (fun s p => s.evict p.1 .preempt) (s.setClu n .drain))

/-- CLU_WAKE (R391). -/
def State.doCluWake (s : State) (n : Nat) : Option State :=
  match s.cluState n with
  | .drain | .save => some (s.setClu n .on)
  | .gated => some (s.setClu n .waking)
  | .on | .waking => none

/-- CLU_DRAIN_DONE (R391). -/
def State.doCluDrained (s : State) (n : Nat) : Option State :=
  if s.cluState n ≠ .drain ∨ s.blocks.any (fun p => inClu n p.2.core) then none else some (s.setClu n .save)

/-- CLU_SAVE_DONE (R391): copies, code and translations are dropped, and the core scratchpads lose power: they read as at a cold start
(assumption 3). -/
def State.doCluSaved (s : State) (n : Nat) : Option State :=
  if s.cluState n ≠ .save ∨ s.engines.any (fun p => inClu n p.2.core) ∨ s.cbuf.any (fun w => inClu n w.core) then none
  else
    let s := { s with
      l1 := s.l1.filter (fun c => !inClu n c.place), icache := s.icache.filter (fun x => !inClu n x.core)
      tlb1 := s.tlb1.filter (fun e => !inClu n e.place), spad := s.spad.zero (524288 * 8 * n) (524288 * 8)
      cores := s.cores.map (fun (p : Nat × Core) => if inClu n p.1 then (p.1, { p.2 with used := [] }) else p) }
    some (s.setClu n .gated)

/-- CLU_WAKE_DONE (R391). -/
def State.doCluWoken (s : State) (n : Nat) : Option State :=
  if s.cluState n = .waking then some (s.setClu n .on) else none

/-! The issue stage's timer (R302) -/

/-- YIELD_PERIOD_END. -/
def State.doYieldEnd (s : State) (gid ent : Nat) : State := s.modFrag ⟨gid, ent⟩ (fun f => { f with yielded := false })

/-- R22, R23 -/
def execSlotCrcMismatch (core half : Nat) (second : Bool) (s : State) : Out := stepped s (s.doCrc core half second)
/-- R388 -/
def execSageMismatch (s : State) : Out := .next s.doSageMismatch
/-- R388 -/
def execSageRestart (s : State) : Out := stepped s s.doSageRestart
/-- R289 -/
def execColumnTempChange (col temp10 : Nat) (s : State) : Out := .next (s.doTemp col temp10)
/-- Whether a rail has so few phases left that the sage pair powers clusters down, and the load does not fit its current limits yet (R390). -/
def State.overloaded (s : State) : Bool :=
  s.regs.rails.any (fun r => decide (2 * r.good < r.total)) &&
    !Config.loadFits ((List.range 96).filter (fun n => s.cluState n == .on)).length (s.regs.rails.map Rail.ilim)

/-- The sage pair powers a cluster down (R390), the lowest-numbered one that is ON (DESIGN CHOICE, assumption 57). -/
def State.shed (s : State) : Option State :=
  if !s.overloaded || s.regs.sageHalted then none
  else ((List.range 96).find? (fun n => s.cluState n == .on)).bind s.doCluReq

/-! Register accesses of every function (R349, R352, R389) -/

/-- A rail's derated limit (R389, R390). -/
def Rail.derated (r : Rail) (n : Nat) : Nat := Config.factoryIlim n * r.good / r.total

/-- A write of the control space (R389): a rail's ILIM, clamped to its derated limit, or a cluster's REQ and WAKE (R391). -/
def State.writeControl (s : State) (a v : Nat) : State :=
  if 0x20000200 ≤ a ∧ a < 0x20000220 ∧ a % 8 = 0 then
    let n := (a - 0x20000200) / 8
    match s.regs.rails[n]? with
    | some r => s.setRegs (fun g => { g with rails := g.rails.set n { r with ilim := min (fld v 15 0) (r.derated n) } })
    | none => s
  else if 0x20000000 ≤ a ∧ a < 0x20000180 ∧ a % 4 = 0 then
    let n := (a - 0x20000000) / 4
    let s := if v.testBit 0 then (s.doCluReq n).getD s else s
    if v.testBit 1 then (s.doCluWake n).getD s else s
  else s

/-- REGISTER_WRITE (R349, R352, R389): an offset below 64 MiB is one of function 0's BAR0, the next 4 MiB are function 1's BAR0, which
aliases the work queues, and from 0x2000_0000 on it is an address of the control space (DESIGN CHOICE, assumption 58). -/
def State.writeAny (s : State) (off bytes : Nat) (value : DWord) : State :=
  if off < 0x4000000 then s.doRegister off bytes value
  else if off < 0x4400000 then s.doRegister (off - 0x4000000 + 0x100000) bytes value
  else if bytes = 4 ∨ bytes = 8 ∧ 0x20000200 ≤ off then s.writeControl off (value.toNat % 2 ^ (8 * bytes))
  else s

/-- R349, R352, R389 -/
def execRegisterWrite (off bytes : Nat) (value : DWord) (s : State) : Out := .next (s.writeAny off bytes value)
/-- R289 -/
def execThmDwellExpire (col : Nat) (s : State) : Out := stepped s (s.doDwell col)
/-- R291 -/
def execBudgetEpoch (s : State) : Out := .next s.doEpoch
/-- R294 -/
def execLinkNarrow (link : Nat) (s : State) : Out := stepped s (s.doNarrow link)
/-- R294 -/
def execLinkSleep (link : Nat) (s : State) : Out := stepped s (s.doSleep link)
/-- R294 -/
def execLinkFull (link : Nat) (s : State) : Out := stepped s (s.doFull link)
/-- R384 -/
def execTileCheckpoint (tile : Nat) (s : State) : Out := stepped s (s.doCheckpoint tile)
/-- R385 -/
def execTileFault (tile : Nat) (s : State) : Out := stepped s (s.doTileFault tile)
/-- R385 -/
def execTileResetDone (tile : Nat) (s : State) : Out := stepped s (s.doTileReset tile)
/-- R385 -/
def execTileRestoreDone (tile : Nat) (s : State) : Out := stepped s (s.doTileRestore tile)
/-- R386 -/
def execTileReplayDone (tile : Nat) (s : State) : Out := stepped s (s.doTileReplay tile)
/-- R387 -/
def execMemUncorrectable (line : Nat) (s : State) : Out := stepped s (s.doPoison line)
/-- R390 -/
def execRailPhaseFail (rail : Nat) (s : State) : Out := stepped s (s.doRailFail rail)
/-- R390 -/
def execOperatingPointSet (mhz : Nat) (s : State) : Out := stepped s (s.doPoint mhz)
/-- R391 -/
def execCluReq (clu : Nat) (s : State) : Out := stepped s (s.doCluReq clu)
/-- R391 -/
def execCluWake (clu : Nat) (s : State) : Out := stepped s (s.doCluWake clu)
/-- R391 -/
def execCluDrainDone (clu : Nat) (s : State) : Out := stepped s (s.doCluDrained clu)
/-- R391 -/
def execCluSaveDone (clu : Nat) (s : State) : Out := stepped s (s.doCluSaved clu)
/-- R391 -/
def execCluWakeDone (clu : Nat) (s : State) : Out := stepped s (s.doCluWoken clu)
/-- R302 -/
def execYieldPeriodEnd (gid ent : Nat) (s : State) : Out := .next (s.doYieldEnd gid ent)

end Sys2Proof.Machine
end

