-- ==== Sys2Proof/Machine/Riscv.lean ====
section
/-! DEFINITION. The controller cores (R15): the sage pair, the worker cores and the tile controllers implement RV64IMAC with Zicsr and
Zifencei. The spec names the instruction set and gives none of its words: encodings and effects are those of the RISC-V standard
(PRESUMED, assumption 45). Controller 0 is the sage pair, 1 to 8 the worker cores, 9 to 16 the tile controllers. -/

namespace Sys2Proof.Machine

/-! What a controller holds -/

/-- The sign extension of the low n bits of a number. -/
def signed64 (n x : Nat) : DWord := BitVec.ofInt 64 (Int.bmod (x % 2 ^ n) (2 ^ n))

/-- A word's sign extension, which the instructions on words deliver. -/
def wordOf (x : DWord) : DWord := signed64 32 x.toNat

def State.ctrl (s : State) (n : Nat) : Ctrl := Map.get Ctrl.reset s.ctrls n
def State.setCtrl (s : State) (n : Nat) (c : Ctrl) : State := { s with ctrls := Map.put s.ctrls n c }

/-- An integer register; x0 is hard-wired to zero. -/
def Ctrl.get (c : Ctrl) (r : Nat) : DWord := if r = 0 then 0 else Map.get 0 c.x r
def Ctrl.set (c : Ctrl) (r : Nat) (v : DWord) : Ctrl := if r = 0 then c else { c with x := Map.put c.x r v }

/-- A byte of a controller's memory: what its code has written there, or its image's code, which is loaded at address 0 (R360), or a
free value (assumption 5). -/
def State.ctrlByte (s : State) (n a : Nat) : Byte :=
  match Map.find? (s.ctrl n).mem a with
  | some b => b
  | none => match s.regs.firmware.getD (ctrlKind n) none with
    | some img => if a < img.length - 64 - 29792 then img.getD (64 + a) 0 else Config.ctrlByte n a
    | none => Config.ctrlByte n a

/-- The sage pair's control space begins at 0x2000_0000 (R388). -/
def inControl (n a : Nat) : Bool := n == 0 && decide (0x20000000 ≤ a) && decide (a < 0x20012000)

/-- A load of `size` bytes; addresses wrap at 2^64. -/
def State.ctrlLoad (s : State) (n a size : Nat) : Nat :=
  if inControl n a then s.readAny a size else ofBytes (tab size (fun i => s.ctrlByte n ((a + i) % 2 ^ 64)))

/-- A store of `size` bytes. -/
def State.ctrlStore (s : State) (n a size v : Nat) : State :=
  if inControl n a then s.writeAny a size (BitVec.ofNat 64 v)
  else
    let c := s.ctrl n
    s.setCtrl n { c with mem := (List.range size).foldl (fun m i =>
      Map.put m ((a + i) % 2 ^ 64) (BitVec.ofNat 8 (v >>> (8 * i)))) c.mem }

/-! Control and status registers (Zicsr) -/

/-- The machine-mode registers that a controller has, by the bits of each that a write changes. -/
def csrMask (a : Nat) : Option Nat :=
  match a with
  | 0x300 => some 0x88
  | 0x304 => some 0x888
  | 0x305 => some (2 ^ 64 - 3)
  | 0x340 | 0x342 | 0x343 => some (2 ^ 64 - 1)
  | 0x341 => some (2 ^ 64 - 2)
  | 0x301 | 0x344 | 0xF11 | 0xF12 | 0xF13 | 0xF14 => some 0
  | _ => none

/-- What reads of these registers add to what was written: machine mode is the only one (mstatus.MPP), I, M, A and C (misa), and the
controller's number (mhartid). -/
def csrFixed (n a : Nat) : Nat :=
  match a with
  | 0x300 => 0x1800
  | 0x301 => 2 ^ 63 + 0x1105
  | 0xF14 => n
  | _ => 0

def Ctrl.csrRead (c : Ctrl) (n a : Nat) : DWord := BitVec.ofNat 64 (csrFixed n a) ||| Map.get 0 c.csr a
def Ctrl.csrWrite (c : Ctrl) (a : Nat) (v : DWord) : Ctrl :=
  { c with csr := Map.put c.csr a (v &&& BitVec.ofNat 64 ((csrMask a).getD 0)) }

/-- An exception: to mtvec, with pc, cause and value saved, and interrupts off. -/
def Ctrl.trap (c : Ctrl) (cause : Nat) (val : DWord) : Ctrl :=
  let st := Map.get 0 c.csr 0x300
  let c := (((c.csrWrite 0x341 c.pc).csrWrite 0x342 (BitVec.ofNat 64 cause)).csrWrite 0x343 val).csrWrite 0x300
    (if st.getLsbD 3 then 0x80 else 0)
  { c with pc := Map.get 0 c.csr 0x305 &&& ~~~3#64 }

/-- MRET. -/
def Ctrl.mret (c : Ctrl) : Ctrl :=
  let st := Map.get 0 c.csr 0x300
  { c.csrWrite 0x300 (if st.getLsbD 7 then 0x88 else 0x80) with pc := Map.get 0 c.csr 0x341 }

/-! Compressed instructions (C) -/

/-- Words of the standard's formats. -/
def rvI (imm rs1 f3 rd op : Nat) : Nat := imm % 2 ^ 12 * 2 ^ 20 + rs1 * 2 ^ 15 + f3 * 2 ^ 12 + rd * 2 ^ 7 + op
def rvR (f7 rs2 rs1 f3 rd op : Nat) : Nat := f7 * 2 ^ 25 + rs2 * 2 ^ 20 + rs1 * 2 ^ 15 + f3 * 2 ^ 12 + rd * 2 ^ 7 + op
def rvS (imm rs2 rs1 f3 : Nat) : Nat :=
  fld imm 11 5 * 2 ^ 25 + rs2 * 2 ^ 20 + rs1 * 2 ^ 15 + f3 * 2 ^ 12 + fld imm 4 0 * 2 ^ 7 + 0x23
def rvB (imm rs1 f3 : Nat) : Nat :=
  fld imm 12 12 * 2 ^ 31 + fld imm 10 5 * 2 ^ 25 + rs1 * 2 ^ 15 + f3 * 2 ^ 12 + fld imm 4 1 * 2 ^ 8 + fld imm 11 11 * 2 ^ 7 + 0x63
def rvJ (imm rd : Nat) : Nat :=
  fld imm 20 20 * 2 ^ 31 + fld imm 10 1 * 2 ^ 21 + fld imm 11 11 * 2 ^ 20 + fld imm 19 12 * 2 ^ 12 + rd * 2 ^ 7 + 0x6F

/-- A number whose bits are those of a half word at the places given, the lowest first, at bit `lo` and up. -/
def gather16 (h lo : Nat) (places : List Nat) : Nat := (places.mapIdx (fun i p => fld h p p * 2 ^ (lo + i))).sum

/-- Quadrant 0. -/
def rvc0 (h : Nat) : Option Nat :=
  let a := 8 + fld h 9 7
  let d := 8 + fld h 4 2
  let w := gather16 h 2 [6, 10, 11, 12, 5]
  let q := gather16 h 3 [10, 11, 12, 5, 6]
  match fld h 15 13 with
  | 0 =>
    let imm := gather16 h 2 [6, 5, 11, 12, 7, 8, 9, 10]
    if imm = 0 then none else some (rvI imm 2 0 d 0x13)
  | 2 => some (rvI w a 2 d 0x03)
  | 3 => some (rvI q a 3 d 0x03)
  | 6 => some (rvS w d a 2)
  | 7 => some (rvS q d a 3)
  | _ => none

/-- The arithmetic of quadrant 1. -/
def rvc1Alu (h : Nat) : Option Nat :=
  let a := 8 + fld h 9 7
  let b := 8 + fld h 4 2
  let imm := gather16 h 0 [2, 3, 4, 5, 6, 12]
  let long := (signed64 6 imm).toNat
  match fld h 11 10 with
  | 0 => some (rvI imm a 5 a 0x13)
  | 1 => some (rvI (imm + 0x400) a 5 a 0x13)
  | 2 => some (rvI long a 7 a 0x13)
  | _ => match 4 * fld h 12 12 + fld h 6 5 with
    | 0 => some (rvR 0x20 b a 0 a 0x33)
    | 1 => some (rvR 0 b a 4 a 0x33)
    | 2 => some (rvR 0 b a 6 a 0x33)
    | 3 => some (rvR 0 b a 7 a 0x33)
    | 4 => some (rvR 0x20 b a 0 a 0x3B)
    | 5 => some (rvR 0 b a 0 a 0x3B)
    | _ => none

/-- Quadrant 1. -/
def rvc1 (h : Nat) : Option Nat :=
  let d := fld h 11 7
  let imm := (signed64 6 (gather16 h 0 [2, 3, 4, 5, 6, 12])).toNat
  match fld h 15 13 with
  | 0 => some (rvI imm d 0 d 0x13)
  | 1 => if d = 0 then none else some (rvI imm d 0 d 0x1B)
  | 2 => some (rvI imm 0 0 d 0x13)
  | 3 =>
    let sp := (signed64 10 (gather16 h 4 [6, 2, 5, 3, 4, 12])).toNat
    if d = 2 then (if sp = 0 then none else some (rvI sp 2 0 2 0x13))
    else if imm = 0 then none else some (imm % 2 ^ 20 * 2 ^ 12 + d * 2 ^ 7 + 0x37)
  | 4 => rvc1Alu h
  | 5 => some (rvJ (signed64 12 (gather16 h 1 [3, 4, 5, 11, 2, 7, 6, 9, 10, 8, 12])).toNat 0)
  | f => some (rvB (signed64 9 (gather16 h 1 [3, 4, 10, 11, 2, 5, 6, 12])).toNat (8 + fld h 9 7) (f - 6))

/-- Quadrant 2. -/
def rvc2 (h : Nat) : Option Nat :=
  let d := fld h 11 7
  let b := fld h 6 2
  match fld h 15 13 with
  | 0 => some (rvI (gather16 h 0 [2, 3, 4, 5, 6, 12]) d 1 d 0x13)
  | 2 => if d = 0 then none else some (rvI (gather16 h 2 [4, 5, 6, 12, 2, 3]) 2 2 d 0x03)
  | 3 => if d = 0 then none else some (rvI (gather16 h 3 [5, 6, 12, 2, 3, 4]) 2 3 d 0x03)
  | 4 =>
    if fld h 12 12 = 0 then
      if b = 0 then (if d = 0 then none else some (rvI 0 d 0 0 0x67)) else some (rvR 0 b 0 0 d 0x33)
    else if b = 0 then some (if d = 0 then 0x00100073 else rvI 0 d 0 1 0x67)
    else some (rvR 0 b d 0 d 0x33)
  | 6 => some (rvS (gather16 h 2 [9, 10, 11, 12, 7, 8]) b 2 2)
  | 7 => some (rvS (gather16 h 3 [10, 11, 12, 7, 8, 9]) b 2 3)
  | _ => none

/-- The instruction word that a compressed instruction stands for; the floating-point ones are illegal here. -/
def rvc (h : Nat) : Option Nat :=
  match fld h 1 0 with
  | 0 => rvc0 h
  | 1 => rvc1 h
  | _ => rvc2 h

/-! Arithmetic (I, M) -/

/-- A shift, sum or bit operation of OP and OP-IMM; `alt` is SUB, or the arithmetic right shift. -/
def rvAlu (f3 : Nat) (alt : Bool) (a b : DWord) : DWord :=
  let n := b.toNat % 64
  match f3 with
  | 0 => if alt then a - b else a + b
  | 1 => a <<< n
  | 2 => if a.slt b then 1 else 0
  | 3 => if a.ult b then 1 else 0
  | 4 => a ^^^ b
  | 5 => if alt then a.sshiftRight n else a >>> n
  | 6 => a ||| b
  | _ => a &&& b

/-- ADDW, SUBW, SLLW, SRLW and SRAW. -/
def rvAluW (f3 : Nat) (alt : Bool) (a b : DWord) : Option DWord :=
  let n := b.toNat % 32
  match f3 with
  | 0 => some (wordOf (if alt then a - b else a + b))
  | 1 => some (wordOf (a <<< n))
  | 5 => some (wordOf (if alt then (wordOf a).sshiftRight n else BitVec.ofNat 64 (a.toNat % 2 ^ 32 >>> n)))
  | _ => none

/-- Division and remainder of the standard: by zero they give all ones and the dividend. -/
def rvDiv (a b : Int) : Int := if b = 0 then -1 else Int.tdiv a b
def rvRem (a b : Int) : Int := if b = 0 then a else Int.tmod a b

/-- The M extension, on 64 bits. -/
def rvMul (f3 : Nat) (a b : DWord) : DWord :=
  let high := fun (x : Int) => BitVec.ofInt 64 (x / 2 ^ 64)
  match f3 with
  | 0 => a * b
  | 1 => high (a.toInt * b.toInt)
  | 2 => high (a.toInt * b.toNat)
  | 3 => high (a.toNat * b.toNat)
  | 4 => BitVec.ofInt 64 (rvDiv a.toInt b.toInt)
  | 5 => BitVec.ofInt 64 (rvDiv a.toNat b.toNat)
  | 6 => BitVec.ofInt 64 (rvRem a.toInt b.toInt)
  | _ => BitVec.ofInt 64 (rvRem a.toNat b.toNat)

/-- The M extension, on words. -/
def rvMulW (f3 : Nat) (a b : DWord) : Option DWord :=
  let u := fun (x : DWord) => ((x.toNat % 2 ^ 32 : Nat) : Int)
  let i := fun (x : DWord) => (wordOf x).toInt
  let put := fun (x : Int) => some (wordOf (BitVec.ofInt 64 x))
  match f3 with
  | 0 => some (wordOf (a * b))
  | 4 => put (rvDiv (i a) (i b))
  | 5 => put (rvDiv (u a) (u b))
  | 6 => put (rvRem (i a) (i b))
  | 7 => put (rvRem (u a) (u b))
  | _ => none

/-- Whether a branch is taken. -/
def rvTaken (f3 : Nat) (a b : DWord) : Option Bool :=
  match f3 with
  | 0 => some (a == b)
  | 1 => some (a != b)
  | 4 => some (a.slt b)
  | 5 => some (!a.slt b)
  | 6 => some (a.ult b)
  | 7 => some (!a.ult b)
  | _ => none

/-- What an AMO stores, from the old value and the register's, each sign-extended from its width. -/
def rvAmo (f5 : Nat) (old b : DWord) (n : Nat) : Option DWord :=
  let u := fun (x : DWord) => x.toNat % 2 ^ n
  match f5 with
  | 0x00 => some (old + b)
  | 0x01 => some b
  | 0x04 => some (old ^^^ b)
  | 0x08 => some (old ||| b)
  | 0x0C => some (old &&& b)
  | 0x10 => some (if old.slt b then old else b)
  | 0x14 => some (if old.slt b then b else old)
  | 0x18 => some (if u old < u b then old else b)
  | 0x1C => some (if u old < u b then b else old)
  | _ => none

/-! One instruction -/

/-- The cause and value of an exception. -/
abbrev RvTrap := Nat × DWord

/-- LR, SC and the AMOs (A); a misaligned address is an exception. -/
def State.rvAtomic (s : State) (n w : Nat) (next : Ctrl → Ctrl) : Except RvTrap State :=
  let c := s.ctrl n
  let f5 := fld w 31 27
  let rd := fld w 11 7
  let size := 2 ^ fld w 14 12
  let at_ := c.get (fld w 19 15)
  let a := at_.toNat
  let b := signed64 (8 * size) (c.get (fld w 24 20)).toNat
  let ill : Except RvTrap State := .error (2, BitVec.ofNat 64 w)
  if size ≠ 4 ∧ size ≠ 8 then ill
  else if a % size ≠ 0 then .error (if f5 = 2 then 4 else 6, at_)
  else
    let old := signed64 (8 * size) (s.ctrlLoad n a size)
    if f5 = 2 then
      if fld w 24 20 ≠ 0 then ill else .ok (s.setCtrl n (next { c.set rd old with resv := some (a, size) }))
    else if f5 = 3 then
      let held := c.resv == some (a, size)
      let t := if held then s.ctrlStore n a size b.toNat else s
      .ok (t.setCtrl n (next { (t.ctrl n).set rd (if held then 0 else 1) with resv := none }))
    else match rvAmo f5 old b (8 * size) with
      | none => ill
      | some v =>
        let t := s.ctrlStore n a size v.toNat
        .ok (t.setCtrl n (next ((t.ctrl n).set rd old)))

/-- SYSTEM: ECALL, EBREAK, MRET, WFI, which ends at once, and Zicsr. -/
def State.rvSystem (s : State) (n w : Nat) (next : Ctrl → Ctrl) : Except RvTrap State :=
  let c := s.ctrl n
  let rd := fld w 11 7
  let rs1 := fld w 19 15
  let a := fld w 31 20
  let f3 := fld w 14 12
  let ill : Except RvTrap State := .error (2, BitVec.ofNat 64 w)
  if f3 = 0 then
    match w with
    | 0x00000073 => .error (11, 0)
    | 0x00100073 => .error (3, c.pc)
    | 0x30200073 => .ok (s.setCtrl n c.mret)
    | 0x10500073 => .ok (s.setCtrl n (next c))
    | _ => ill
  else if f3 = 4 then ill
  else
    let old := c.csrRead n a
    let v := if f3 < 4 then c.get rs1 else BitVec.ofNat 64 rs1
    let writes := f3 % 4 == 1 || rs1 != 0
    let new := match f3 % 4 with
      | 1 => v
      | 2 => old ||| v
      | _ => old &&& ~~~v
    if (csrMask a).isNone ∨ (writes ∧ 0xC00 ≤ a) then ill
    else .ok (s.setCtrl n (next ((if writes then c.csrWrite a new else c).set rd old)))

/-- The effect of an instruction word that takes `len` bytes. FENCE and FENCE.I order nothing more: a controller takes its instructions
one at a time and reads each from its memory. -/
def State.rvRun (s : State) (n w len : Nat) : Except RvTrap State :=
  let c := s.ctrl n
  let rd := fld w 11 7
  let f3 := fld w 14 12
  let f7 := fld w 31 25
  let a := c.get (fld w 19 15)
  let b := c.get (fld w 24 20)
  let immI := signed64 12 (fld w 31 20)
  let next := fun (c : Ctrl) => { c with pc := c.pc + BitVec.ofNat 64 len }
  let ill : Except RvTrap State := .error (2, BitVec.ofNat 64 w)
  let put := fun (v : DWord) => (.ok (s.setCtrl n (next (c.set rd v))) : Except RvTrap State)
  let go := fun (c : Ctrl) (pc : DWord) => (.ok (s.setCtrl n { c with pc := pc }) : Except RvTrap State)
  match fld w 6 0 with
  | 0x37 => put (signed64 32 (w / 2 ^ 12 * 2 ^ 12))
  | 0x17 => put (c.pc + signed64 32 (w / 2 ^ 12 * 2 ^ 12))
  | 0x6F =>
    let imm := signed64 21 (fld w 31 31 * 2 ^ 20 + fld w 19 12 * 2 ^ 12 + fld w 20 20 * 2 ^ 11 + fld w 30 21 * 2)
    go (c.set rd (c.pc + BitVec.ofNat 64 len)) (c.pc + imm)
  | 0x67 => if f3 ≠ 0 then ill else go (c.set rd (c.pc + BitVec.ofNat 64 len)) ((a + immI) &&& ~~~1#64)
  | 0x63 =>
    let imm := signed64 13 (fld w 31 31 * 2 ^ 12 + fld w 7 7 * 2 ^ 11 + fld w 30 25 * 2 ^ 5 + fld w 11 8 * 2)
    match rvTaken f3 a b with
    | none => ill
    | some t => if t then go c (c.pc + imm) else .ok (s.setCtrl n (next c))
  | 0x03 =>
    let size := 2 ^ (f3 % 4)
    if f3 = 7 then ill
    else
      let x := s.ctrlLoad n (a + immI).toNat size
      put (if f3 < 4 then signed64 (8 * size) x else BitVec.ofNat 64 x)
  | 0x23 =>
    if 4 ≤ f3 then ill
    else
      let t := s.ctrlStore n (a + signed64 12 (f7 * 2 ^ 5 + rd)).toNat (2 ^ f3) b.toNat
      .ok (t.setCtrl n (next (t.ctrl n)))
  | 0x13 =>
    if f3 = 1 ∧ fld w 31 26 ≠ 0 ∨ f3 = 5 ∧ fld w 31 26 ≠ 0 ∧ fld w 31 26 ≠ 0x10 then ill
    else put (rvAlu f3 (f3 == 5 && w.testBit 30) a immI)
  | 0x1B =>
    if f3 = 1 ∧ f7 ≠ 0 ∨ f3 = 5 ∧ f7 ≠ 0 ∧ f7 ≠ 0x20 then ill
    else (rvAluW f3 (f3 == 5 && w.testBit 30) a immI).elim ill put
  | 0x33 =>
    if f7 = 1 then put (rvMul f3 a b)
    else if f7 = 0 ∨ f7 = 0x20 ∧ (f3 = 0 ∨ f3 = 5) then put (rvAlu f3 (f7 == 0x20) a b)
    else ill
  | 0x3B =>
    if f7 = 1 then (rvMulW f3 a b).elim ill put
    else if f7 = 0 ∨ f7 = 0x20 ∧ (f3 = 0 ∨ f3 = 5) then (rvAluW f3 (f7 == 0x20) a b).elim ill put
    else ill
  | 0x0F => if 2 ≤ f3 then ill else .ok (s.setCtrl n (next c))
  | 0x2F => s.rvAtomic n w next
  | 0x73 => s.rvSystem n w next
  | _ => ill

/-- A controller runs its next instruction. The sage pair stands still while a mismatch has halted it (R16), a tile controller while its
tile resets (R385). -/
def State.doCtrl (s : State) (n : Nat) : Option State :=
  if 17 ≤ n ∨ (n = 0 ∧ s.regs.sageHalted = true) ∨ (9 ≤ n ∧ (s.tileRec (n - 9)).st ≠ .run) then none
  else
    let c := s.ctrl n
    let h := s.ctrlLoad n c.pc.toNat 2
    let w := if h % 4 = 3 then h + 2 ^ 16 * s.ctrlLoad n (c.pc + 2).toNat 2 else h
    let r := if h % 4 = 3 then s.rvRun n w 4
      else match rvc h with
        | some w => s.rvRun n w 2
        | none => .error (2, BitVec.ofNat 64 h)
    some (match r with
      | .ok t => t
      | .error e => s.setCtrl n (c.trap e.1 e.2))

end Sys2Proof.Machine
end

