-- ==== Sys2Proof/Machine/Issue.lean ====
section
/-! DEFINITION. One step of the module: what the agenda asks for, or, when it asks for nothing, an event that is due, or an
instruction issued by the sector's rule (R302). -/

namespace Sys2Proof.Machine

/-! Fetching the next instruction of a fragment -/

/-- What a fragment finds at its PC: an instruction, the end of its block (R88), or code that cannot be read (R90). -/
inductive Fetched where
  | instr (i : Instr)
  | fall
  | stop (cause : Nat)
  deriving DecidableEq, Repr

/-- The next instruction of a fragment: the next word of its list (R268), or the units at its PC (R77, R78). Units that lie past the end
of the code handle end the block with BOUNDS, as at a transfer's target: the spec states that end for targets (R90; DESIGN CHOICE,
assumption 59). -/
def State.fetch (s : State) (c : Iss) : Fetched :=
  match c.f.latch[c.f.latchAt]? with
  | some w => .instr (laneInstr w.value w.wide)
  | none =>
    if (match s.blockEnd c c.f with | some e => decide (e ≤ c.f.pc) | none => false) then .fall
    else
      let us := s.unitsFrom c c.f.hnd 3 c.f.pc
      match decodeUnits us.1 with
      | .ok (i, _) => .instr i
      | .error _ => .stop (us.2.getD causeBounds)

/-! When a fragment may issue -/

/-- Registers of the three files. -/
structure RegSet where
  v : List Nat
  s : List Nat
  k : List Nat
  deriving DecidableEq, Repr

def RegSet.meets (a b : RegSet) : Bool :=
  a.v.any (fun r => b.v.contains r) || a.s.any (fun r => b.s.contains r) || a.k.any (fun r => b.k.contains r)

def RegSet.join (a b : RegSet) : RegSet := ⟨a.v ++ b.v, a.s ++ b.s, a.k ++ b.k⟩

/-- The registers that an event of an issue queue will still write. -/
def IqEv.writes (e : IqEv) : RegSet :=
  let of := fun (d : Dest) (words : Nat) => match d with
    | .vec r _ _ => (⟨tab words (fun i => r + i), [], []⟩ : RegSet)
    | .sca r _ => ⟨[], tab words (fun i => r + i), []⟩
    | _ => ⟨[], [], []⟩
  match e.kind with
  | .load _ bs _ => bs.foldl (fun m b => m.join (of b.2 1)) ⟨[], [], []⟩
  | .atom _ a => of a.dest (a.n / 4)
  | .bar _ (.update _ _ (some d)) => ⟨[], [d], []⟩
  | .stcq _ q => ⟨[], [q.dst, q.dst + 1], []⟩
  | .plins _ _ _ _ k => ⟨[], [], [k].filter (· ≠ 0)⟩
  | _ => ⟨[], [], []⟩

/-- The registers that a group's unperformed reads, atomics, inserts and takes will still write. -/
def State.pending (s : State) (gid : Nat) (g : Group) : RegSet :=
  let m := (s.iq.filter (fun e => e.gid == gid)).foldl (fun m e => m.join e.writes) ⟨[], [], []⟩
  g.table.foldl (fun m p => match p.2 with
    | .frag f => match f.pool with
      | some r => m.join ⟨[r.e.dst.toNat, r.e.dst.toNat + 1], [], [r.e.a.toNat]⟩
      | none => m
    | _ => m) m

/-- Instructions that reach memory: MMA, MLD and MST (R148), forked engines and barrier objects included. -/
def reachesMemory (op : Nat) : Bool :=
  (0x170 ≤ op && op ≤ 0x192) || (0x1A0 ≤ op && op ≤ 0x1AD) || (0x1C1 ≤ op && op ≤ 0x1C4) || (0x1E0 ≤ op && op ≤ 0x1E6)

/-- The registers an instruction may name, by its codes: enough of them to cover every pair, tuple and tile operand. -/
def namedRegs (op : Nat) (e : Enc) : RegSet :=
  let codes := [e.dst.toNat, e.a.toNat, e.b.toNat, e.p.d4.toNat]
  let cas := op == 0x180 || op == 0x189
  let nv := if op < 0x1C0 && !cas then 2 else 4
  let ns := if (0x1A0 ≤ op && op ≤ 0x1AD) || 0x1C0 ≤ op then 16 else if cas then 4 else 2
  ⟨(codes.filter (· < 0x40)).flatMap (fun r => tab nv (fun i => r + i)),
    (codes.filter (fun r => 0x40 ≤ r ∧ r < 0x60)).flatMap (fun r => tab ns (fun i => r - 0x40 + i)),
    e.p.msk.toNat :: codes.filter (· < 8)⟩

/-- The sector holds an instruction until the results it needs have arrived (R98), and a memory access behind a strongly ordered
one (R173), which a STCQ is while its entries may lie on such a page, or at a frozen page (R346). -/
def State.holds (s : State) (c : Iss) (i : Instr) : Bool :=
  match opcodeOf i with
  | none => false
  | some (op, e) =>
    (s.pending c.cur.gid c.g).meets (namedRegs op.toNat e) ||
    (reachesMemory op.toNat &&
      (s.iq.any (fun x => x.gid == c.cur.gid && (x.ord == .so || s.mayLie x (· == .so))) || s.sq.any (fun w => w.gid == c.cur.gid && w.ord == .so) ||
        s.decants.any (fun p => p.2.frozen && p.2.ctx == c.l.ctx)))

/-- Whether the group of a fragment still waits for a register write, a matrix operand or a pool insert of an instruction that has
issued (R324, R372). -/
def State.writesOut (s : State) (c : Iss) : Bool :=
  s.iq.any (fun e => e.gid == c.cur.gid && (match e.kind with
      | .plins .. => true
      | .load _ bs _ => e.writes != ⟨[], [], []⟩ || bs.any (fun p => match p.2 with | .buf _ _ => true | _ => false)
      | _ => e.writes != ⟨[], [], []⟩)) ||
    c.g.table.any (fun p => match p.2 with
      | .frag f => f.pool.isSome
      | _ => false)

/-- Opcodes that can raise an IEEE exception (R122). -/
def raisesIeee (op : Nat) : Bool :=
  (0x0E0 ≤ op && op ≤ 0x100) || (0x14B ≤ op && op ≤ 0x14D) || (0x154 ≤ op && op ≤ 0x156)

/-- While a fragment of the group is in the handler no other issues (R372). Until the handler's first instruction, an instruction that
can raise an IEEE exception may still come to its result in another fragment: it had issued before, and its trap is then raised in
the same cycle (R371, R375). -/
def Iss.gated (c : Iss) (i : Option Instr) : Bool :=
  c.g.handling && c.f.st != .handler &&
    !(match c.g.trap.fresh, i.bind opcodeOf with
      | some n, some (op, _) => decide (c.f.last < n) && raisesIeee op.toNat
      | _, _ => false)

/-- Whether some fragment of a group stands within an EXLW. -/
def Group.listed (g : Group) : Bool :=
  g.table.any (fun p => match p.2 with
    | .frag f => f.inList
    | _ => false)

/-- A fragment may issue (R271, R302): its block runs, or is being evicted and the fragment stands within an EXLW, or is in the
handler while another of its group does (R269, R295); it holds no trap and no take; the handler's first instruction finds every
earlier load's register written (R372); and no load of its activity mask is in flight (R111). -/
def State.ready (s : State) (c : Iss) : Bool :=
  c.f.st != .pending && c.f.pool.isNone &&
    (match c.b.st with
      | .running => true
      | .stopping _ => c.f.inList || (c.f.st == .handler && c.g.listed)
      | _ => false) &&
    (s.tileRec c.tile).st == .run &&
    !(c.f.st == .handler && c.f.pc == c.f.blk + 8 && s.writesOut c) &&
    !s.iq.any (fun e => e.gid == c.cur.gid && e.ent == c.cur.ent && !e.maskRegs.isEmpty)

/-! Issue -/

/-- A unit of code enters the core's instruction cache and the TLBs (R97, R338); a line that has to be fetched counts against the
cluster's budget and crosses links (R291, R294). -/
def State.fetchUnit (s : State) (c : Iss) (off : Nat) : State :=
  let h := c.handle c.f.hnd
  let s := if h.space = 0 then s.touch c.walker (h.base + off) else s
  let t := s.icFill c c.f.hnd off
  match s.place c h none off .x with
  | some (l, _) =>
    if (s.icLine c.b.core l).isNone && (t.icLine c.b.core l).isSome then t.traffic (t.payer c.cur.gid) c.tile l 128 l.reach else t
  | none => t

/-- The instruction's units have been fetched. -/
def State.fetched (s : State) (c : Iss) (i : Instr) : State :=
  if c.f.inList then s else (List.range (encode i).length).foldl (fun s k => s.fetchUnit c (c.f.pc + 4 * k)) s

/-- A page of the launch's code is frozen: fetch is held at translation (R346). -/
def State.codeFrozen (s : State) (c : Iss) : Bool :=
  s.decants.any (fun p => p.2.frozen && p.2.ctx == c.l.ctx && (c.l.handles.map hndOf).any (fun h =>
    h.kind == 4 && h.space == 0 && overlap h.base h.bytes p.2.va p.2.size))

/-- What a fragment would issue next, if it may issue. -/
def State.upNext (s : State) (c : Iss) : Option Fetched :=
  if !s.ready c || s.codeFrozen c then none
  else match s.fetch c with
    | .instr i => if c.gated i || s.holds c i then none else some (.instr i)
    | r => if c.gated none then none else some r

/-- The fragment at a place issues its next instruction, at this place of the issue order (R302); none when it may not. `run` is the
meaning of instructions. -/
def State.issueAt (run : Instr → State → Out) (s : State) (cur : Cursor) : Option Out :=
  let s := { s with cur := cur }
  match s.issuer? with
  | none => none
  | some c => match s.upNext c with
    | none => none
    | some (.stop cause) => some (.next (s.stopBlock c (cause, noLane) c.own))
    | some .fall => some (.next (s.moves c [.enter cur.ent c.f.pc false]))
    | some (.instr i) =>
      let s := if c.f.st = .handler then s.modGroup cur.gid (fun g => { g with trap := { g.trap with fresh := none } }) else s
      some (run i ((s.fetched c i).modFrag cur (fun f => { f with last := s.seq, starved := false })))

/-- A fragment is ready (R302): in STATE 0 or 3, with its operands in and nothing to hold it. -/
def State.readyAt (s : State) (cur : Cursor) : Bool :=
  match { s with cur := cur }.issuer? with
  | none => false
  | some c => (c.f.st == .ready || c.f.st == .handler) && ({ s with cur := cur }.upNext c).isSome

/-- The issue stage notes which fragments have become ready, and when (R302). -/
def State.watch (s : State) : State :=
  { s with groups := s.groups.map (fun p => (p.1, { p.2 with table := p.2.table.map (fun q => match q.2 with
    | .frag f =>
      let now := s.readyAt ⟨p.1, q.1⟩
      if f.rdy == now then q else (q.1, .frag { f with rdy := now, since := if now then s.seq else f.since })
    | _ => q) })) }

/-- The moment from which a fragment has waited (R302): the later of its last issue and when it last became ready. -/
def Frag.waited (f : Frag) : Nat := max f.last f.since

/-- FRAGMENT_STARVE_PROMOTE: a fragment that is ready to issue enters class 2. -/
def State.doPromote (s : State) (gid ent : Nat) : State :=
  if s.readyAt ⟨gid, ent⟩ then s.modFrag ⟨gid, ent⟩ (fun f => { f with starved := true }) else s

/-- Whether an issue did more than find that its instruction has to wait. -/
def State.issued (s s' : State) (cur : Cursor) : Bool :=
  let still := fun (f : Frag) => { f with st := .ready, last := 0, starved := false, rdy := false, since := 0 }
  match Map.find? s.groups cur.gid, Map.find? s'.groups cur.gid with
  | some g, some g' =>
    Map.get 0 g.perf 0 != Map.get 0 g'.perf 0 || (s.fragAt cur).map still != (s'.fragAt cur).map still ||
      (Map.find? s.blocks (cur.gid / 32)).map Block.st != (Map.find? s'.blocks (cur.gid / 32)).map Block.st
  | _, _ => true

/-- The class in which a sector tries a fragment (R302): its YIELD period puts it last, whatever its class would be. -/
def Frag.class (f : Frag) : Nat :=
  if f.yielded then 3 else if f.st = .handler then 0 else if f.starved then 1 else 2

/-- A fragment's turn: its core's sector, its place of issue, and the keys by which its sector tries it (R302): the class; within it
nothing (STATE 3), the moment from which it has waited, or the last issue; then the slot and the entry. -/
structure Turn where
  sector : Nat
  last   : Nat
  keys   : List Nat
  cur    : Cursor
  deriving DecidableEq, Repr

/-- Lexicographic order. -/
def lexLe : List Nat → List Nat → Bool
  | [], _ => true
  | _ :: _, [] => false
  | a :: as, b :: bs => decide (a < b) || (a == b && lexLe as bs)

/-- Puts a turn in its place. -/
def insTurn (t : Turn) : List Turn → List Turn
  | [] => [t]
  | u :: us => if lexLe t.keys u.keys then t :: u :: us else u :: insTurn t us

/-- The turn of a fragment; a group in its handler offers that fragment only (R372). -/
def State.turnOf (s : State) (gid : Nat) (g : Group) (ent : Nat) (f : Frag) : Option Turn :=
  if g.handling && f.st != .handler then none
  else
    let core := match Map.find? s.blocks (gid / 32) with | some b => b.core | none => 0
    let key := if f.class = 0 then 0 else if f.class = 1 then f.waited else f.last
    some ⟨4 * core + g.sector, f.last, [f.class, key, g.slot, gid, ent], ⟨gid, ent⟩⟩

/-- Every fragment in the order of R302, sector after sector: the one that issued least recently first (assumption 1). -/
def State.turns (s : State) : List Turn :=
  let all := s.groups.flatMap (fun (p : Nat × Group) => p.2.table.filterMap (fun q => match q.2 with
    | .frag f => s.turnOf p.1 p.2 q.1 f
    | _ => none))
  let issued := fun (n : Nat) => (all.filter (fun t => t.sector == n)).foldl (fun m t => max m t.last) 0
  (all.map (fun t => { t with keys := issued t.sector :: t.sector :: t.keys })).foldl (fun acc t => insTurn t acc) []

/-- What a turn's fragment does when it issues, unless it only finds that it has to wait. -/
def State.tryTurn (run : Instr → State → Out) (s : State) (t : Turn) : Option Out :=
  match s.issueAt run t.cur with
  | some (.next s') => if s.issued s' t.cur then some (.next s') else none
  | r => r

/-- The first fragment in turn whose instruction does something issues. -/
def State.issueAny (run : Instr → State → Out) (s : State) : Out :=
  (s.turns.findSome? (fun t => s.tryTurn run t)).getD (.next s)

/-- The fragment that the agenda names issues, unless one of the first two classes in its sector comes before it and is ready (R302);
among the others the scoreboard window, which the model leaves out, decides (assumption 2). -/
def State.issueNamed (run : Instr → State → Out) (s : State) (c : Cursor) : Out :=
  let ts := s.turns
  let mine := ts.find? (fun t => t.cur == c)
  let passed := match mine with
    | some m => ts.any (fun t => t.sector == m.sector && t.cur != c && lexLe t.keys m.keys && decide (t.keys.getD 2 2 ≤ 1) &&
        (s.tryTurn run t).isSome)
    | none => false
  if passed then .next s else (s.issueAt run c).getD (.next s)

/-! Events that are due -/

/-- The first state among those that some keys give. -/
def firstOf (keys : List Nat) (f : Nat → Option State) : Option State := keys.findSome? f

/-- DROP of the oldest L1 copy and of the oldest clean guest, at every 64th place of the issue order: each copy goes after finitely many
steps (R206; the number is the model's, assumption 1). -/
def State.autoDrop (s : State) : Option State :=
  if s.seq % 64 = 0 then
    let a := s.l1.getLast?.bind (fun c => s.doDrop true c.place c.line)
    let t := a.getD s
    ((t.guests.filter (fun c => !c.dirty)).getLast?.bind (fun c => t.doDrop false c.place c.line)) <|> a
  else none

/-- The issue stage's timers in 64 places of the issue order for 64 cycles (R302; assumption 1): the first fragment whose YIELD period
is over, or that has been ready so long without issuing. -/
def State.autoTimer (s : State) : Option State :=
  s.groups.findSome? (fun p => p.2.table.findSome? (fun q => match q.2 with
    | .frag f =>
      if f.yielded && decide (f.yieldAt + 64 ≤ s.seq) then some (s.doYieldEnd p.1 q.1)
      else if !f.starved && f.rdy && decide (f.waited + 64 ≤ s.seq) then some (s.doPromote p.1 q.1)
      else none
    | _ => none))

/-- A step of the ordering machine (R195). -/
def State.autoOrder (s : State) : Option State :=
  firstOf (s.iq.map IqEv.id) (fun id => s.eventRead id <|> s.performAtomic id) <|>
  firstOf (s.sq.map WEv.id) s.eventRiseC <|>
  firstOf (s.clv.map WEv.id) s.eventRiseT <|>
  firstOf (s.cbuf.map WEv.id) s.eventDrainNt

/-- A step of an engine thread (R207): the least byte not yet read, the least not yet written, or its completion. -/
def State.autoEngine (s : State) : Option State :=
  s.engines.findSome? (fun p =>
    (((List.range p.2.n).find? (fun i => !p.2.has i)).bind (s.eventERead p.1)) <|>
    (((List.range (s.engBytes p.2)).find? (fun i => !p.2.wrote.contains i)).bind (s.eventEWrite p.1)) <|>
    s.doComplete p.1)

/-- A pool's answers and rounds (R310 to R314), in a round that racks nothing. -/
def State.autoPool (s : State) : Option State :=
  s.pools.findSome? (fun p =>
    (if p.2.held.isSome then s.doNoticeAck p.1 else none) <|>
    s.doTakeForward p.1 <|>
    (if p.2.stopped || !p.2.wait.isEmpty then s.doRound p.1 [] else none))

/-- What a queue's packets do next (R355, R357). -/
def State.autoQueue (s : State) : Option State :=
  firstOf s.queues.keys (fun q =>
    s.doSignal q <|> s.doMark q <|> s.doWaitSatisfied q <|>
    s.parse q (typeIs 1) (fun s => s.parseLaunch q) <|>
    s.parse q (typeIs 2) (fun s => s.parseResume q) <|>
    s.parse q (typeIs 3) (fun s => s.parseEdge q) <|>
    s.parse q (fun x => typeIs 4 x && fld x 159 128 != 0) (fun s => s.parseReply q) <|>
    s.parse q (typeIs 5) (fun s => s.parseWait q) <|>
    s.parse q (fun x => x % 256 == 0 || decide (6 < x % 256)) (fun s _ _ => s.queueErr q 3))

/-- Launches and blocks: admission, placement, thefts, ends and images (R282, R287, R301, R251, R295). -/
def State.autoBlock (s : State) : Option State :=
  firstOf s.launches.keys s.doAdmit <|>
  s.placeable.bind s.doPlace <|>
  (if s.cores.any (fun p => !p.2.deque.isEmpty) then firstOf (List.range 768) s.doSteal else none) <|>
  firstOf s.blocks.keys s.doBlockEnded <|>
  firstOf s.blocks.keys s.doImageWrite <|>
  firstOf s.launches.keys s.doLaunchEnd

/-- Contexts, translation and decants (R331, R339, R345, R346). -/
def State.autoCtx (s : State) : Option State :=
  firstOf s.ctxs.keys s.doDisabled <|>
  s.doInvDone <|>
  firstOf s.decants.keys (fun id => s.doFreezeDone id <|> s.doRoundOf id)

/-- A checkpoint area's half for logs (R384, assumption 53): where the record of an entry of a tile's log lies, by its sender and its number.
The messages of the I/O die, which has no area, are logged in the area of the tile's partner. -/
def State.logPlace (s : State) (src t k : Nat) : Nat :=
  s.checkpointArea (if src < 8 then src ^^^ 4 else t) + 2 ^ 28 + 2 ^ 25 * t + 32 * k

/-- What a log record holds (R384, assumption 53): the place, the per-line sequence number and the data. -/
def LogEnt.bytes (e : LogEnt) : List Byte :=
  let k := e.msg.key
  toBytes 32 (k.2.2 + k.2.1 * 2 ^ 56 + k.1 * 2 ^ 60 + e.seq * 2 ^ 64 + (match e.msg with
    | .byte l b => (l.addr % 128 + b.toNat * 2 ^ 8) * 2 ^ 128
    | .steal _ x => x.entry.toNat * 2 ^ 128 + x.arg.toNat * 2 ^ 160 + x.join.toNat * 2 ^ 192 + x.lid * 2 ^ 224
    | _ => 0))

/-- The oldest entry of a tile's log that its sender has not written yet is written (R384). -/
def State.writeLog (s : State) (t : Nat) : Option State :=
  let log := (s.tileRec t).log
  let k := log.findIdx (fun e => !e.written)
  match log[k]? with
  | none => none
  | some e =>
    let at_ := s.logPlace e.src t k
    if !s.homesUp at_ 32 then none
    else
      let s := s.setTile t { s.tileRec t with log := log.set k { e with written := true } }
      some (s.store (s.homeTile at_) (bytesFrom at_ e.bytes))

/-- What the module's own hardware completes (R294, R325, R359, R360, R385, R388, R390), and the log records and the checkpoint that a
full log forces (R384). -/
def State.autoUnit (s : State) : Option State :=
  firstOf (s.guests.map Copy.line) (fun l => (s.dirty? l).bind (fun g => s.eventWriteback g.place l)) <|>
  s.doBootDone <|>
  s.doScrubDone <|>
  firstOf s.tiles.keys (fun t => s.doTileReset t <|> s.doTileRestore t <|> s.doTileReplay t) <|>
  firstOf s.tiles.keys (fun t => if (s.tileRec t).log.length < logRoom then none else s.doCheckpoint t) <|>
  firstOf s.tiles.keys s.writeLog <|>
  (if !s.regs.evWait.isEmpty && s.ringReady then some (ringFlush s s.regs.evWait) else none) <|>
  s.shed <|>
  firstOf s.links.keys s.doFull <|>
  s.doSageRestart <|>
  firstOf s.clusters.keys (fun n => s.doCluDrained n <|> s.doCluSaved n <|> s.doCluWoken n)

/-- The event that comes next when the agenda names none (assumption 1). -/
def State.auto (s : State) : Option State :=
  s.autoTimer <|> s.autoDrop <|> s.autoOrder <|> s.autoEngine <|> s.autoPool <|> s.autoQueue <|> s.autoBlock <|> s.autoCtx <|> s.autoUnit

/-! The step -/

/-- A step passes: the issue order goes on, and core clocks pass as Config says (assumption 2). -/
def State.tick (s : State) : State := { s with seq := s.seq + 1, clk := s.clk + Config.extraClocks s.seq }

/-- What an agenda may ask for outright: a step or an event of the module; an instruction needs a fragment that fetches it. -/
def isEvent (i : Instr) : Bool :=
  match i with
  | .illegalInstruction _ => false
  | .arithTrap .. => false
  | i => (opcodeOf i).isNone

/-- One step (assumption 1): the head of the agenda, or an event that is due, or an instruction. -/
def State.stepWith (run : Instr → State → Out) (s : State) : Out :=
  let s := s.tick
  match s.agenda with
  | .act i :: rest => let s := { s with agenda := rest }; if isEvent i then run i s else .next s
  | .issue c :: rest => { s with agenda := rest }.issueNamed run c
  | .part id line :: rest => let s := { s with agenda := rest }; stepped s (s.doPart id line)
  | .ctrl n :: rest => let s := { s with agenda := rest }; stepped s (s.doCtrl n)
  | [] =>
    let s := s.watch
    match s.auto with
    | some s' => .next s'
    | none => s.issueAny run

/-- R302 -/
def execFragmentStarvePromote (gid ent : Nat) (s : State) : Out := .next (s.doPromote gid ent)

end Sys2Proof.Machine
end

