-- ==== Sys2Proof/Machine/MaskOps.lean ====
section
/-! DEFINITION. The mask instructions (R112). -/

namespace Sys2Proof.Machine

/-- R112 -/
def execKand (e : Enc) (s : State) : Out := issuing (.kand e) s (fun c => s.maskOp c e (c.k e.a.toNat &&& c.k e.b.toNat))
/-- R112 -/
def execKor (e : Enc) (s : State) : Out := issuing (.kor e) s (fun c => s.maskOp c e (c.k e.a.toNat ||| c.k e.b.toNat))
/-- R112 -/
def execKxor (e : Enc) (s : State) : Out := issuing (.kxor e) s (fun c => s.maskOp c e (c.k e.a.toNat ^^^ c.k e.b.toNat))
/-- R112 -/
def execKnot (e : Enc) (s : State) : Out := issuing (.knot e) s (fun c => s.maskOp c e (~~~(c.k e.a.toNat)))
/-- R112 -/
def execKmov (e : Enc) (s : State) : Out := issuing (.kmov e) s (fun c => s.maskOp c e (c.k e.a.toNat))
/-- R112: Owned lanes that are not helper lanes with the bit set. -/
def execKpop (e : Enc) (s : State) : Out :=
  issuing (.kpop e) s (fun c => s.sca c e false (BitVec.ofNat 64 (popMask (c.k e.a.toNat &&& c.own &&& ~~~c.g.helpers))))

end Sys2Proof.Machine
end

