-- ==== Sys2Proof/Machine/Scalar.lean ====
section
/-! DEFINITION. The scalar instructions (R109 to R111) and the moves between masks and scalars (R113). -/

namespace Sys2Proof.Machine

/-- The beat that field B of K2S and S2K names (R113). -/
def beatOf (e : Enc) : Nat := if e.b = 0x60 then 0 else if e.b = 0x70 then 1 else 2

/-- R109 -/
def execSmov (e : Enc) (s : State) : Out := issuing (.smov e) s (fun c => s.scaInt c e false iMov)
/-- R110: the 14-bit immediate, sign-extended, or zero-extended under .n32. -/
def execSli (e : Enc) (s : State) : Out :=
  issuing (.sli e) s (fun c => s.sca c e (intTy e.var).wide (if e.var = 1 then e.imm14.zeroExtend 64 else e.imm14.signExtend 64))
/-- R109 -/
def execSadd (e : Enc) (s : State) : Out := issuing (.sadd e) s (fun c => s.scaInt c e false iAdd)
/-- R109 -/
def execSsub (e : Enc) (s : State) : Out := issuing (.ssub e) s (fun c => s.scaInt c e false iSub)
/-- R109 -/
def execSmul (e : Enc) (s : State) : Out := issuing (.smul e) s (fun c => s.scaInt c e false iMul)
/-- R109 -/
def execSmulh (e : Enc) (s : State) : Out := issuing (.smulh e) s (fun c => s.scaInt c e false iMulh)
/-- R109 -/
def execSdiv (e : Enc) (s : State) : Out := issuing (.sdiv e) s (fun c => s.scaInt c e false iDiv)
/-- R109 -/
def execSrem (e : Enc) (s : State) : Out := issuing (.srem e) s (fun c => s.scaInt c e false iRem)
/-- R109 -/
def execSand (e : Enc) (s : State) : Out := issuing (.sand e) s (fun c => s.scaInt c e false iAnd)
/-- R109 -/
def execSor (e : Enc) (s : State) : Out := issuing (.sor e) s (fun c => s.scaInt c e false iOr)
/-- R109 -/
def execSxor (e : Enc) (s : State) : Out := issuing (.sxor e) s (fun c => s.scaInt c e false iXor)
/-- R109 -/
def execSnot (e : Enc) (s : State) : Out := issuing (.snot e) s (fun c => s.scaInt c e false iNot)
/-- R109 -/
def execSshl (e : Enc) (s : State) : Out := issuing (.sshl e) s (fun c => s.scaInt c e true iShl)
/-- R109 -/
def execSshr (e : Enc) (s : State) : Out := issuing (.sshr e) s (fun c => s.scaInt c e true iShr)
/-- R109 -/
def execSsar (e : Enc) (s : State) : Out := issuing (.ssar e) s (fun c => s.scaInt c e true iSar)
/-- R109 -/
def execSmin (e : Enc) (s : State) : Out := issuing (.smin e) s (fun c => s.scaInt c e false iMin)
/-- R109 -/
def execSmax (e : Enc) (s : State) : Out := issuing (.smax e) s (fun c => s.scaInt c e false iMax)
/-- R109 -/
def execScmpEq (e : Enc) (s : State) : Out := issuing (.scmpEq e) s (fun c => s.scaCmp c e .eq)
/-- R109 -/
def execScmpNe (e : Enc) (s : State) : Out := issuing (.scmpNe e) s (fun c => s.scaCmp c e .ne)
/-- R109 -/
def execScmpLt (e : Enc) (s : State) : Out := issuing (.scmpLt e) s (fun c => s.scaCmp c e .lt)
/-- R109 -/
def execScmpLe (e : Enc) (s : State) : Out := issuing (.scmpLe e) s (fun c => s.scaCmp c e .le)
/-- R109 -/
def execScmpGt (e : Enc) (s : State) : Out := issuing (.scmpGt e) s (fun c => s.scaCmp c e .gt)
/-- R109 -/
def execScmpGe (e : Enc) (s : State) : Out := issuing (.scmpGe e) s (fun c => s.scaCmp c e .ge)
/-- R110: a when the destination is non-zero, else b. -/
def execSsel (e : Enc) (s : State) : Out :=
  issuing (.ssel e) s (fun c => s.sca c e (intTy e.var).wide (if c.sa e e.dst (intTy e.var) ≠ 0 then c.sa e e.a (intTy e.var) else c.sa e e.b (intTy e.var)))
/-- R109 -/
def execSclz (e : Enc) (s : State) : Out := issuing (.sclz e) s (fun c => s.scaInt c e false iClz)
/-- R109 -/
def execSpopc (e : Enc) (s : State) : Out := issuing (.spopc e) s (fun c => s.scaInt c e false iPopc)
/-- R109 -/
def execSbfe (e : Enc) (s : State) : Out := issuing (.sbfe e) s (fun c => s.scaInt c e true iBfe)
/-- R110: the field of a into the destination. -/
def execSbfi (e : Enc) (s : State) : Out := issuing (.sbfi e) s (fun c => s.scaInt c e true iBfi)
/-- R113: one beat of a mask to a scalar. -/
def execK2s (e : Enc) (s : State) : Out :=
  issuing (.k2s e) s (fun c => s.sca c e false (((c.k e.a.toNat) >>> (32 * beatOf e)).zeroExtend 64 &&& 0xFFFF_FFFF))
/-- R113: a scalar into the Owned lanes of one beat of a mask. -/
def execS2k (e : Enc) (s : State) : Out :=
  issuing (.s2k e) s (fun c => s.finish c e (c.eff.kPut c.f.act e.dst.toNat (c.own &&& ((0xFFFF_FFFF#96) <<< (32 * beatOf e))) (((c.sa e e.a .i32).zeroExtend 96) <<< (32 * beatOf e))) c.own false)

end Sys2Proof.Machine
end

