-- ==== Sys2Proof/Machine/VecInt.lean ====
section
/-! DEFINITION. The vector integer and bit instructions (R101 to R108). -/

namespace Sys2Proof.Machine

/-- VADDC's pair (R105): the sum's low word and its carry. -/
def vaddcOf (a b d : DWord) : DWord := BitVec.ofNat 64 (a.toNat + b.toNat + d.toNat % 2)

/-- VPACK reads its sources as 32-bit values (R108). -/
def packTy (e : Enc) : Ty := if e.var = 1 then .n32 else .i32

/-- VPACK (R108). -/
def vpackOf (uns sat : Bool) (a b : DWord) : DWord :=
  let el := fun (x : DWord) =>
    if !sat then x.toNat % 65536
    else if uns then min x.toNat 65535
    else Ty.wrap .i16x2 (Ty.clamp .i16x2 (Ty.val .i32 x 0))
  BitVec.ofNat 64 (el a + 65536 * el b)

/-- VUNPK (R108): the two elements, each extended to a word. -/
def vunpkOf (uns : Bool) (a : DWord) : DWord :=
  let el := fun (i : Nat) => Ty.wrap .i32 (if uns then (Ty.raw .i16x2 a i : Int) else Ty.val .i16x2 a i)
  BitVec.ofNat 64 (el 0 + 2 ^ 32 * el 1)

/-- R101, R102 -/
def execVmov (e : Enc) (s : State) : Out := issuing (.vmov e) s (fun c => s.vecInt c e false iMov)
/-- R101, R102 -/
def execVadd (e : Enc) (s : State) : Out := issuing (.vadd e) s (fun c => s.vecInt c e false iAdd)
/-- R105: sum and carry to a pair; the carry in is bit 0 of d. -/
def execVaddc (e : Enc) (s : State) : Out :=
  issuing (.vaddc e) s (fun c => s.vec c e true (fun L => vaddcOf (c.a e .n32 L) (c.b' e .n32 L) (c.d e .n32 L)))
/-- R101, R102 -/
def execVsub (e : Enc) (s : State) : Out := issuing (.vsub e) s (fun c => s.vecInt c e false iSub)
/-- R101, R102 -/
def execVmul (e : Enc) (s : State) : Out := issuing (.vmul e) s (fun c => s.vecInt c e false iMul)
/-- R101, R102 -/
def execVmulh (e : Enc) (s : State) : Out := issuing (.vmulh e) s (fun c => s.vecInt c e false iMulh)
/-- R101, R102 -/
def execVmad (e : Enc) (s : State) : Out := issuing (.vmad e) s (fun c => s.vecInt c e false iMad)
/-- R101, R102 -/
def execVdiv (e : Enc) (s : State) : Out := issuing (.vdiv e) s (fun c => s.vecInt c e false iDiv)
/-- R101, R102 -/
def execVrem (e : Enc) (s : State) : Out := issuing (.vrem e) s (fun c => s.vecInt c e false iRem)
/-- R101, R102 -/
def execVand (e : Enc) (s : State) : Out := issuing (.vand e) s (fun c => s.vecInt c e false iAnd)
/-- R101, R102 -/
def execVor (e : Enc) (s : State) : Out := issuing (.vor e) s (fun c => s.vecInt c e false iOr)
/-- R101, R102 -/
def execVxor (e : Enc) (s : State) : Out := issuing (.vxor e) s (fun c => s.vecInt c e false iXor)
/-- R101, R102 -/
def execVnot (e : Enc) (s : State) : Out := issuing (.vnot e) s (fun c => s.vecInt c e false iNot)
/-- R103 -/
def execVshl (e : Enc) (s : State) : Out := issuing (.vshl e) s (fun c => s.vecInt c e true iShl)
/-- R103 -/
def execVshr (e : Enc) (s : State) : Out := issuing (.vshr e) s (fun c => s.vecInt c e true iShr)
/-- R103 -/
def execVsar (e : Enc) (s : State) : Out := issuing (.vsar e) s (fun c => s.vecInt c e true iSar)
/-- R101, R102 -/
def execVmin (e : Enc) (s : State) : Out := issuing (.vmin e) s (fun c => s.vecInt c e false iMin)
/-- R101, R102 -/
def execVmax (e : Enc) (s : State) : Out := issuing (.vmax e) s (fun c => s.vecInt c e false iMax)
/-- R101, R102 -/
def execVabs (e : Enc) (s : State) : Out := issuing (.vabs e) s (fun c => s.vecInt c e false iAbs)
/-- R101, R102 -/
def execVneg (e : Enc) (s : State) : Out := issuing (.vneg e) s (fun c => s.vecInt c e false iNeg)
/-- R106 -/
def execVcmpEq (e : Enc) (s : State) : Out := issuing (.vcmpEq e) s (fun c => s.vecCmp c e .eq)
/-- R106 -/
def execVcmpNe (e : Enc) (s : State) : Out := issuing (.vcmpNe e) s (fun c => s.vecCmp c e .ne)
/-- R106 -/
def execVcmpLt (e : Enc) (s : State) : Out := issuing (.vcmpLt e) s (fun c => s.vecCmp c e .lt)
/-- R106 -/
def execVcmpLe (e : Enc) (s : State) : Out := issuing (.vcmpLe e) s (fun c => s.vecCmp c e .le)
/-- R106 -/
def execVcmpGt (e : Enc) (s : State) : Out := issuing (.vcmpGt e) s (fun c => s.vecCmp c e .gt)
/-- R106 -/
def execVcmpGe (e : Enc) (s : State) : Out := issuing (.vcmpGe e) s (fun c => s.vecCmp c e .ge)
/-- R107: a where the mask named in D4 is 1, else b. -/
def execVsel (e : Enc) (s : State) : Out :=
  issuing (.vsel e) s (fun c => s.vec c e (intTy e.var).wide (fun L => if bitOf (c.k e.p.d4.toNat) L then c.a e (intTy e.var) L else c.b' e (intTy e.var) L))
/-- R101, R102 -/
def execVclz (e : Enc) (s : State) : Out := issuing (.vclz e) s (fun c => s.vecInt c e false iClz)
/-- R101, R102 -/
def execVpopc (e : Enc) (s : State) : Out := issuing (.vpopc e) s (fun c => s.vecInt c e false iPopc)
/-- R101, R102 -/
def execVbrev (e : Enc) (s : State) : Out := issuing (.vbrev e) s (fun c => s.vecInt c e false iBrev)
/-- R103 -/
def execVbfe (e : Enc) (s : State) : Out := issuing (.vbfe e) s (fun c => s.vecInt c e true iBfe)
/-- R103 -/
def execVbfi (e : Enc) (s : State) : Out := issuing (.vbfi e) s (fun c => s.vecInt c e true iBfi)
/-- R108 -/
def execVdot4 (e : Enc) (s : State) : Out := issuing (.vdot4 e) s (fun c => s.vecInt c e false iDot4)
/-- R108 -/
def execVpack (e : Enc) (s : State) : Out :=
  issuing (.vpack e) s (fun c => s.vec c e false (fun L => vpackOf (e.var == 1) e.p.sat (c.a e (packTy e) L) (c.b' e (packTy e) L)))
/-- R108 -/
def execVunpk (e : Enc) (s : State) : Out :=
  issuing (.vunpk e) s (fun c => s.vec c e true (fun L => vunpkOf (e.var == 1) (c.a e (intTy e.var) L)))

end Sys2Proof.Machine
end

