-- ==== Sys2Proof/Machine/Dispatch.lean ====
section
/-! DEFINITION. The meaning of every instruction, step and event, by constructor. -/

namespace Sys2Proof.Machine

def exec (i : Instr) (s : State) : Host.Outcome State Fault Refusal :=
  match i with
  | .nop e => Sys2Proof.Machine.execNop e s
  | .brZ e => Sys2Proof.Machine.execBrZ e s
  | .brNz e => Sys2Proof.Machine.execBrNz e s
  | .brv e => Sys2Proof.Machine.execBrv e s
  | .brx e => Sys2Proof.Machine.execBrx e s
  | .jmp e => Sys2Proof.Machine.execJmp e s
  | .jmpIndirect e => Sys2Proof.Machine.execJmpIndirect e s
  | .call e => Sys2Proof.Machine.execCall e s
  | .callIndirect e => Sys2Proof.Machine.execCallIndirect e s
  | .ret e => Sys2Proof.Machine.execRet e s
  | .exit e => Sys2Proof.Machine.execExit e s
  | .yield e => Sys2Proof.Machine.execYield e s
  | .exlw e => Sys2Proof.Machine.execExlw e s
  | .exlw2 e => Sys2Proof.Machine.execExlw2 e s
  | .smov e => Sys2Proof.Machine.execSmov e s
  | .sli e => Sys2Proof.Machine.execSli e s
  | .sadd e => Sys2Proof.Machine.execSadd e s
  | .ssub e => Sys2Proof.Machine.execSsub e s
  | .smul e => Sys2Proof.Machine.execSmul e s
  | .smulh e => Sys2Proof.Machine.execSmulh e s
  | .sdiv e => Sys2Proof.Machine.execSdiv e s
  | .srem e => Sys2Proof.Machine.execSrem e s
  | .sand e => Sys2Proof.Machine.execSand e s
  | .sor e => Sys2Proof.Machine.execSor e s
  | .sxor e => Sys2Proof.Machine.execSxor e s
  | .snot e => Sys2Proof.Machine.execSnot e s
  | .sshl e => Sys2Proof.Machine.execSshl e s
  | .sshr e => Sys2Proof.Machine.execSshr e s
  | .ssar e => Sys2Proof.Machine.execSsar e s
  | .smin e => Sys2Proof.Machine.execSmin e s
  | .smax e => Sys2Proof.Machine.execSmax e s
  | .scmpEq e => Sys2Proof.Machine.execScmpEq e s
  | .scmpNe e => Sys2Proof.Machine.execScmpNe e s
  | .scmpLt e => Sys2Proof.Machine.execScmpLt e s
  | .scmpLe e => Sys2Proof.Machine.execScmpLe e s
  | .scmpGt e => Sys2Proof.Machine.execScmpGt e s
  | .scmpGe e => Sys2Proof.Machine.execScmpGe e s
  | .ssel e => Sys2Proof.Machine.execSsel e s
  | .sclz e => Sys2Proof.Machine.execSclz e s
  | .spopc e => Sys2Proof.Machine.execSpopc e s
  | .sbfe e => Sys2Proof.Machine.execSbfe e s
  | .sbfi e => Sys2Proof.Machine.execSbfi e s
  | .k2s e => Sys2Proof.Machine.execK2s e s
  | .s2k e => Sys2Proof.Machine.execS2k e s
  | .vmov e => Sys2Proof.Machine.execVmov e s
  | .vadd e => Sys2Proof.Machine.execVadd e s
  | .vaddc e => Sys2Proof.Machine.execVaddc e s
  | .vsub e => Sys2Proof.Machine.execVsub e s
  | .vmul e => Sys2Proof.Machine.execVmul e s
  | .vmulh e => Sys2Proof.Machine.execVmulh e s
  | .vmad e => Sys2Proof.Machine.execVmad e s
  | .vdiv e => Sys2Proof.Machine.execVdiv e s
  | .vrem e => Sys2Proof.Machine.execVrem e s
  | .vand e => Sys2Proof.Machine.execVand e s
  | .vor e => Sys2Proof.Machine.execVor e s
  | .vxor e => Sys2Proof.Machine.execVxor e s
  | .vnot e => Sys2Proof.Machine.execVnot e s
  | .vshl e => Sys2Proof.Machine.execVshl e s
  | .vshr e => Sys2Proof.Machine.execVshr e s
  | .vsar e => Sys2Proof.Machine.execVsar e s
  | .vmin e => Sys2Proof.Machine.execVmin e s
  | .vmax e => Sys2Proof.Machine.execVmax e s
  | .vabs e => Sys2Proof.Machine.execVabs e s
  | .vneg e => Sys2Proof.Machine.execVneg e s
  | .vcmpEq e => Sys2Proof.Machine.execVcmpEq e s
  | .vcmpNe e => Sys2Proof.Machine.execVcmpNe e s
  | .vcmpLt e => Sys2Proof.Machine.execVcmpLt e s
  | .vcmpLe e => Sys2Proof.Machine.execVcmpLe e s
  | .vcmpGt e => Sys2Proof.Machine.execVcmpGt e s
  | .vcmpGe e => Sys2Proof.Machine.execVcmpGe e s
  | .vsel e => Sys2Proof.Machine.execVsel e s
  | .vclz e => Sys2Proof.Machine.execVclz e s
  | .vpopc e => Sys2Proof.Machine.execVpopc e s
  | .vbrev e => Sys2Proof.Machine.execVbrev e s
  | .vbfe e => Sys2Proof.Machine.execVbfe e s
  | .vbfi e => Sys2Proof.Machine.execVbfi e s
  | .vdot4 e => Sys2Proof.Machine.execVdot4 e s
  | .vpack e => Sys2Proof.Machine.execVpack e s
  | .vunpk e => Sys2Proof.Machine.execVunpk e s
  | .kand e => Sys2Proof.Machine.execKand e s
  | .kor e => Sys2Proof.Machine.execKor e s
  | .kxor e => Sys2Proof.Machine.execKxor e s
  | .knot e => Sys2Proof.Machine.execKnot e s
  | .kmov e => Sys2Proof.Machine.execKmov e s
  | .kpop e => Sys2Proof.Machine.execKpop e s
  | .fadd e => Sys2Proof.Machine.execFadd e s
  | .fsub e => Sys2Proof.Machine.execFsub e s
  | .fmul e => Sys2Proof.Machine.execFmul e s
  | .ffma e => Sys2Proof.Machine.execFfma e s
  | .fmin e => Sys2Proof.Machine.execFmin e s
  | .fmax e => Sys2Proof.Machine.execFmax e s
  | .fcmpEq e => Sys2Proof.Machine.execFcmpEq e s
  | .fcmpNe e => Sys2Proof.Machine.execFcmpNe e s
  | .fcmpLt e => Sys2Proof.Machine.execFcmpLt e s
  | .fcmpLe e => Sys2Proof.Machine.execFcmpLe e s
  | .fcmpGt e => Sys2Proof.Machine.execFcmpGt e s
  | .fcmpGe e => Sys2Proof.Machine.execFcmpGe e s
  | .fcmpUn e => Sys2Proof.Machine.execFcmpUn e s
  | .fcmpOr e => Sys2Proof.Machine.execFcmpOr e s
  | .frcp e => Sys2Proof.Machine.execFrcp e s
  | .frsq e => Sys2Proof.Machine.execFrsq e s
  | .fsqrt e => Sys2Proof.Machine.execFsqrt e s
  | .fdiv e => Sys2Proof.Machine.execFdiv e s
  | .fexp2 e => Sys2Proof.Machine.execFexp2 e s
  | .flog2 e => Sys2Proof.Machine.execFlog2 e s
  | .fsin e => Sys2Proof.Machine.execFsin e s
  | .fcos e => Sys2Proof.Machine.execFcos e s
  | .ftanh e => Sys2Proof.Machine.execFtanh e s
  | .frnd e => Sys2Proof.Machine.execFrnd e s
  | .fcvt e => Sys2Proof.Machine.execFcvt e s
  | .fcvti e => Sys2Proof.Machine.execFcvti e s
  | .icvtf e => Sys2Proof.Machine.execIcvtf e s
  | .fclass e => Sys2Proof.Machine.execFclass e s
  | .fscale e => Sys2Proof.Machine.execFscale e s
  | .fdot2 e => Sys2Proof.Machine.execFdot2 e s
  | .fpack e => Sys2Proof.Machine.execFpack e s
  | .nxenc e => Sys2Proof.Machine.execNxenc e s
  | .nxdec e => Sys2Proof.Machine.execNxdec e s
  | .qswz e => Sys2Proof.Machine.execQswz e s
  | .qbc e => Sys2Proof.Machine.execQbc e s
  | .lshf e => Sys2Proof.Machine.execLshf e s
  | .lrot e => Sys2Proof.Machine.execLrot e s
  | .lbc e => Sys2Proof.Machine.execLbc e s
  | .lredAdd e => Sys2Proof.Machine.execLredAdd e s
  | .lredMin e => Sys2Proof.Machine.execLredMin e s
  | .lredMax e => Sys2Proof.Machine.execLredMax e s
  | .lredAnd e => Sys2Proof.Machine.execLredAnd e s
  | .lredOr e => Sys2Proof.Machine.execLredOr e s
  | .lredXor e => Sys2Proof.Machine.execLredXor e s
  | .lredFadd e => Sys2Proof.Machine.execLredFadd e s
  | .lredFmin e => Sys2Proof.Machine.execLredFmin e s
  | .lredFmax e => Sys2Proof.Machine.execLredFmax e s
  | .lscanAdd e => Sys2Proof.Machine.execLscanAdd e s
  | .lscanMin e => Sys2Proof.Machine.execLscanMin e s
  | .lscanMax e => Sys2Proof.Machine.execLscanMax e s
  | .lscanAnd e => Sys2Proof.Machine.execLscanAnd e s
  | .lscanOr e => Sys2Proof.Machine.execLscanOr e s
  | .lscanXor e => Sys2Proof.Machine.execLscanXor e s
  | .lscanFadd e => Sys2Proof.Machine.execLscanFadd e s
  | .lscanFmin e => Sys2Proof.Machine.execLscanFmin e s
  | .lscanFmax e => Sys2Proof.Machine.execLscanFmax e s
  | .lmatch e => Sys2Proof.Machine.execLmatch e s
  | .lfirst e => Sys2Proof.Machine.execLfirst e s
  | .ldv e => Sys2Proof.Machine.execLdv e s
  | .stv e => Sys2Proof.Machine.execStv e s
  | .ldvAcq e => Sys2Proof.Machine.execLdvAcq e s
  | .stvRel e => Sys2Proof.Machine.execStvRel e s
  | .lds e => Sys2Proof.Machine.execLds e s
  | .sts e => Sys2Proof.Machine.execSts e s
  | .ldb e => Sys2Proof.Machine.execLdb e s
  | .stb e => Sys2Proof.Machine.execStb e s
  | .stnt e => Sys2Proof.Machine.execStnt e s
  | .atomvAdd e => Sys2Proof.Machine.execAtomvAdd e s
  | .atomvMin e => Sys2Proof.Machine.execAtomvMin e s
  | .atomvMax e => Sys2Proof.Machine.execAtomvMax e s
  | .atomvAnd e => Sys2Proof.Machine.execAtomvAnd e s
  | .atomvOr e => Sys2Proof.Machine.execAtomvOr e s
  | .atomvXor e => Sys2Proof.Machine.execAtomvXor e s
  | .atomvXchg e => Sys2Proof.Machine.execAtomvXchg e s
  | .atomvCas e => Sys2Proof.Machine.execAtomvCas e s
  | .atomvFadd e => Sys2Proof.Machine.execAtomvFadd e s
  | .atomsAdd e => Sys2Proof.Machine.execAtomsAdd e s
  | .atomsMin e => Sys2Proof.Machine.execAtomsMin e s
  | .atomsMax e => Sys2Proof.Machine.execAtomsMax e s
  | .atomsAnd e => Sys2Proof.Machine.execAtomsAnd e s
  | .atomsOr e => Sys2Proof.Machine.execAtomsOr e s
  | .atomsXor e => Sys2Proof.Machine.execAtomsXor e s
  | .atomsXchg e => Sys2Proof.Machine.execAtomsXchg e s
  | .atomsCas e => Sys2Proof.Machine.execAtomsCas e s
  | .atomsFadd e => Sys2Proof.Machine.execAtomsFadd e s
  | .fenceGrp e => Sys2Proof.Machine.execFenceGrp e s
  | .fenceBlk e => Sys2Proof.Machine.execFenceBlk e s
  | .fenceCls e => Sys2Proof.Machine.execFenceCls e s
  | .fenceTile e => Sys2Proof.Machine.execFenceTile e s
  | .fenceDev e => Sys2Proof.Machine.execFenceDev e s
  | .fenceSys e => Sys2Proof.Machine.execFenceSys e s
  | .stcq e => Sys2Proof.Machine.execStcq e s
  | .pfch e => Sys2Proof.Machine.execPfch e s
  | .cpy e => Sys2Proof.Machine.execCpy e s
  | .cpyBar e => Sys2Proof.Machine.execCpyBar e s
  | .cpyt e => Sys2Proof.Machine.execCpyt e s
  | .cpytBar e => Sys2Proof.Machine.execCpytBar e s
  | .cpys e => Sys2Proof.Machine.execCpys e s
  | .cbat e => Sys2Proof.Machine.execCbat e s
  | .cwait e => Sys2Proof.Machine.execCwait e s
  | .ctest e => Sys2Proof.Machine.execCtest e s
  | .bari e => Sys2Proof.Machine.execBari e s
  | .barx e => Sys2Proof.Machine.execBarx e s
  | .bara e => Sys2Proof.Machine.execBara e s
  | .baraX e => Sys2Proof.Machine.execBaraX e s
  | .barw e => Sys2Proof.Machine.execBarw e s
  | .barwT e => Sys2Proof.Machine.execBarwT e s
  | .bart e => Sys2Proof.Machine.execBart e s
  | .bsync e => Sys2Proof.Machine.execBsync e s
  | .clsync e => Sys2Proof.Machine.execClsync e s
  | .colr e => Sys2Proof.Machine.execColr e s
  | .mzero e => Sys2Proof.Machine.execMzero e s
  | .mma e => Sys2Proof.Machine.execMma e s
  | .mmaNx4I8F64 e => Sys2Proof.Machine.execMmaNx4I8F64 e s
  | .mld e => Sys2Proof.Machine.execMld e s
  | .mst e => Sys2Proof.Machine.execMst e s
  | .mrd e => Sys2Proof.Machine.execMrd e s
  | .mwr e => Sys2Proof.Machine.execMwr e s
  | .mscl e => Sys2Proof.Machine.execMscl e s
  | .mdesc e => Sys2Proof.Machine.execMdesc e s
  | .plins e => Sys2Proof.Machine.execPlins e s
  | .pltake e => Sys2Proof.Machine.execPltake e s
  | .plpeek e => Sys2Proof.Machine.execPlpeek e s
  | .plcnt e => Sys2Proof.Machine.execPlcnt e s
  | .fork e => Sys2Proof.Machine.execFork e s
  | .join e => Sys2Proof.Machine.execJoin e s
  | .jinit e => Sys2Proof.Machine.execJinit e s
  | .rdsr e => Sys2Proof.Machine.execRdsr e s
  | .wrsr e => Sys2Proof.Machine.execWrsr e s
  | .svc e => Sys2Proof.Machine.execSvc e s
  | .trap e => Sys2Proof.Machine.execTrap e s
  | .bkpt e => Sys2Proof.Machine.execBkpt e s
  | .rft e => Sys2Proof.Machine.execRft e s
  | .rftSkip e => Sys2Proof.Machine.execRftSkip e s
  | .locq e => Sys2Proof.Machine.execLocq e s
  | .lwake e => Sys2Proof.Machine.execLwake e s
  | .clkrd e => Sys2Proof.Machine.execClkrd e s
  | .perfrd e => Sys2Proof.Machine.execPerfrd e s
  | .illegalInstruction w => Sys2Proof.Machine.execIllegalInstruction w s
  | .registerWrite off bytes value => Sys2Proof.Machine.execRegisterWrite off bytes value s
  | .wqDoorbell q tail => Sys2Proof.Machine.execWqDoorbell q tail s
  | .scrubDone => Sys2Proof.Machine.execScrubDone s
  | .hostW pa bytes => Sys2Proof.Machine.execHostW pa bytes s
  | .arithTrap exc lanes => Sys2Proof.Machine.execArithTrap exc lanes s
  | .yieldPeriodEnd gid ent => Sys2Proof.Machine.execYieldPeriodEnd gid ent s
  | .fragmentStarvePromote gid ent => Sys2Proof.Machine.execFragmentStarvePromote gid ent s
  | .read id => Sys2Proof.Machine.execRead id s
  | .riseC id => Sys2Proof.Machine.execRiseC id s
  | .riseT id => Sys2Proof.Machine.execRiseT id s
  | .writeback tile line => Sys2Proof.Machine.execWriteback tile line s
  | .drainNt id => Sys2Proof.Machine.execDrainNt id s
  | .fillL1 core line => Sys2Proof.Machine.execFillL1 core line s
  | .fillG tile line => Sys2Proof.Machine.execFillG tile line s
  | .drop inL1 place line => Sys2Proof.Machine.execDrop inL1 place line s
  | .atomic id => Sys2Proof.Machine.execAtomic id s
  | .eRead eng n => Sys2Proof.Machine.execERead eng n s
  | .eWrite eng n => Sys2Proof.Machine.execEWrite eng n s
  | .engineComplete eng => Sys2Proof.Machine.execEngineComplete eng s
  | .collTimeout eng => Sys2Proof.Machine.execCollTimeout eng s
  | .deviceLinkFail eng => Sys2Proof.Machine.execDeviceLinkFail eng s
  | .hostR pa n => Sys2Proof.Machine.execHostR pa n s
  | .launch q => Sys2Proof.Machine.execLaunch q s
  | .resume q => Sys2Proof.Machine.execResume q s
  | .edge q => Sys2Proof.Machine.execEdge q s
  | .signal q => Sys2Proof.Machine.execSignal q s
  | .dutyReply q => Sys2Proof.Machine.execDutyReply q s
  | .wait q => Sys2Proof.Machine.execWait q s
  | .waitSatisfied q => Sys2Proof.Machine.execWaitSatisfied q s
  | .mark q => Sys2Proof.Machine.execMark q s
  | .launchAdmit lid => Sys2Proof.Machine.execLaunchAdmit lid s
  | .blockPlace core => Sys2Proof.Machine.execBlockPlace core s
  | .dequeSteal thief => Sys2Proof.Machine.execDequeSteal thief s
  | .blockEnded bid => Sys2Proof.Machine.execBlockEnded bid s
  | .launchEnd lid => Sys2Proof.Machine.execLaunchEnd lid s
  | .preempt ctx core => Sys2Proof.Machine.execPreempt ctx core s
  | .blockImageWrite bid => Sys2Proof.Machine.execBlockImageWrite bid s
  | .slotCrcMismatch core half second => Sys2Proof.Machine.execSlotCrcMismatch core half second s
  | .sageMismatch => Sys2Proof.Machine.execSageMismatch s
  | .sageRestart => Sys2Proof.Machine.execSageRestart s
  | .columnTempChange col temp10 => Sys2Proof.Machine.execColumnTempChange col temp10 s
  | .thmDwellExpire col => Sys2Proof.Machine.execThmDwellExpire col s
  | .budgetEpoch => Sys2Proof.Machine.execBudgetEpoch s
  | .linkNarrow link => Sys2Proof.Machine.execLinkNarrow link s
  | .linkSleep link => Sys2Proof.Machine.execLinkSleep link s
  | .linkFull link => Sys2Proof.Machine.execLinkFull link s
  | .poolRound pool moves => Sys2Proof.Machine.execPoolRound pool moves s
  | .poolNoticeAck pool => Sys2Proof.Machine.execPoolNoticeAck pool s
  | .poolTakeForward pool => Sys2Proof.Machine.execPoolTakeForward pool s
  | .tileCheckpoint tile => Sys2Proof.Machine.execTileCheckpoint tile s
  | .tileFault tile => Sys2Proof.Machine.execTileFault tile s
  | .tileResetDone tile => Sys2Proof.Machine.execTileResetDone tile s
  | .tileRestoreDone tile => Sys2Proof.Machine.execTileRestoreDone tile s
  | .tileReplayDone tile => Sys2Proof.Machine.execTileReplayDone tile s
  | .memUncorrectable line => Sys2Proof.Machine.execMemUncorrectable line s
  | .railPhaseFail rail => Sys2Proof.Machine.execRailPhaseFail rail s
  | .operatingPointSet mhz => Sys2Proof.Machine.execOperatingPointSet mhz s
  | .cluReq clu => Sys2Proof.Machine.execCluReq clu s
  | .cluWake clu => Sys2Proof.Machine.execCluWake clu s
  | .cluDrainDone clu => Sys2Proof.Machine.execCluDrainDone clu s
  | .cluSaveDone clu => Sys2Proof.Machine.execCluSaveDone clu s
  | .cluWakeDone clu => Sys2Proof.Machine.execCluWakeDone clu s
  | .coldReset => Sys2Proof.Machine.execColdReset s
  | .ownRel => Sys2Proof.Machine.execOwnRel s
  | .ownEnrol => Sys2Proof.Machine.execOwnEnrol s
  | .ctxEnable ctx => Sys2Proof.Machine.execCtxEnable ctx s
  | .ctxDisable ctx => Sys2Proof.Machine.execCtxDisable ctx s
  | .ctxDisableDone ctx => Sys2Proof.Machine.execCtxDisableDone ctx s
  | .ctxReload ctx => Sys2Proof.Machine.execCtxReload ctx s
  | .xlInv ctx => Sys2Proof.Machine.execXlInv ctx s
  | .xlInvDone => Sys2Proof.Machine.execXlInvDone s
  | .decantStart ctx => Sys2Proof.Machine.execDecantStart ctx s
  | .decantAutoStart ctx va dst => Sys2Proof.Machine.execDecantAutoStart ctx va dst s
  | .decantRound id => Sys2Proof.Machine.execDecantRound id s
  | .decantFreezeDone id => Sys2Proof.Machine.execDecantFreezeDone id s
  | .evHeadWrite head => Sys2Proof.Machine.execEvHeadWrite head s
  | .fwEnable n fmt => Sys2Proof.Machine.execFwEnable n fmt s
  | .fwDisable n => Sys2Proof.Machine.execFwDisable n s
  | .bootLoad kind => Sys2Proof.Machine.execBootLoad kind s
  | .bootLoadDone => Sys2Proof.Machine.execBootLoadDone s
  | .attReport => Sys2Proof.Machine.execAttReport s
  | .collLoad set => Sys2Proof.Machine.execCollLoad set s
  | .unknownPacketType q => Sys2Proof.Machine.execUnknownPacketType q s

end Sys2Proof.Machine
end

