-- ==== Sys2Proof/Machine/Load.lean ====
section
/-! DEFINITION. A small launch written straight into the state, with its code in the tile scratchpad: how a program comes to run when
a host has loaded and launched it (assumption 4). -/

namespace Sys2Proof.Machine

/-- The raw entry of a code handle of space tile, base 0, home tile 0, 65,536 bytes (R168, R169). -/
def loadedHandle : BitVec 256 := (BitVec.ofNat 256 4 <<< 253) ||| (BitVec.ofNat 256 1 <<< 250) |||
  (BitVec.ofNat 256 1 <<< 239) ||| (BitVec.ofNat 256 65536 <<< 111)

/-- A descriptor of 96 lanes and 64 vector registers, without a trap handler, whose entry is the header at offset 0 of handle 3. -/
def loadedDesc : Desc := ⟨0, 0, 0, 0, 0, 16, false, 0, 0, 64, 96, 0, codeAddr 3 0⟩

/-- A running launch of one block in context 0. -/
def loadedLaunch : Launch :=
  ⟨0, 0, 0, 0, 1, 1, 1, 0, 0, 0, loadedDesc, [loadedHandle], .admitted, true, 0, 1, 0, none, 0, [], [], [], [], [], 0, 0⟩

/-- Its block, on core 0. -/
def loadedBlock : Block := ⟨0, 0, 0, 0, 0, 96, [], 0, .running, 0, 0, none, 0, 0, 0, false, []⟩

/-- Its group: one fragment of 96 lanes past the header at offset 0. -/
def loadedGroup (now : Nat) : Group :=
  (startGroup loadedDesc (codeAddr 3 0) none now 0 (0, 0)).setEntry 0
    (.frag (newFrag 3 8 0 (BitVec.allOnes 96) none now))

/-- A block header of 16 units with no fusion point (R44, R88). -/
def loadedHeader : List Word := [(0x1FE#9 ++ 16#10 ++ 0#13 : BitVec 32), 0]

/-- The state with that launch resident in an owned module, `units` after the header, and the fragment to issue next. -/
def State.withUnits (s : State) (units : List Word) : State :=
  { s with
    agenda := [.issue ⟨0, 0⟩]
    regs := { s.regs with own := .owned }
    ctxs := Map.put s.ctxs 0 { Ctx.reset with en := true, tsLen := 1 }
    launches := Map.put s.launches 0 loadedLaunch
    blocks := Map.put s.blocks 0 loadedBlock
    groups := Map.put s.groups 0 (loadedGroup s.seq)
    nextId := max s.nextId 1
    tspad := Mem.writeAll s.tspad (bytesFrom 0 ((loadedHeader ++ units).flatMap unitBytes)) }

end Sys2Proof.Machine
end

