-- ==== Sys2Proof/Machine/Step.lean ====
section
/-! DEFINITION. One step of the module, and the state in which it runs a given instruction word next. -/

namespace Sys2Proof.Machine

/-- One step (assumption 1): the head of the agenda, an event that is due, or an instruction that a sector issues (R302). -/
def step (s : State) : Host.Outcome State Fault Refusal := s.stepWith exec

/-- The state with the instruction of an opcode-table row's bits where the next step fetches (assumption 4). -/
def State.withFetchWord (s : State) (nbits w : Nat) : State := s.withUnits (tableUnits nbits w)

end Sys2Proof.Machine
end

