-- ==== Sys2Proof/Safety.lean ====
section
/-! DEFINITION. What counts as a safe state and a safe step, and what an instruction leaves as it was: the terms of the
statements. -/

namespace Sys2Proof.Machine

/-! Safe states and steps -/

/-- The three memories are in canonical form. -/
abbrev State.memOk (s : State) : Prop := s.mem.wf ∧ s.spad.wf ∧ s.tspad.wf

/-- A step answers a next state: the module neither stops on a fault nor refuses. -/
def State.goesOn (s : State) : Prop := ∃ t, step s = .next t

/-! What an instruction leaves -/

/-- Both absent, or both present and related. -/
def OptRel {α : Type} (r : α → α → Prop) : Option α → Option α → Prop
  | none, none => True
  | some a, some b => r a b
  | _, _ => False

/-- Two groups differ only in what moving on changes: split table, deferral records, trap state and the place of the last EXIT (R234, R246,
R247, R370). -/
def Group.sameData (g h : Group) : Prop := h = { g with table := h.table, defer := h.defer, trap := h.trap, exitAt := h.exitAt }

/-- Two blocks differ only in how far they have come (R251), and in what faults have left of their instructions (R369). -/
def Block.sameData (a b : Block) : Prop := b = { a with st := b.st, cause := b.cause, detail := b.detail, late := b.late }

/-- `t` differs from `s` only in where its fragments stand: in no register, mask, flag, tile, batch or barrier record of any group, in
no byte of any memory, and in nothing else outside groups and blocks. -/
def State.moved (s t : State) : Prop :=
  t = { s with groups := t.groups, blocks := t.blocks } ∧
    (∀ n, OptRel Group.sameData (Map.find? s.groups n) (Map.find? t.groups n)) ∧
    (∀ n, OptRel Block.sameData (Map.find? s.blocks n) (Map.find? t.blocks n))

/-- `t` is `s` with a group's data set to `g`, but for where fragments stand. -/
def State.wrote (s t : State) (gid : Nat) (g : Group) : Prop := (s.setGroup gid g).moved t

/-- `h` is `g` after an instruction that wrote no register: ICNT (R63) and the performance counters (R367) alone differ. -/
def Group.counted (g h : Group) : Prop := h = { g with icnt := h.icnt, perf := h.perf }

/-- As `counted`, with scalar registers written too. -/
def Group.onlyScalars (g h : Group) : Prop := h = { g with s := h.s, icnt := h.icnt, perf := h.perf }

/-- With mask registers written. -/
def Group.onlyMasks (g h : Group) : Prop := h = { g with k := h.k, icnt := h.icnt, perf := h.perf }

/-- With vector registers written. -/
def Group.onlyVectors (g h : Group) : Prop := h = { g with v := h.v, icnt := h.icnt, perf := h.perf }

/-- With accumulator tiles written. -/
def Group.onlyTiles (g h : Group) : Prop := h = { g with tiles := h.tiles, icnt := h.icnt, perf := h.perf }

/-- ICNT rises by 1 in the given lanes and in no other (R63). -/
def Group.ticked (g h : Group) (m : Mask) : Prop :=
  ∀ L, L < 96 → laneGet h.icnt L = laneGet g.icnt L + if bitOf m L then 1 else 0

/-- The instruction of `c` raises no illegal-instruction reason (R93, R94): it issues and has its effect. -/
abbrev State.legal (s : State) (c : Iss) (i : Instr) : Prop := s.issuer? = some c ∧ s.reason c i none = none

end Sys2Proof.Machine
end

