-- ==== Sys2Proof/WellFormed.lean ====
section
/-! DEFINITION. Well-formed instructions: those whose word is legal (R80 to R94) and that carry a literal unit exactly when
their fields call for one (R78, R83). -/

namespace Sys2Proof

/-- Whether an instruction's literal unit is there exactly when R78 places one. -/
def literalFits (i : Instr) : Bool :=
  match opcodeOf i with
  | some (op, e) => e.lit.isSome == takesLiteral op e
  | none => true

/-- A legal word (R93, R94) with its literal. A step or event is well-formed. -/
def wellFormed (i : Instr) : Bool := (staticReason i).isNone && literalFits i

abbrev WellFormed (i : Instr) : Prop := wellFormed i = true

end Sys2Proof
end

