-- ==== Sys2Proof/Certificates/Slice0/Obligations.lean ====
section
/-! DEFINITION. The statements for the provers. Each is a rule of the spec, or what rests on several, as a property of `step` and `exec`
over all states and operands. The tables in front give R99 to R118's results a second time, in bit vectors of the element's width,
apart from the machine's own arithmetic on integers. -/

open Sys2Proof Sys2Proof.Machine

namespace Sys2Proof.Machine

/-! ## Words of the statements -/

/-- The low and high word of a pair (R82). -/
def lo32 (x : DWord) : Word := x.extractLsb' 0 32
def hi32 (x : DWord) : Word := x.extractLsb' 32 32

/-- An operation on one element of w bits: unsigned or not, then a, b and d. -/
abbrev ElemOp := (w : Nat) → Bool → BitVec w → BitVec w → BitVec w → BitVec w

/-- A word of a variant from its elements (R59, R92): .i32, .n32, .i64, .i16x2; `f` gets the width, whether unsigned, and the
element's number. -/
def fromElems (v : BitVec 2) (f : (w : Nat) → Bool → Nat → BitVec w) : DWord :=
  match v.toNat with
  | 0 => (f 32 false 0).zeroExtend 64
  | 1 => (f 32 true 0).zeroExtend 64
  | 2 => f 64 false 0
  | _ => (f 16 false 1 ++ f 16 false 0 : BitVec 32).zeroExtend 64

/-- Element i of an operand. -/
def elemAt (w : Nat) (x : DWord) (i : Nat) : BitVec w := x.extractLsb' (16 * i) w

/-- An operation on every element of operands of a variant. -/
def elementwise (v : BitVec 2) (f : ElemOp) (a b d : DWord) : DWord :=
  fromElems v (fun w uns i => f w uns (elemAt w a i) (elemAt w b i) (elemAt w d i))

/-- The 32-bit field of VBFE and VBFI (R103): position b mod 32, width clipped at bit 31. -/
def bfePos {w : Nat} (b : BitVec w) : Nat := b.toNat % 32
def bfeWidth {w : Nat} (b : BitVec w) : Nat := min (b.toNat / 256 % 64) (32 - bfePos b)

/-- Products of four bytes, signed or not, wrapping (R108). -/
def dot4 (w : Nat) (uns : Bool) (a b d : BitVec w) : BitVec w :=
  let ext := fun (x : BitVec 8) => if uns then x.zeroExtend w else x.signExtend w
  let p := fun (i : Nat) => ext (a.extractLsb' (8 * i) 8) * ext (b.extractLsb' (8 * i) 8)
  d + p 0 + p 1 + p 2 + p 3

/-- The wrapping result of each integer operation on one element (R101, R103, R104, R108). -/
def elemMulh : ElemOp := fun w uns a b _ =>
  if uns then ((a.zeroExtend (2 * w) * b.zeroExtend (2 * w)) >>> w).truncate w
  else ((a.signExtend (2 * w) * b.signExtend (2 * w)) >>> w).truncate w
def elemDiv : ElemOp := fun w uns a b _ =>
  if b = 0 then BitVec.allOnes w else if uns then a / b else a.sdiv b
def elemRem : ElemOp := fun _ uns a b _ => if b = 0 then a else if uns then a % b else a.srem b
def elemMin : ElemOp := fun _ uns a b _ => if (if uns then a.ult b else a.slt b) then a else b
def elemMax : ElemOp := fun _ uns a b _ => if (if uns then a.ult b else a.slt b) then b else a
def elemBfe : ElemOp := fun w uns a b _ =>
  let x := (a >>> bfePos b) <<< (w - bfeWidth b)
  if bfeWidth b = 0 then 0 else if uns then x >>> (w - bfeWidth b) else x.sshiftRight (w - bfeWidth b)
def elemBfi : ElemOp := fun w _ a b d =>
  let m := (BitVec.allOnes w >>> (w - bfeWidth b)) <<< bfePos b
  (d &&& ~~~m) ||| ((a <<< bfePos b) &&& m)

/-- The six conditions on elements (R106). -/
def elemCond (cc : Cond) (w : Nat) (uns : Bool) (a b : BitVec w) : Bool :=
  match cc with
  | .eq => a == b
  | .ne => a != b
  | .lt => if uns then a.ult b else a.slt b
  | .le => if uns then a.ule b else a.sle b
  | .gt => if uns then b.ult a else b.slt a
  | .ge => if uns then b.ule a else b.sle a

/-- A comparison of a variant: every element satisfies it (R106). -/
def elemAll (v : BitVec 2) (cc : Cond) (a b : DWord) : Bool :=
  match v.toNat with
  | 0 => elemCond cc 32 false (lo32 a) (lo32 b)
  | 1 => elemCond cc 32 true (lo32 a) (lo32 b)
  | 2 => elemCond cc 64 false a b
  | _ => elemCond cc 16 false (a.extractLsb' 0 16) (b.extractLsb' 0 16) &&
      elemCond cc 16 false (a.extractLsb' 16 16) (b.extractLsb' 16 16)

/-- The scalar instructions of R109 and R110 that compute element by element; `true` where b is a control word, read as one
32-bit word (R102). -/
def scalarOp : Instr → Option (Enc × Bool × ElemOp)
  | .smov e => some (e, false, fun _ _ a _ _ => a)
  | .sadd e => some (e, false, fun _ _ a b _ => a + b)
  | .ssub e => some (e, false, fun _ _ a b _ => a - b)
  | .smul e => some (e, false, fun _ _ a b _ => a * b)
  | .smulh e => some (e, false, elemMulh)
  | .sdiv e => some (e, false, elemDiv)
  | .srem e => some (e, false, elemRem)
  | .sand e => some (e, false, fun _ _ a b _ => a &&& b)
  | .sor e => some (e, false, fun _ _ a b _ => a ||| b)
  | .sxor e => some (e, false, fun _ _ a b _ => a ^^^ b)
  | .snot e => some (e, false, fun _ _ a _ _ => ~~~a)
  | .sshl e => some (e, true, fun w _ a b _ => a <<< (b.toNat % w))
  | .sshr e => some (e, true, fun w _ a b _ => a >>> (b.toNat % w))
  | .ssar e => some (e, true, fun w _ a b _ => a.sshiftRight (b.toNat % w))
  | .smin e => some (e, false, elemMin)
  | .smax e => some (e, false, elemMax)
  | .sclz e => some (e, false, fun _ _ a _ _ => a.clz)
  | .spopc e => some (e, false, fun _ _ a _ _ => a.cpop)
  | .sbfe e => some (e, true, elemBfe)
  | .sbfi e => some (e, true, elemBfi)
  | _ => none

/-- The scalar comparisons (R109). -/
def scalarCmp : Instr → Option (Enc × Cond)
  | .scmpEq e => some (e, .eq)
  | .scmpNe e => some (e, .ne)
  | .scmpLt e => some (e, .lt)
  | .scmpLe e => some (e, .le)
  | .scmpGt e => some (e, .gt)
  | .scmpGe e => some (e, .ge)
  | _ => none

/-- The vector integer instructions of R101 whose wrapping result is element by element. -/
def vectorOp : Instr → Option (Enc × Bool × ElemOp)
  | .vmov e => some (e, false, fun _ _ a _ _ => a)
  | .vadd e => some (e, false, fun _ _ a b _ => a + b)
  | .vsub e => some (e, false, fun _ _ a b _ => a - b)
  | .vmul e => some (e, false, fun _ _ a b _ => a * b)
  | .vmulh e => some (e, false, elemMulh)
  | .vmad e => some (e, false, fun _ _ a b d => a * b + d)
  | .vdiv e => some (e, false, elemDiv)
  | .vrem e => some (e, false, elemRem)
  | .vand e => some (e, false, fun _ _ a b _ => a &&& b)
  | .vor e => some (e, false, fun _ _ a b _ => a ||| b)
  | .vxor e => some (e, false, fun _ _ a b _ => a ^^^ b)
  | .vnot e => some (e, false, fun _ _ a _ _ => ~~~a)
  | .vshl e => some (e, true, fun w _ a b _ => a <<< (b.toNat % w))
  | .vshr e => some (e, true, fun w _ a b _ => a >>> (b.toNat % w))
  | .vsar e => some (e, true, fun w _ a b _ => a.sshiftRight (b.toNat % w))
  | .vmin e => some (e, false, elemMin)
  | .vmax e => some (e, false, elemMax)
  | .vabs e => some (e, false, fun _ _ a _ _ => a.abs)
  | .vneg e => some (e, false, fun _ _ a _ _ => -a)
  | .vclz e => some (e, false, fun _ _ a _ _ => a.clz)
  | .vpopc e => some (e, false, fun _ _ a _ _ => a.cpop)
  | .vbrev e => some (e, false, fun _ _ a _ _ => a.reverse)
  | .vbfe e => some (e, true, elemBfe)
  | .vbfi e => some (e, true, elemBfi)
  | .vdot4 e => some (e, false, dot4)
  | _ => none

/-- A number cut to the range of w bits, signed or not (R99). -/
def clampTo (w : Nat) (uns : Bool) (x : Int) : BitVec w :=
  if uns then BitVec.ofInt w (max 0 (min x (2 ^ w - 1))) else BitVec.ofInt w (max (-2 ^ (w - 1)) (min x (2 ^ (w - 1) - 1)))

/-- An element as a number (R99). -/
def numOf {w : Nat} (uns : Bool) (a : BitVec w) : Int := if uns then (a.toNat : Int) else a.toInt

/-- A byte of a word as a number (R108). -/
def byteNum {w : Nat} (uns : Bool) (a : BitVec w) (i : Nat) : Int := numOf uns (a.extractLsb' (8 * i) 8)

/-- The instructions that saturate (R99, R102), with the exact result of one element. A division by zero keeps its all-ones result
under SAT (R104). -/
def satOp : Instr → Option (Enc × Bool × ElemOp)
  | .vadd e => some (e, false, fun w uns a b _ => clampTo w uns (numOf uns a + numOf uns b))
  | .vsub e => some (e, false, fun w uns a b _ => clampTo w uns (numOf uns a - numOf uns b))
  | .vmul e => some (e, false, fun w uns a b _ => clampTo w uns (numOf uns a * numOf uns b))
  | .vmad e => some (e, false, fun w uns a b d => clampTo w uns (numOf uns a * numOf uns b + numOf uns d))
  | .vdiv e => some (e, false, fun w uns a b _ => if b = 0 then BitVec.allOnes w else clampTo w uns ((numOf uns a).tdiv (numOf uns b)))
  | .vshl e => some (e, true, fun w uns a b _ => clampTo w uns (numOf uns a * 2 ^ (b.toNat % w)))
  | .vabs e => some (e, false, fun w uns a _ _ => clampTo w uns |numOf uns a|)
  | .vneg e => some (e, false, fun w uns a _ _ => clampTo w uns (-numOf uns a))
  | .vdot4 e => some (e, false, fun w uns a b d => clampTo w uns (numOf uns d +
      (byteNum uns a 0 * byteNum uns b 0 + byteNum uns a 1 * byteNum uns b 1 + byteNum uns a 2 * byteNum uns b 2 +
        byteNum uns a 3 * byteNum uns b 3)))
  | _ => none

/-- The type b is read in: a control word is always one 32-bit word (R102). -/
def bTypeOf (v : BitVec 2) (ctl : Bool) : Ty := if ctl then .n32 else intTy v

/-- The words a scalar destination receives (R80, R82): the register named, and the next for a pair. -/
def scalarDest (dst : Code) (wide : Bool) (r : DWord) (n : Nat) (old : Word) : Word :=
  if dst.toNat = 0x40 + n then lo32 r else if wide ∧ dst.toNat + 1 = 0x40 + n then hi32 r else old

/-- What a vector destination's register r holds in lane L (R86, R102): the result in Active lanes, zero in Owned lanes that are not
Active under the zero policy, else what it held. -/
def vectorDest (e : Enc) (wide : Bool) (active own : Mask) (res : Nat → DWord) (r L : Nat) (old : Word) : Word :=
  if e.dst.toNat < 0x40 ∧ (e.dst.toNat = r ∨ (wide ∧ e.dst.toNat + 1 = r)) then
    if bitOf active L then (if e.dst.toNat = r then lo32 (res L) else hi32 (res L))
    else if e.p.zero ∧ bitOf own L then 0 else old
  else old

/-- What a mask destination's register n holds (R86, R106, R112). -/
def maskDestBit (dst : Code) (wr : Mask) (bit : Bool) (n L : Nat) (old : Bool) : Bool :=
  if dst.toNat = n ∧ bitOf wr L then bit else old

/-- A fragment that has gone past its instruction: a waiting one is ready again, and it stands at the next unit, or, between two words of
an EXLW, at the next of them (R252, R268). -/
def Frag.onward (f : Frag) (units : Nat) : Frag :=
  { f with st := if f.st = .waiting then .ready else f.st
           pc := if f.latch = [] then f.pc + 4 * units else f.pc
           latchAt := if f.latch = [] then f.latchAt else f.latchAt + 1 }

/-- The next instruction of the fragment stands in the same block or EXLW (R88, R268). -/
def State.staysIn (s : State) (c : Iss) (units : Nat) : Prop :=
  (c.f.latch = [] ∨ c.f.latchAt + 1 < c.f.latch.length) ∧ ∀ n, s.blockEnd c c.f = some n → (c.f.onward units).pc < n

/-- Lanes that leave a fragment at an entry arrive at its innermost fusion point: its top deferral record, the fusion record it carries, or
the block's end (R245, R248, R249). -/
def Group.without (g : Group) (ent : Nat) (fe : Option Nat) (gone : Mask) (now : Nat) : Group :=
  match g.topDefer ent, fe with
  | some d, _ => g.setTop ent (some { d with arr := d.arr ||| gone })
  | none, none => { g.gone gone with exitAt := now }
  | none, some r => match g.entry r with
    | .fusion x => g.setEntry r (.fusion { x with arr := x.arr ||| gone })
    | _ => g

/-- `t` is what an instruction leaves that writes a group's data as `h` and after which the lanes `stay` picks remain in its fragment (R245):
with all of them the fragment stands at its next instruction and nothing else has changed; the others arrive at its innermost fusion
point, and where none remains and no deferral record stands on it the fragment is gone; a block all of whose lanes have exited ends
(R251). What follows at a block's end, at a fusion point that is complete or on a deferral record is the split table's (R249). -/
def State.leaves (s t : State) (c : Iss) (h : Group) (units : Nat) (stay : Nat → Bool) : Prop :=
  let kept := maskOf (fun L => bitOf c.f.act L && stay L)
  let gone := c.f.act &&& ~~~kept
  let g := h.setEntry c.cur.ent (if gone ≠ 0 ∧ kept = 0 then .free else .frag { c.f.onward units with act := kept })
  let g' := g.without c.cur.ent c.f.fe gone s.seq
  (gone = 0 → s.staysIn c units → t = s.setGroup c.cur.gid g) ∧
    (gone ≠ 0 → g'.covered = none → (if kept = 0 then h.topDefer c.cur.ent = none else s.staysIn c units) →
      t = (s.setGroup c.cur.gid g').checkExit c.bid)

/-- `t` is what an instruction that only writes scalars leaves: s0 to s28 as `f` gives them, the fragment's lanes those that `f` leaves in
s29 to s31, which are its activity mask (R244, R245), ICNT up by one in them, one instruction counted. -/
def State.scalarsSet (s t : State) (c : Iss) (units : Nat) (f : Nat → Word) : Prop :=
  ∃ h, s.wrote t c.cur.gid h ∧ c.g.onlyScalars h ∧ c.g.ticked h c.own ∧ (∀ n, n < 29 → h.sGet n = f n) ∧
    s.leaves t c h units (fun L => (f (29 + L / 32)).getLsbD (L % 32))

/-- As `scalarsSet` for vector registers, counted in the Active lanes; no lane leaves. -/
def State.vectorsSet (s t : State) (c : Iss) (units : Nat) (m : Mask) (f : Nat → Nat → Word) : Prop :=
  ∃ h, s.wrote t c.cur.gid h ∧ c.g.onlyVectors h ∧ c.g.ticked h m ∧ (∀ r L, L < 96 → h.vGet r L = f r L) ∧
    s.leaves t c h units (fun _ => true)

/-- For mask registers k1 to k7; k0 is the activity mask (R244, R245). -/
def State.masksSet (s t : State) (c : Iss) (units : Nat) (m : Mask) (f : Nat → Nat → Bool) : Prop :=
  ∃ h, s.wrote t c.cur.gid h ∧ c.g.onlyMasks h ∧ c.g.ticked h m ∧
    (∀ n L, 1 ≤ n → L < 96 → bitOf (h.kGet n) L = f n L) ∧ s.leaves t c h units (f 0)

end Sys2Proof.Machine

/-! ## The step, decoding and memory -/

/-- Running an instruction: with a fragment next in the agenda that may issue, while none of its sector that comes before it in the first
two classes can, and whose units decode to `i`, or whose next word of an EXLW is `i`, the step is `exec i`, at the next place of the
issue order, with the fetched lines in the instruction cache (R77, R97, R268, R302). -/
def Obligations.StepRunsDecodedInstruction : Prop :=
  ∀ (s : State) (c : Iss) (cur : Cursor) (rest : List Choice) (i : Instr),
    s.agenda = .issue cur :: rest →
    let u := { s.tick with agenda := rest, cur := cur }
    let v := if c.f.st = .handler then u.modGroup cur.gid (fun g => { g with trap := { g.trap with fresh := none } }) else u
    u.issuer? = some c → u.ready c = true → u.codeFrozen c = false →
    ((c.f.latch = [] ∧ (∀ e, u.blockEnd c c.f = some e → c.f.pc < e) ∧
        ∃ r, decodeUnits (u.unitsFrom c c.f.hnd 3 c.f.pc).1 = .ok (i, r)) ∨
      ∃ w, c.f.latch[c.f.latchAt]? = some w ∧ i = laneInstr w.value w.wide) →
    c.gated (some i) = false → u.holds c i = false →
    (∀ m ∈ u.turns, ∀ x ∈ u.turns, m.cur = cur → x.cur ≠ cur → x.sector = m.sector →
      2 ≤ x.keys.getD 2 2 ∨ u.tryTurn exec x = none) →
    step s = exec i ((v.fetched c i).modFrag cur (fun f => { f with last := u.seq, starved := false }))

/-- Worked encodings of the spec decode to the instructions they stand for (R79, R83, R84, R91). -/
def Obligations.WorkedEncodingsDecode : Prop :=
  decodeUnits [0x3081427F, 1000] = .ok (.vadd ⟨none, 0, 5, 4, 0x7F, some 1000⟩, []) ∧
  decodeUnits [0xFF838010, 0x7100C16C] =
    .ok (.fmul ⟨some ⟨0, 1, 0x60, false, false, false, false, false, true, 0⟩, 0, 3, 2, 0x6C, none⟩, []) ∧
  decodeUnits [0x19B0A277] = .ok (.scmpLt ⟨none, 1, 0x42, 0x44, 0x77, none⟩, []) ∧
  decodeUnits [0x00BFFD43] = .ok (.brNz ⟨none, 1, 0x7F, 0x7A, 0x43, none⟩, []) ∧
  decodeUnits [0xB880C004] = .ok (.stv ⟨none, 0, 3, 0, 4, none⟩, []) ∧
  decodeUnits [0xD02041C4] = .ok (.cpyBar ⟨none, 1, 1, 3, 0x44, none⟩, []) ∧
  decodeUnits [0xE080A246] = .ok (.mma ⟨none, 0, 2, 0x44, 0x46, none⟩, []) ∧
  decodeUnits [0xF0810107] = .ok (.pltake ⟨none, 0, 4, 2, 7, none⟩, []) ∧
  decodeUnits [0xF8908011] = .ok (.wrsr ⟨none, 0, 0x42, 0, 0x11, none⟩, [])

/-- Decoding what the encoder writes gives the instruction back, with every operand at every value its encoding admits, and the bytes
of an instruction read as its units (R77 to R85, R91). -/
def Obligations.DecodeOfEncodeIsIdentity : Prop :=
  ∀ (i : Instr) (rest : List Word), WellFormed i → encode i ≠ [] →
    decodeUnits (encode i ++ rest) = .ok (i, rest) ∧ unitsOf (encodeBytes i) = encode i

/-- A reserved or unassigned opcode decodes to no instruction: it raises reason OPCODE where it would issue (R91, R94). -/
def Obligations.UnassignedOpcodeRaisesReasonFour : Prop :=
  ∀ (op : BitVec 9) (e : Enc) (s : State) (c : Iss), Map.find? opcodeMap op.toNat = none → op.toNat < 0x1FE →
    (∀ l, decodeBase e.pfx (baseWord op e) [l] = .ok (.illegalInstruction (.opcode op { e with lit := if takesLiteral op e then some l else none }), if takesLiteral op e then [] else [l])) ∧
    (s.issuer? = some c → exec (.illegalInstruction (.opcode op e)) s = .next (s.takeTrap c (mkTrap c.f 1 4 c.own 0)))

/-- Every step keeps the three memories in canonical form. -/
def Obligations.StepKeepsMemoryCanonical : Prop :=
  ∀ s t : State, s.memOk → step s = .next t → t.memOk

/-- They are in that form at reset, where the module is in SCRUBBING with no owner, no launch and no resident block, and the event ring's
and the arena's sizes are their reset values (R325, R327, R353). -/
def Obligations.ResetStateIsCanonicalAndScrubbing : Prop :=
  State.reset.memOk ∧ State.reset.regs.own = .scrubbing ∧ State.reset.regs.ownerKey = none ∧
    State.reset.blocks = [] ∧ State.reset.launches = [] ∧ State.reset.regs.evLog2 = 4 ∧ State.reset.regs.arena = 4

/-- Whatever state the module is in, a step answers a next state: it never stops on a fault and never refuses; and an instruction whose
place holds a fragment of a resident block of a launch always answers a next state (a property of the model, assumption 1). -/
def Obligations.EveryStepGoesOn : Prop :=
  (∀ s : State, s.goesOn) ∧
  (∀ (i : Instr) (s : State) (c : Iss), s.issuer? = some c → ∃ t, exec i s = .next t)

/-! ## Scalars -/

/-- R109: a scalar instruction computes once for the fragment, each element as its vector form does without saturation; SCMP writes 1 when
every element satisfies the condition, else 0. -/
def Obligations.ScalarIntegerResults : Prop :=
  (∀ (s : State) (c : Iss) (i : Instr) (e : Enc) (ctl : Bool) (f : ElemOp),
     scalarOp i = some (e, ctl, f) → s.legal c i →
     let ty := intTy e.var
     let r := elementwise e.var f (c.sa e e.a ty) (c.sa e e.b (bTypeOf e.var ctl)) (c.sa e e.dst ty)
     ∃ t, exec i s = .next t ∧ s.scalarsSet t c e.units (fun n => scalarDest e.dst (e.var == 2) r n (c.s n))) ∧
  (∀ (s : State) (c : Iss) (i : Instr) (e : Enc) (cc : Cond), scalarCmp i = some (e, cc) → s.legal c i →
     let ty := intTy e.var
     ∃ t, exec i s = .next t ∧ s.scalarsSet t c e.units (fun n =>
       scalarDest e.dst false (if elemAll e.var cc (c.sa e e.a ty) (c.sa e e.b ty) then 1 else 0) n (c.s n)))

/-- R110, R112, R113: SLI, SSEL, K2S and KPOP. -/
def Obligations.ScalarImmediateSelectAndMaskReads : Prop :=
  ∀ (s : State) (c : Iss) (e : Enc),
    (s.legal c (.sli e) → ∃ t, exec (.sli e) s = .next t ∧ s.scalarsSet t c e.units (fun n =>
      scalarDest e.dst (e.var == 2) (if e.var = 1 then (e.a ++ e.b).zeroExtend 64 else (e.a ++ e.b).signExtend 64) n (c.s n))) ∧
    (s.legal c (.ssel e) → ∃ t, exec (.ssel e) s = .next t ∧ s.scalarsSet t c e.units (fun n =>
      scalarDest e.dst (e.var == 2)
        (if c.sa e e.dst (intTy e.var) = 0 then c.sa e e.b (intTy e.var) else c.sa e e.a (intTy e.var)) n (c.s n))) ∧
    (s.legal c (.k2s e) → ∃ t, exec (.k2s e) s = .next t ∧ s.scalarsSet t c e.units (fun n =>
      scalarDest e.dst false (((c.k e.a.toNat).extractLsb' (if e.b = 0x60 then 0 else if e.b = 0x70 then 32 else 64) 32).zeroExtend 64)
        n (c.s n))) ∧
    (s.legal c (.kpop e) → ∃ t, exec (.kpop e) s = .next t ∧ s.scalarsSet t c e.units (fun n =>
      scalarDest e.dst false (BitVec.ofNat 64 ((List.range 96).filter (fun L =>
        bitOf (c.k e.a.toNat) L && bitOf c.own L && !bitOf c.g.helpers L)).length) n (c.s n)))

/-! ## Vector integers -/

/-- R99, R101, R102: without SAT each Active lane's element wraps; with SAT the exact result is clamped to the type's range; other lanes
keep, or under the zero policy clear, their value. -/
def Obligations.VectorIntegerResults : Prop :=
  (∀ (s : State) (c : Iss) (i : Instr) (e : Enc) (ctl : Bool) (f : ElemOp),
     vectorOp i = some (e, ctl, f) → s.legal c i → e.p.sat = false →
     let ty := intTy e.var
     let res := fun L => elementwise e.var f (c.a e ty L) (c.b' e (bTypeOf e.var ctl) L) (c.d e ty L)
     ∃ t, exec i s = .next t ∧ s.vectorsSet t c e.units (c.active e) (fun r L =>
       vectorDest e (e.var == 2) (c.active e) c.own res r L (c.g.vGet r L))) ∧
  (∀ (s : State) (c : Iss) (i : Instr) (e : Enc) (ctl : Bool) (f : ElemOp),
     satOp i = some (e, ctl, f) → s.legal c i → e.p.sat = true →
     let ty := intTy e.var
     let res := fun L => elementwise e.var f (c.a e ty L) (c.b' e (bTypeOf e.var ctl) L) (c.d e ty L)
     ∃ t, exec i s = .next t ∧ s.vectorsSet t c e.units (c.active e) (fun r L =>
       vectorDest e (e.var == 2) (c.active e) c.own res r L (c.g.vGet r L)))
/-- R105, R107, R108: VADDC, VSEL, VPACK and VUNPK. -/
def Obligations.VectorCarrySelectPackUnpack : Prop :=
  ∀ (s : State) (c : Iss) (e : Enc),
    (s.legal c (.vaddc e) → ∃ t, exec (.vaddc e) s = .next t ∧ s.vectorsSet t c e.units (c.active e) (fun r L =>
      vectorDest e true (c.active e) c.own (fun L => c.a e .n32 L + c.b' e .n32 L + (c.d e .n32 L &&& 1)) r L (c.g.vGet r L))) ∧
    (s.legal c (.vsel e) → ∃ t, exec (.vsel e) s = .next t ∧ s.vectorsSet t c e.units (c.active e) (fun r L =>
      vectorDest e (e.var == 2) (c.active e) c.own
        (fun L => if bitOf (c.k e.p.d4.toNat) L then c.a e (intTy e.var) L else c.b' e (intTy e.var) L) r L (c.g.vGet r L))) ∧
    (s.legal c (.vpack e) → ∃ t, exec (.vpack e) s = .next t ∧ s.vectorsSet t c e.units (c.active e) (fun r L =>
      let ty : Ty := if e.var = 1 then .n32 else .i32
      let el := fun (x : DWord) => if !e.p.sat then elemAt 16 x 0
        else if e.var = 1 then (if 65535 < x.toNat then BitVec.allOnes 16 else elemAt 16 x 0)
        else clampTo 16 false (lo32 x).toInt
      vectorDest e false (c.active e) c.own (fun L => (el (c.b' e ty L) ++ el (c.a e ty L) : Word).zeroExtend 64) r L
        (c.g.vGet r L))) ∧
    (s.legal c (.vunpk e) → ∃ t, exec (.vunpk e) s = .next t ∧ s.vectorsSet t c e.units (c.active e) (fun r L =>
      let ext := fun (x : BitVec 16) => if e.var = 1 then x.zeroExtend 32 else x.signExtend 32
      vectorDest e true (c.active e) c.own
        (fun L => ext (elemAt 16 (c.a e (intTy e.var) L) 1) ++ ext (elemAt 16 (c.a e (intTy e.var) L) 0)) r L (c.g.vGet r L)))

/-- The vector comparisons (R106). -/
def Sys2Proof.Machine.vectorCmp : Instr → Option (Enc × Cond)
  | .vcmpEq e => some (e, .eq)
  | .vcmpNe e => some (e, .ne)
  | .vcmpLt e => some (e, .lt)
  | .vcmpLe e => some (e, .le)
  | .vcmpGt e => some (e, .gt)
  | .vcmpGe e => some (e, .ge)
  | _ => none

/-- R106: VCMP sets each Active lane's bit of its mask to the condition over all elements; other Owned lanes keep theirs, or clear it under
the zero policy, k0 among them, whose bits are the fragment's lanes; a destination that is no mask register is illegal. -/
def Obligations.VectorComparisonSetsMask : Prop :=
  ∀ (s : State) (c : Iss) (i : Instr) (e : Enc) (cc : Cond), vectorCmp i = some (e, cc) →
    let ty := intTy e.var
    (s.issuer? = some c → 8 ≤ e.dst.toNat → ∃ r, s.reason c i none = some r ∧ exec i s = .next (s.illegal c i r)) ∧
    (s.legal c i → ∃ t, exec i s = .next t ∧ s.masksSet t c e.units (c.active e) (fun n L =>
      maskDestBit e.dst (if e.p.zero then c.own else c.active e)
        (bitOf (c.active e) L && elemAll e.var cc (c.a e ty L) (c.b' e ty L)) n L (bitOf (c.k n) L)))

/-! ## Masks -/

/-- The mask operations of R112 on a lane's bits. -/
def Sys2Proof.Machine.maskBitOp : Instr → Option (Enc × (Bool → Bool → Bool))
  | .kand e => some (e, fun a b => a && b)
  | .kor e => some (e, fun a b => a || b)
  | .kxor e => some (e, fun a b => a ^^ b)
  | .knot e => some (e, fun a _ => !a)
  | .kmov e => some (e, fun a _ => a)
  | _ => none

/-- R112, R113: a mask operation writes the fragment's lanes of its destination and no other lane; k0 as a source is the activity mask; S2K
writes those of one beat from a scalar's bits. -/
def Obligations.MaskOperationsWriteOwnedLanes : Prop :=
  (∀ (s : State) (c : Iss) (i : Instr) (e : Enc) (f : Bool → Bool → Bool), maskBitOp i = some (e, f) → s.legal c i →
     ∃ t, exec i s = .next t ∧ s.masksSet t c e.units c.own (fun n L =>
       maskDestBit e.dst c.own (f (bitOf (c.k e.a.toNat) L) (bitOf (c.k e.b.toNat) L)) n L (bitOf (c.k n) L))) ∧
  (∀ (s : State) (c : Iss) (e : Enc), s.legal c (.s2k e) →
     let beat := if e.b = 0x60 then 0 else if e.b = 0x70 then 1 else 2
     ∃ t, exec (.s2k e) s = .next t ∧ s.masksSet t c e.units c.own (fun n L =>
       if L / 32 = beat then maskDestBit e.dst c.own ((c.sa e e.a .i32).getLsbD (L % 32)) n L (bitOf (c.k n) L)
       else bitOf (c.k n) L))

/-! ## Floating point -/

namespace Sys2Proof.Machine

/-- The mask of a flag by its place in FLAGS.ARITH (R66). -/
def Flags.nth (f : Flags) : Nat → Mask
  | 0 => f.nv
  | 1 => f.dz
  | 2 => f.oflow
  | 3 => f.uf
  | _ => f.nx

/-- The flags of `h` are those of `g` with the exceptions that arose in lanes of `m` set (R65). -/
def flagsRaised (g h : Flags) (m : Mask) (exc : Nat → Exc) : Prop :=
  ∀ j L, j < 5 → L < 96 → bitOf (h.nth j) L = (bitOf (g.nth j) L || (bitOf m L && (exc L).getLsbD j))

/-- What a floating-point instruction leaves that traps nowhere: its vector destination, and its exceptions in the sticky flags. -/
def State.floatsSet (s t : State) (c : Iss) (e : Enc) (wide : Bool) (res : Nat → DWord × Exc) : Prop :=
  ∃ h, s.wrote t c.cur.gid h ∧ h = { c.g with v := h.v, fl := h.fl, icnt := h.icnt, perf := h.perf } ∧ c.g.ticked h (c.active e) ∧
    flagsRaised c.g.fl h.fl (c.active e) (fun L => (res L).2) ∧
    (∀ r L, L < 96 → h.vGet r L = vectorDest e wide (c.active e) c.own (fun L => (res L).1) r L (c.g.vGet r L)) ∧
    s.leaves t c h e.units (fun _ => true)

/-- No lane of Contrib raises an exception that the launch enables (R68, R122). -/
def Iss.quietFor (c : Iss) (e : Enc) (exc : Nat → Exc) : Prop :=
  ∀ L, L < 96 → bitOf (c.contrib (c.active e)) L → exc L &&& c.l.desc.fpe = 0

/-- Instructions of R124 and R130 whose elements are operations on exact values, rounded once to the variant's format (R125). -/
def floatOp : Instr → Option (Enc × FOp)
  | .fadd e => some (e, fun m _ a b _ => opAdd m a b)
  | .fsub e => some (e, fun m _ a b _ => opAdd m a b.negate)
  | .fmul e => some (e, fun _ _ a b _ => opMul a b)
  | .ffma e => some (e, fun m _ a b d => opDot m [(a, b)] d)
  | .frcp e => some (e, fun _ _ a _ _ => opRcp a)
  | .frsq e => some (e, fun _ _ a _ _ => opRsq a)
  | .fsqrt e => some (e, fun _ _ a _ _ => opSqrt a)
  | .fdiv e => some (e, fun _ _ a b _ => opDiv a b)
  | .fexp2 e => some (e, fun _ _ a _ _ => opExp2 a)
  | .flog2 e => some (e, fun _ _ a _ _ => opLog2 a)
  | .fsin e => some (e, fun _ _ a _ _ => opSin a)
  | .fcos e => some (e, fun _ _ a _ _ => opCos a)
  | .ftanh e => some (e, fun _ _ a _ _ => opTanh a)
  | .frnd e => some (e, fun m u a _ _ => opRnd m u a)
  | _ => none

/-- Element i of lane L: operands after their modifiers, the exact result, one rounding in the mode in force with SAT, and the
exceptions of both (R60, R125, R126). -/
def Iss.floatElem (c : Iss) (e : Enc) (op : FOp) (L i : Nat) : Nat × Exc :=
  let ty := floatTy e.var
  let f := ty.fmt
  let m := if e.p.rnd = 6 then c.g.drm.toNat else e.p.rnd.toNat
  let u := if m = 5 then c.draw L i else 0
  let x := op m u (f.unpack (f.mod (ty.raw (c.a e ty L) i) e.p.aa e.p.na)) (f.unpack (f.mod (ty.raw (c.b' e ty L) i) false e.p.nb))
    (f.unpack (ty.raw (c.d e ty L) i))
  let r := f.round m e.p.sat u x.1
  (r.1, x.2 ||| r.2)

/-- A lane's result and exceptions: one element, or two for the packed variants (R59). -/
def floatLane (e : Enc) (el : Nat → Nat → Nat × Exc) (L : Nat) : DWord × Exc :=
  if e.var = 1 ∨ e.var = 2 then (BitVec.ofNat 64 ((el L 0).1 + 65536 * (el L 1).1), (el L 0).2 ||| (el L 1).2)
  else (BitVec.ofNat 64 (el L 0).1, (el L 0).2)

/-- Results of n elements of so many bits each, in place, and the exceptions of them all (R59, R123). -/
def packed (bits n : Nat) (r : Nat → Nat × Exc) : DWord × Exc :=
  (BitVec.ofNat 64 (((List.range n).map (fun i => (r i).1 * 2 ^ (bits * i))).sum), (List.range n).foldl (fun x i => x ||| (r i).2) 0)

/-- The value of an element of operands a and b, after their modifiers (R126). -/
def Iss.valA (c : Iss) (e : Enc) (L i : Nat) : FV := (floatTy e.var).fmt.unpack (c.fa e (floatTy e.var) L i)
def Iss.valB (c : Iss) (e : Enc) (L i : Nat) : FV := (floatTy e.var).fmt.unpack (c.fb e (floatTy e.var) L i)

/-- An exact result rounded to a format in the mode in force, with the draw of result element i (R60 to R64, R125). -/
def Iss.rounded (c : Iss) (e : Enc) (f : Fmt) (sat : Bool) (L i : Nat) (x : Exact × Exc) : Nat × Exc :=
  let r := f.round (c.mode e) sat (c.u (c.mode e) L i) x.1
  (r.1, x.2 ||| r.2)

/-- FMIN and FMAX (R128), and FSCALE (R134), where b is an integer of the element's width. -/
def Iss.minMaxLane (c : Iss) (e : Enc) (mx : Bool) : Nat → DWord × Exc :=
  floatLane e (fun L i => (floatTy e.var).fmt.minmax mx (c.fa e (floatTy e.var) L i) (c.fb e (floatTy e.var) L i))
def Iss.scaleLane (c : Iss) (e : Enc) : Nat → DWord × Exc :=
  floatLane e (fun L i =>
    let n := if e.var = 1 ∨ e.var = 2 then (elemAt 16 (c.b' e .i16x2 L) i).toInt else (lo32 (c.b' e .i32 L)).toInt
    c.rounded e (floatTy e.var).fmt e.p.sat L i (opScale (c.valA e L i) (if e.p.nb then -n else n)))

/-- FCVT between formats (R137), FCVTI to an integer type (R138), and ICVTF from one (R139). -/
def Iss.cvtLane (c : Iss) (e : Enc) (L : Nat) : DWord × Exc :=
  let src := cvtSrc e
  packed (cvtDst e).2 src.2.2.2 (fun i =>
    let x := src.2.1.mod ((c.a e src.1 L).toNat / 2 ^ (src.2.2.1 * i) % 2 ^ src.2.2.1) e.p.aa e.p.na
    c.rounded e (cvtDst e).1 e.p.sat L i (cvtExact e (src.2.1.unpack x)))
def Iss.toIntLane (c : Iss) (e : Enc) (L : Nat) : DWord × Exc :=
  let ty := intSel e.b
  let r := fun (L i : Nat) => toInt (c.mode e) (c.u (c.mode e) L i) ty.lo ty.hi (c.valA e L i)
  ((packed ty.bits ty.count (fun i => ((BitVec.ofInt ty.bits (r L i).1).toNat, 0))).1, (floatLane e (fun L i => (0, (r L i).2)) L).2)
def Iss.fromIntLane (c : Iss) (e : Enc) : Nat → DWord × Exc :=
  floatLane e (fun L i => c.rounded e (floatTy e.var).fmt false L i (ofInt ((intSel e.b).val (c.a e (intSel e.b) L) i), 0))

/-- FDOT2 (R135): two products and a binary32 sum, rounded once to binary32. -/
def Iss.dotLane (c : Iss) (e : Enc) (L : Nat) : DWord × Exc :=
  packed 32 1 (fun _ => c.rounded e fmt32 e.p.sat L 0 (opDot (c.mode e) [(c.valA e L 0, c.valB e L 0), (c.valA e L 1, c.valB e L 1)]
    (fmt32.unpack (lo32 (c.d e .f32 L)).toNat)))

/-- FPACK (R140): binary32 words of a and then of b to elements of one word, one of each, or two of each for an FP8 format. -/
def Iss.packLane (c : Iss) (e : Enc) (L : Nat) : DWord × Exc :=
  let out := floatSel e.p.d4
  let half := 16 / out.2
  let word := fun (i : Nat) =>
    if i < half then fmt32.mod (packWord e.a (c.a e .f32 L) (c.a e .f64 L) i) e.p.aa e.p.na
    else fmt32.mod (packWord e.b (c.b' e .f32 L) (c.b' e .f64 L) (i - half)) false e.p.nb
  packed out.2 (2 * half) (fun i => c.rounded e out.1 e.p.sat L i (opCvt (fmt32.unpack (word i))))

/-- NXENC (R141): lane L holds its eight codes of its beat's block, and the block's scale and special bytes; NXDEC (R142): elements of the
block that a and b hold. -/
def Iss.encLane (c : Iss) (e : Enc) (L : Nat) : DWord × Exc :=
  let contrib := c.contrib (c.active e)
  let x := fun (L : Nat) => if bitOf contrib L then (c.g.vGet e.a.toNat L).toNat else 0
  let b := nx4Encode (tab 32 (fun p => x (32 * (L / 32) + p)))
  (b.ctl ++ b.word (L % 32), if b.c = 255 then (if 0x7F800000 ≤ x L % 2 ^ 31 then excNV else 0)
    else if bitOf contrib L && b.lossy (L % 32) (x L) then excNX else 0)
def Iss.decLane (c : Iss) (e : Enc) : Nat → DWord × Exc :=
  floatLane e (fun L i =>
    let b := (c.b' e .n32 L).toNat
    nx4Decode (floatTy e.var).fmt (c.a e .n32 L).toNat (if e.var = 1 ∨ e.var = 2 then 2 * (b % 8 / 2) + i else b % 8)
      (b / 256 % 256) (b / 65536 % 256))

/-- The float reductions (R116, R117), one tree over 96 positions for each element, and scans (R118, R120). -/
def Iss.redLane (c : Iss) (e : Enc) (r : FRed) : Nat → DWord × Exc :=
  let f := (floatTy e.var).fmt
  floatLane e (fun _ i => redTree (fun j => r.comb f (c.mode e) (c.u (c.mode e) ((lowLane? (c.active e)).getD 0) (96 * i + j)))
    (tab 96 (fun L => if bitOf (c.contrib (c.active e)) L then (floatTy e.var).raw (c.a e (floatTy e.var) L) i else r.ident f)))
def Iss.scanLane (c : Iss) (e : Enc) (r : FRed) : Nat → DWord × Exc :=
  let f := (floatTy e.var).fmt
  floatLane e (fun L i => ((List.range 96).filter (fun j => bitOf (c.contrib (c.active e)) j && decide (j ≤ L))).foldl (fun acc j =>
    let q := r.comb f (c.mode e) (c.u (c.mode e) L (96 * i + j)) acc.1 ((floatTy e.var).raw (c.a e (floatTy e.var) j) i)
    (q.1, acc.2 ||| q.2)) (r.ident f, 0))

/-- The other per-lane instructions that raise exceptions: whether their destination is a pair, and each lane's result and
exceptions. -/
def floatForm : Instr → Option (Enc × Bool × (Iss → Nat → DWord × Exc))
  | .fmin e => some (e, e.var == 3, fun c => c.minMaxLane e false)
  | .fmax e => some (e, e.var == 3, fun c => c.minMaxLane e true)
  | .fscale e => some (e, e.var == 3, fun c => c.scaleLane e)
  | .fcvt e => some (e, decide (32 < (cvtDst e).2 * (cvtSrc e).2.2.2), fun c => c.cvtLane e)
  | .fcvti e => some (e, e.b == 0x71, fun c => c.toIntLane e)
  | .icvtf e => some (e, e.var == 3, fun c => c.fromIntLane e)
  | .fclass e => some (e, false, fun c => floatLane e (fun L i => ((floatTy e.var).fmt.classOf (c.fa e (floatTy e.var) L i), 0)))
  | .fdot2 e => some (e, false, fun c => c.dotLane e)
  | .fpack e => some (e, false, fun c => c.packLane e)
  | .nxenc e => some (e, true, fun c => c.encLane e)
  | .nxdec e => some (e, false, fun c => c.decLane e)
  | .lredFadd e => some (e, e.var == 3, fun c => c.redLane e .add)
  | .lredFmin e => some (e, e.var == 3, fun c => c.redLane e .min)
  | .lredFmax e => some (e, e.var == 3, fun c => c.redLane e .max)
  | .lscanFadd e => some (e, e.var == 3, fun c => c.scanLane e .add)
  | .lscanFmin e => some (e, e.var == 3, fun c => c.scanLane e .min)
  | .lscanFmax e => some (e, e.var == 3, fun c => c.scanLane e .max)
  | _ => none

/-- The predicates of FCMP (R129): truth, given whether the operands are unordered, less, and greater; and whether any NaN raises NV, or
only a signalling one. -/
def floatCmp : Instr → Option (Enc × Bool × (Bool → Bool → Bool → Bool))
  | .fcmpEq e => some (e, false, fun un lt gt => !un && !lt && !gt)
  | .fcmpNe e => some (e, false, fun un lt gt => un || lt || gt)
  | .fcmpLt e => some (e, true, fun un lt _ => !un && lt)
  | .fcmpLe e => some (e, true, fun un _ gt => !un && !gt)
  | .fcmpGt e => some (e, true, fun un _ gt => !un && gt)
  | .fcmpGe e => some (e, true, fun un lt _ => !un && !lt)
  | .fcmpUn e => some (e, false, fun un _ _ => un)
  | .fcmpOr e => some (e, false, fun un _ _ => !un)
  | _ => none

/-- The exceptions of a lane of FCMP. -/
def Iss.cmpExc (c : Iss) (e : Enc) (anyNan : Bool) (L : Nat) : Exc :=
  let bad := fun (i : Nat) => (c.valA e L i).sig || (c.valB e L i).sig || (anyNan && ((c.valA e L i).isNan || (c.valB e L i).isNan))
  if bad 0 || ((e.var == 1 || e.var == 2) && bad 1) then excNV else 0

/-- Each lane's exceptions, of every instruction that raises any. -/
def floatExc (i : Instr) : Option (Enc × (Iss → Nat → Exc)) :=
  match floatOp i, floatForm i, floatCmp i with
  | some (e, op), _, _ => some (e, fun c L => (floatLane e (c.floatElem e op) L).2)
  | none, some (e, _, res), _ => some (e, fun c L => (res c L).2)
  | none, none, some (e, anyNan, _) => some (e, fun c L => c.cmpExc e anyNan L)
  | none, none, none => none

end Sys2Proof.Machine

/-- R125: a floating-point operation that raises no enabled exception in Contrib writes each Active lane's rounded result, sets the
sticky flags of what it raised, and changes nothing else. -/
def Obligations.FloatOperationResults : Prop :=
  ∀ (s : State) (c : Iss) (i : Instr) (e : Enc) (op : FOp), floatOp i = some (e, op) → s.legal c i →
    let res := floatLane e (c.floatElem e op)
    c.quietFor e (fun L => (res L).2) →
    ∃ t, exec i s = .next t ∧ s.floatsSet t c e (e.var == 3) res

/-- R122, R125, R128 to R142: every other per-lane floating-point instruction that raises no enabled exception in Contrib writes each Active
lane’s result, sets the sticky flags of what it raised, and changes nothing else; FCMP sets each Active lane’s mask bit to the
predicate over all elements, and raises NV for a signalling NaN or, in the ordered comparisons, for any NaN. The float reductions and
scans go by R116 to R120 too. That NXDEC reads its operands as .n32 is the model's choice (assumption 19), and the exceptions of NXENC
and of the conversions are its reading (assumptions 60 and 64). -/
def Obligations.FloatFormsAndComparisonsComplete : Prop :=
  (∀ (s : State) (c : Iss) (i : Instr) (e : Enc) (wide : Bool) (res : Iss → Nat → DWord × Exc), floatForm i = some (e, wide, res) →
     s.legal c i → c.quietFor e (fun L => (res c L).2) → ∃ t, exec i s = .next t ∧ s.floatsSet t c e wide (res c)) ∧
  (∀ (s : State) (c : Iss) (i : Instr) (e : Enc) (anyNan : Bool) (p : Bool → Bool → Bool → Bool),
     floatCmp i = some (e, anyNan, p) → s.legal c i → c.quietFor e (c.cmpExc e anyNan) →
     let truth := fun (L j : Nat) =>
       let a := c.valA e L j
       let b := c.valB e L j
       p (a.isNan || b.isNan) (a.lt false b) (b.lt false a)
     let bit := fun (n L : Nat) => maskDestBit e.dst (if e.p.zero then c.own else c.active e)
       (bitOf (c.active e) L && (truth L 0 && (truth L 1 || !(e.var == 1 || e.var == 2)))) n L (bitOf (c.k n) L)
     ∃ t h, exec i s = .next t ∧ s.wrote t c.cur.gid h ∧
       h = { c.g with k := h.k, fl := h.fl, icnt := h.icnt, perf := h.perf } ∧ c.g.ticked h (c.active e) ∧
       flagsRaised c.g.fl h.fl (c.active e) (c.cmpExc e anyNan) ∧
       (∀ n L, 1 ≤ n → L < 96 → bitOf (h.kGet n) L = bit n L) ∧ s.leaves t c h e.units (bit 0))

/-- R68, R125: when a lane of Contrib raises an exception that the launch enables, a floating-point instruction traps: the flags stand,
no destination is written, nothing is counted, and the trap carries cause 3, the enabled exceptions, the instruction's place, the
lanes they arose in, and within an EXLW the word and the list. -/
def Obligations.EnabledExceptionTraps : Prop :=
  ∀ (s : State) (c : Iss) (i : Instr) (e : Enc) (exc : Iss → Nat → Exc), floatExc i = some (e, exc) → s.legal c i →
    ¬ c.quietFor e (exc c) →
    let enabled := fun (L : Nat) => if bitOf (c.active e) L then exc c L &&& c.l.desc.fpe else 0
    ∃ t g lanes, exec i s = .next t ∧ s.wrote t c.cur.gid g ∧ g = { c.g with fl := g.fl } ∧
      flagsRaised c.g.fl g.fl (c.active e) (exc c) ∧ (∀ L, L < 96 → bitOf lanes L = (enabled L != 0)) ∧
      t = (s.setGroup c.cur.gid g).takeTrap { c with g := g }
        ⟨3, ((List.range 96).foldl (fun x L => x ||| enabled L) 0).toNat, c.f.hnd, c.f.pc, lanes,
          if c.f.latch = [] then 0 else c.f.latchAt, 0, c.f.latch⟩

/-- R57, R61, R128: FMIN and FMAX of one NaN and one number give the number, of two NaNs the canonical NaN, and −0 lies below +0; a
signalling NaN raises NV, and nothing else is raised. Rounding keeps NaN canonical, and an infinite result infinite, or under SAT the
largest finite value with NX, whatever the mode (R65); the infinite result of a function of R130 gives that value with no flag, the
model's choice (assumption 60). -/
def Obligations.SpecialValuesOfMinimumAndRounding : Prop :=
  (∀ (f : Fmt) (mx : Bool) (x y : Nat),
     ((f.unpack x).isNan → (f.unpack y).isNan → (f.minmax mx x y).1 = f.nan) ∧
     ((f.unpack x).isNan → ¬ (f.unpack y).isNan → (f.minmax mx x y).1 = y) ∧
     (¬ (f.unpack x).isNan → (f.unpack y).isNan → (f.minmax mx x y).1 = x) ∧
     ((f.minmax mx x y).1 = x ∨ (f.minmax mx x y).1 = y ∨ (f.minmax mx x y).1 = f.nan) ∧
     ((f.minmax mx x y).2 = if (f.unpack x).sig ∨ (f.unpack y).sig then excNV else 0) ∧
     (∀ e e', f.unpack x = .fin true 0 e → f.unpack y = .fin false 0 e' →
       f.minmax false x y = (x, 0) ∧ f.minmax false y x = (x, 0) ∧ f.minmax true x y = (y, 0) ∧ f.minmax true y x = (y, 0))) ∧
  (∀ (f : Fmt) (mode u : Nat) (sat neg : Bool),
     f.round mode sat u .nan = (f.nan, 0) ∧
     f.round mode true u (.inf neg) = (f.maxVal neg, excNX) ∧
     f.round mode false u (.inf neg) = (f.infVal neg, if f.hasInf then 0 else excNX) ∧
     f.round mode true u (.limit neg) = (f.maxVal neg, 0) ∧ f.round mode false u (.limit neg) = (f.infVal neg, 0) ∧
     f.round mode sat u (.zero neg) = (f.zero neg, 0))

/-- R60: rounding m × 2^e to a multiple of 2^q: to nearest it errs by at most half the spacing and takes the even multiple on a tie;
toward zero it gives the multiple at or below; toward −∞ and +∞ the multiple on that side; to nearest with ties away it takes the
greater magnitude on a tie; stochastic rounding (R62) takes the greater when the draw lies below the fraction's first 32 bits. It
reports whether the value was a multiple. -/
def Obligations.RoundingModesBracketTheValue : Prop :=
  ∀ (neg : Bool) (m : Nat) (e q : Int) (u : Nat),
    let x : ℚ := (m : ℚ) * 2 ^ e
    let r := fun (mode : Nat) => roundAt neg m e false q mode u
    let y := fun (mode : Nat) => ((r mode).1 : ℚ) * 2 ^ q
    |y 0 - x| ≤ 2 ^ q / 2 ∧ (|y 0 - x| = 2 ^ q / 2 → (r 0).1 % 2 = 0) ∧
    (y 1 ≤ x ∧ x < y 1 + 2 ^ q) ∧
    (if neg then x ≤ y 2 ∧ y 2 < x + 2 ^ q else y 2 ≤ x ∧ x < y 2 + 2 ^ q) ∧
    (if neg then y 3 ≤ x ∧ x < y 3 + 2 ^ q else x ≤ y 3 ∧ y 3 < x + 2 ^ q) ∧
    (|y 4 - x| ≤ 2 ^ q / 2 ∧ (|y 4 - x| = 2 ^ q / 2 → x ≤ y 4)) ∧
    (r 5).1 = (r 1).1 + (if (u : ℤ) < ⌊(x - y 1) / 2 ^ q * 2 ^ 32⌋ then 1 else 0) ∧
    (∀ mode, (r mode).2 = false ↔ y 1 = x)

/-! ## Lanes -/

namespace Sys2Proof.Machine

/-- The exchanges of R114 and R115: the lane each lane reads, from its number and the index operand's value. -/
def exchangeLane : Instr → Option (Enc × (Nat → Word → Nat))
  | .qswz e => some (e, fun L p => 4 * (L / 4) + (p.extractLsb' (2 * (L % 4)) 2).toNat)
  | .qbc e => some (e, fun L i => 4 * (L / 4) + (i.extractLsb' 0 2).toNat)
  | .lshf e => some (e, fun _ i => i.toNat)
  | .lrot e => some (e, fun L n => (((L : Int) + n.toInt) % 96).toNat)
  | .lbc e => some (e, fun _ i => i.toNat)
  | _ => none

/-- The integer reductions and scans (R116): combination and identity of one element; true for a scan. -/
def reduceOp : Instr → Option (Enc × Bool × ElemOp × ((w : Nat) → Bool → BitVec w))
  | .lredAdd e => some (e, false, fun _ _ a b _ => a + b, fun _ _ => 0)
  | .lredMin e => some (e, false, elemMin, fun w uns => if uns then BitVec.allOnes w else BitVec.intMax w)
  | .lredMax e => some (e, false, elemMax, fun w uns => if uns then 0 else BitVec.intMin w)
  | .lredAnd e => some (e, false, fun _ _ a b _ => a &&& b, fun w _ => BitVec.allOnes w)
  | .lredOr e => some (e, false, fun _ _ a b _ => a ||| b, fun _ _ => 0)
  | .lredXor e => some (e, false, fun _ _ a b _ => a ^^^ b, fun _ _ => 0)
  | .lscanAdd e => some (e, true, fun _ _ a b _ => a + b, fun _ _ => 0)
  | .lscanMin e => some (e, true, elemMin, fun w uns => if uns then BitVec.allOnes w else BitVec.intMax w)
  | .lscanMax e => some (e, true, elemMax, fun w uns => if uns then 0 else BitVec.intMin w)
  | .lscanAnd e => some (e, true, fun _ _ a b _ => a &&& b, fun w _ => BitVec.allOnes w)
  | .lscanOr e => some (e, true, fun _ _ a b _ => a ||| b, fun _ _ => 0)
  | .lscanXor e => some (e, true, fun _ _ a b _ => a ^^^ b, fun _ _ => 0)
  | _ => none

/-- The lanes a reduction takes for lane L: Contrib, and for a scan those up to L (R117, R118). -/
def Iss.reduceLanes (c : Iss) (e : Enc) (scan : Bool) (L : Nat) : List Nat :=
  (List.range 96).filter (fun j => bitOf (c.contrib (c.active e)) j && (!scan || decide (j ≤ L)))

end Sys2Proof.Machine

/-- R116 to R119: an integer reduction gives every Active lane the combination over Contrib, a scan the combination over the lanes of
Contrib up to its own; each element wraps, but with SAT the sums clamp the exact total once. LMATCH gives each lane of Contrib the least
lane of Contrib with its value, another Active lane the same or its own number, as a 64-bit number under .i64 (the model's reading,
assumption 19); LFIRST gives every Active lane the value of the least lane of Contrib, or all ones. -/
def Obligations.ReductionScanAndMatchResults : Prop :=
  (∀ (s : State) (c : Iss) (i : Instr) (e : Enc) (scan : Bool) (f : ElemOp) (ident : (w : Nat) → Bool → BitVec w),
     reduceOp i = some (e, scan, f, ident) → s.legal c i → e.p.sat = false →
     let res := fun (L : Nat) => fromElems e.var (fun w uns n =>
       (c.reduceLanes e scan L).foldl (fun acc j => f w uns acc (elemAt w (c.a e (intTy e.var) j) n) 0) (ident w uns))
     ∃ t, exec i s = .next t ∧ s.vectorsSet t c e.units (c.active e) (fun r L =>
       vectorDest e (e.var == 2) (c.active e) c.own res r L (c.g.vGet r L))) ∧
  (∀ (s : State) (c : Iss) (i : Instr) (e : Enc) (scan : Bool),
     (i = .lredAdd e ∧ scan = false ∨ i = .lscanAdd e ∧ scan = true) → s.legal c i → e.p.sat = true →
     let res := fun (L : Nat) => fromElems e.var (fun w uns n =>
       clampTo w uns (((c.reduceLanes e scan L).map (fun j => numOf uns (elemAt w (c.a e (intTy e.var) j) n))).sum))
     ∃ t, exec i s = .next t ∧ s.vectorsSet t c e.units (c.active e) (fun r L =>
       vectorDest e (e.var == 2) (c.active e) c.own res r L (c.g.vGet r L))) ∧
  (∀ (s : State) (c : Iss) (e : Enc),
     let ty := intTy e.var
     let ls := (List.range 96).filter (fun j => bitOf (c.contrib (c.active e)) j)
     (s.legal c (.lmatch e) → ∃ t, exec (.lmatch e) s = .next t ∧ s.vectorsSet t c e.units (c.active e) (fun r L =>
       vectorDest e (e.var == 2) (c.active e) c.own
         (fun L => BitVec.ofNat 64 ((ls.filter (fun j => c.a e ty j == c.a e ty L)).headD L)) r L (c.g.vGet r L))) ∧
     (s.legal c (.lfirst e) → ∃ t, exec (.lfirst e) s = .next t ∧ s.vectorsSet t c e.units (c.active e) (fun r L =>
       vectorDest e (e.var == 2) (c.active e) c.own
         (fun _ => match ls with | [] => BitVec.allOnes 64 | j :: _ => c.a e ty j) r L (c.g.vGet r L))))

/-- R114, R115: an exchange gives each Active lane the word, or pair, that stood in the lane it names, zero from a lane that does not
exist; other lanes keep their value, or under the zero policy are zeroed. -/
def Obligations.LaneExchangeResults : Prop :=
  ∀ (s : State) (c : Iss) (i : Instr) (e : Enc) (j : Nat → Word → Nat), exchangeLane i = some (e, j) → s.legal c i →
    let wide := e.var == 2
    let res := fun (L : Nat) =>
      let k := j L (lo32 (c.b' e .n32 L))
      if k < 96 ∧ bitOf c.g.lanes k then
        (if wide then c.g.vGet (e.a.toNat + 1) k ++ c.g.vGet e.a.toNat k else (c.g.vGet e.a.toNat k).zeroExtend 64)
      else 0
    ∃ t, exec i s = .next t ∧ s.vectorsSet t c e.units (c.active e) (fun r L =>
      vectorDest e wide (c.active e) c.own res r L (c.g.vGet r L))

/-! ## Memory instructions -/

namespace Sys2Proof.Machine

/-- What a memory instruction leaves at issue: events at the end of the issue queue and units at the end of the store queue and the
combine buffer, the TLBs filled, the group's data as `h`, and nothing else: no byte of any memory. -/
def State.entered (s t : State) (iq : List IqEv) (sq cbuf : List WEv) (gid : Nat) (h : Group) : Prop :=
  { s with iq := s.iq ++ iq, sq := s.sq ++ sq, cbuf := s.cbuf ++ cbuf, nextId := t.nextId, tlb1 := t.tlb1, tlb2 := t.tlb2 }.wrote t gid h

/-- Events are the issuing fragment's, at the current place of the issue order and of its program, with the lanes of their
instruction. -/
def ownEvents (s : State) (c : Iss) (m : Mask) (es : List IqEv) : Prop :=
  ∀ x ∈ es, x.gid = c.cur.gid ∧ x.ent = c.cur.ent ∧ x.seq = s.seq ∧ x.site = c.f.site m ∧ x.late = false

/-- A load event reads a byte for a destination. -/
def IqEv.readsByte (e : IqEv) (l : Loc) (d : Dest) : Prop :=
  e.sp = l.sp ∧ ∃ n bs acq, e.kind = .load n bs acq ∧ (l.addr, d) ∈ bs

/-- The page kinds by which an instruction reaches a line. -/
def reachedBy (reach : Loc → PageKind → Prop) (sp : Space) (line : Nat) (o : PageKind) : Prop :=
  ∃ a, lineOf a = line ∧ reach ⟨sp, a⟩ o

/-- The kind of one access of a line: SO when some byte is reached by such a page, else RC when some is, else UO (R173, R174; the model's
choice for a line reached by pages of several kinds, assumption 61). -/
def kindOfLine (ks : PageKind → Prop) (o : PageKind) : Prop := (o = .so ↔ ks .so) ∧ (o = .rc ↔ ks .rc ∧ ¬ ks .so)

/-- The reads of one instruction: one for each line (R174, R196), of the kind of its pages, with the acquire's scope where a byte is reached
by an RC page (R183), and with the reuse class of the handle that reaches the line (R171). -/
def readEvents (es : List IqEv) (acq : Option Scope) (cls : Space → Nat → Nat × Nat) (reach : Loc → PageKind → Prop) : Prop :=
  (∀ v ∈ es, ∃ n bs a, v.kind = .load n bs a ∧ (∀ p ∈ bs, lineOf p.1 = n) ∧ v.cls = cls v.sp n ∧
    kindOfLine (reachedBy reach v.sp n) v.ord ∧ (reachedBy reach v.sp n .rc → a = acq) ∧ (¬ reachedBy reach v.sp n .rc → a = none)) ∧
    es.Pairwise (fun v w => ∀ n bs a n' bs' a', v.kind = .load n bs a → w.kind = .load n' bs' a' → (v.sp, n) ≠ (w.sp, n'))

/-- A write unit holds a byte. -/
def WEv.holdsByte (w : WEv) (l : Loc) (b : Byte) : Prop := w.sp = l.sp ∧ w.line = lineOf l.addr ∧ (l.addr, b) ∈ w.bytes

/-- The writes of one instruction: the issuing group's, one for each line (R174, R196), of the kind of its pages, with the release's scope
where a byte is reached by an RC page (R183), and behind the writes to its bytes that the group made before or has seen (R196, R198). -/
def State.writeUnits (s : State) (c : Iss) (ws : List WEv) (rel : Option Scope) (h : Hnd) (reach : Loc → PageKind → Prop) : Prop :=
  (∀ w ∈ ws, w.gid = c.cur.gid ∧ w.core = c.b.core ∧ w.tile = c.tile ∧ w.seq = s.seq ∧ w.cls = (h.reuse, h.rcnt) ∧ w.obs = [] ∧
    kindOfLine (reachedBy reach w.sp w.line) w.ord ∧ (reachedBy reach w.sp w.line .rc → w.rel = rel) ∧
    (¬ reachedBy reach w.sp w.line .rc → w.rel = none) ∧
    ∀ u ∈ s.unjoined, u.known c.cur.gid = true → (u.gid ≠ c.cur.gid ∨ u.id < s.nextId) → u.hits w.sp (w.bytes.map Prod.fst) = true →
      u.id ∈ w.pre) ∧
    ws.Pairwise (fun v w => (v.sp, v.line) ≠ (w.sp, w.line))

/-- A per-lane access: the encoding, each lane's offset, whether each lane reaches its own slice, element bytes and alignment, and the
scope of an acquire or release (R176, R177, R180 to R183, R409). -/
structure LaneAccess where
  e     : Enc
  off   : Iss → Nat → Int
  slice : Bool
  n     : Nat
  align : Nat
  scope : Option Scope

def laneLoad : Instr → Option LaneAccess
  | .ldv e => some ⟨e, fun c L => c.off e L, true, sizeOf_ e.var, 1, none⟩
  | .ldvAcq e => some ⟨e, fun c L => c.off e L, true, 4, 4, some (scopeOf e.var)⟩
  | .ldb e => some ⟨e, fun c L => c.off e 0 + 4 * (L : Int), false, 4, 4, none⟩
  | _ => none

def laneStore : Instr → Option LaneAccess
  | .stv e | .stnt e => some ⟨e, fun c L => c.off e L, true, sizeOf_ e.var, 1, none⟩
  | .stvRel e => some ⟨e, fun c L => c.off e L, true, 4, 4, some (scopeOf e.var)⟩
  | .stb e => some ⟨e, fun c L => c.off e 0 + 4 * (L : Int), false, 4, 4, none⟩
  | _ => none

/-- The access of lane L. -/
def LaneAccess.touch (x : LaneAccess) (c : Iss) (L : Nat) : Touch := ⟨if x.slice then some L else none, L, x.off c L, x.n⟩

/-- The cause by which lane L's access fails (R170). -/
def LaneAccess.cause (x : LaneAccess) (s : State) (c : Iss) (k : AccKind) (L : Nat) : Option Nat :=
  s.failure c (c.target x.e).h (c.target x.e).ok k x.align (x.touch c L)

/-- Where byte i of lane L's element lies, and its page kind. -/
def LaneAccess.at (x : LaneAccess) (s : State) (c : Iss) (k : AccKind) (L i : Nat) : Option (Loc × PageKind) :=
  s.place c (c.target x.e).h (x.touch c L).lane ((x.off c L).toNat + i) k.acc

/-- A store goes to the combine buffer (R203). -/
def combines (i : Instr) (w : WEv) : Bool :=
  match i with
  | .stnt _ => w.sp == .glob && w.ord != .so
  | _ => false

end Sys2Proof.Machine

/-- R174, R180 to R183, R196: a load that fails in no real lane of Active puts reads in IQ(g), one for each line, of each byte of each
Active lane's element, a helper lane's only when it does not fail, with an acquire's scope, and clears the destination words those
bytes will fill. LDS does so for its one element; s29 to s31 gather its bytes until the last arrives (R111). -/
def Obligations.LoadsEnterIssueQueue : Prop :=
  (∀ (s : State) (c : Iss) (i : Instr) (x : LaneAccess), laneLoad i = some x → s.legal c i →
    (∀ L, L < 96 → bitOf (c.active x.e) L → bitOf c.real L → x.cause s c .load L = none) →
    let reach := fun l o => ∃ L k, L < 96 ∧ bitOf (c.active x.e) L ∧ x.cause s c .load L = none ∧ k < x.n ∧
      x.at s c .load L k = some (l, o)
    ∃ t es h, exec i s = .next t ∧ s.entered t es [] [] c.cur.gid h ∧ c.g.onlyVectors h ∧ c.g.ticked h (c.active x.e) ∧
      (∀ l, t.homeByte l = s.homeByte l) ∧ ownEvents s c (c.active x.e) es ∧ readEvents es x.scope (fun _ _ => (c.target x.e).h.cls) reach ∧
      (∀ r L, L < 96 → h.vGet r L = vectorDest x.e (x.n == 8) (c.active x.e) c.own (fun _ => 0) r L (c.g.vGet r L)) ∧
      (∀ l d, (∃ v ∈ es, v.readsByte l d) ↔ ∃ L k o, L < 96 ∧ bitOf (c.active x.e) L ∧ x.cause s c .load L = none ∧ k < x.n ∧
        x.at s c .load L k = some (l, o) ∧ d = if x.e.dst.toNat < 0x40 then .vec (x.e.dst.toNat + k / 4) L (k % 4) else .drop L)) ∧
  (∀ (s : State) (c : Iss) (e : Enc), s.legal c (.lds e) →
    let x : LaneAccess := ⟨e, fun c _ => c.off e 0, false, sizeOf_ e.var, 1, none⟩
    let n := e.dst.toNat - 0x40
    x.cause s c .load 0 = none →
    let reach := fun l o => ∃ k, k < x.n ∧ x.at s c .load 0 k = some (l, o)
    ∃ t es h, exec (.lds e) s = .next t ∧ s.entered t es [] [] c.cur.gid h ∧ c.g.onlyScalars h ∧ c.g.ticked h c.own ∧
      (∀ l, t.homeByte l = s.homeByte l) ∧ ownEvents s c c.own es ∧ readEvents es none (fun _ _ => (c.target e).h.cls) reach ∧
      (∀ m, m < 29 → h.sGet m = if e.dst.toNat < 0x60 ∧ (m = n ∨ (x.n = 8 ∧ m = n + 1)) then 0 else c.g.sGet m) ∧
      (∀ l d, (∃ v ∈ es, v.readsByte l d) ↔ ∃ k o, k < x.n ∧ x.at s c .load 0 k = some (l, o) ∧
        d = if e.dst.toNat < 0x60 then .sca (n + k / 4) (k % 4) else .drop noLane))

/-- R174, R179 to R184, R190, R196: a store that fails in no lane of Contrib puts exactly the bytes of those lanes' elements into the
group's store queue, a non-temporal one into the core's combine buffer, one unit for each line, with a release's scope; of two lanes
at one address the higher stands. No byte of memory changes yet, and no register. -/
def Obligations.StoresEnterWriteQueues : Prop :=
  (∀ (s : State) (c : Iss) (i : Instr) (x : LaneAccess), laneStore i = some x → s.legal c i →
    let src := fun (L : Nat) => bitOf (c.active x.e) L && bitOf c.real L
    (∀ L, L < 96 → src L → x.cause s c .store L = none) →
    let reach := fun l o => ∃ L k, L < 96 ∧ src L ∧ k < x.n ∧ x.at s c .store L k = some (l, o)
    ∃ (t : State) (ws : List WEv) (h : Group), exec i s = .next t ∧ s.entered t [] (ws.filter (fun w => !combines i w)) (ws.filter (combines i)) c.cur.gid h ∧
      c.g.counted h ∧ c.g.ticked h (c.active x.e) ∧ (∀ l, t.homeByte l = s.homeByte l) ∧ s.writeUnits c ws x.scope (c.target x.e).h reach ∧
      (∀ l b, (∃ w ∈ ws, w.holdsByte l b) ↔ ∃ L k o, L < 96 ∧ src L ∧ k < x.n ∧ x.at s c .store L k = some (l, o) ∧
        b = (c.g.vGet (x.e.dst.toNat + k / 4) L).extractLsb' (8 * (k % 4)) 8 ∧
        ∀ L' k' o', L' < 96 → src L' → k' < x.n → x.at s c .store L' k' = some (l, o') → L' < L ∨ (L' = L ∧ k' ≤ k))) ∧
  (∀ (s : State) (c : Iss) (e : Enc), s.legal c (.sts e) →
    let x : LaneAccess := ⟨e, fun c _ => c.off e 0, false, sizeOf_ e.var, 1, none⟩
    x.cause s c .store 0 = none →
    let reach := fun l o => ∃ k, k < x.n ∧ x.at s c .store 0 k = some (l, o)
    ∃ t ws h, exec (.sts e) s = .next t ∧ s.entered t [] ws [] c.cur.gid h ∧ c.g.counted h ∧ c.g.ticked h c.own ∧
      (∀ l, t.homeByte l = s.homeByte l) ∧ s.writeUnits c ws none (c.target e).h reach ∧
      (∀ l b, (∃ w ∈ ws, w.holdsByte l b) ↔ ∃ k o, k < x.n ∧ x.at s c .store 0 k = some (l, o) ∧
        b = (c.sa e e.dst (if x.n = 8 then .i64 else .n32)).extractLsb' (8 * k) 8 ∧
        ∀ k' o', k' < x.n → x.at s c .store 0 k' = some (l, o') → k' ≤ k))

namespace Sys2Proof.Machine

/-- The atomics (R185, R186): encoding, operation, and whether it is a vector form. -/
def atomForm : Instr → Option (Enc × AOp × Bool)
  | .atomvAdd e => some (e, .add, true)
  | .atomvMin e => some (e, .min, true)
  | .atomvMax e => some (e, .max, true)
  | .atomvAnd e => some (e, .and, true)
  | .atomvOr e => some (e, .or, true)
  | .atomvXor e => some (e, .xor, true)
  | .atomvXchg e => some (e, .xchg, true)
  | .atomvCas e => some (e, .cas, true)
  | .atomvFadd e => some (e, .fadd, true)
  | .atomsAdd e => some (e, .add, false)
  | .atomsMin e => some (e, .min, false)
  | .atomsMax e => some (e, .max, false)
  | .atomsAnd e => some (e, .and, false)
  | .atomsOr e => some (e, .or, false)
  | .atomsXor e => some (e, .xor, false)
  | .atomsXchg e => some (e, .xchg, false)
  | .atomsCas e => some (e, .cas, false)
  | .atomsFadd e => some (e, .fadd, false)
  | _ => none

/-- An element's number from two words. -/
def elemNum (n : Nat) (lo hi : Word) : Nat := if n = 8 then (hi ++ lo : DWord).toNat else lo.toNat

/-- The fences (R187). -/
def fenceForm : Instr → Option (Enc × Scope)
  | .fenceGrp e => some (e, .grp)
  | .fenceBlk e => some (e, .blk)
  | .fenceCls e => some (e, .cls)
  | .fenceTile e => some (e, .tile)
  | .fenceDev e => some (e, .dev)
  | .fenceSys e => some (e, .sys)
  | _ => none

end Sys2Proof.Machine

/-- R179, R185, R186, R190: an atomic that fails nowhere puts one event into IQ(g) for each lane of Contrib, in ascending lane order, or
one for the scalar form, with the operand, and for CAS the compare value, of its registers; its old value will fill the same
registers. No byte of memory changes yet. -/
def Obligations.AtomicsEnterIssueQueue : Prop :=
  ∀ (s : State) (c : Iss) (i : Instr) (e : Enc) (op : AOp) (vec : Bool), atomForm i = some (e, op, vec) → s.legal c i →
    let n := atomSize op e.var
    let x : LaneAccess := ⟨e, fun c L => c.off e (if vec then L else 0), vec, n, n, none⟩
    let ls := if vec then (List.range 96).filter (fun L => bitOf (c.active e) L && bitOf c.real L) else [0]
    let r := e.dst.toNat
    let word := fun (L j : Nat) => if vec then c.g.vGet (r + j) L else c.s (r - 0x40 + j)
    (∀ L ∈ ls, x.cause s c .atomic L = none) →
    ∃ t es h, exec i s = .next t ∧ s.entered t es [] [] c.cur.gid h ∧ c.g.ticked h (if vec then c.active e else c.own) ∧
      (if vec then c.g.onlyVectors h else c.g.counted h) ∧ (∀ l, t.homeByte l = s.homeByte l) ∧ ownEvents s c (if vec then c.active e else c.own) es ∧
      (∀ L j, L < 96 → bitOf (c.active e) L → h.vGet (r + j) L = c.g.vGet (r + j) L) ∧
      es.map (fun v => (v.sp, v.ord, v.kind)) = ls.filterMap (fun L => (x.at s c .atomic L 0).map (fun l => (l.1.sp, l.2, .atom l.1.addr
        ⟨op, e.var, n, if op = .cas then elemNum n (word L (n / 4)) (word L (n / 4 + 1)) else elemNum n (word L 0) (word L 1),
          if op = .cas then elemNum n (word L 0) (word L 1) else 0, if vec then .vec r L 0 else .sca (r - 0x40) 0⟩)))

namespace Sys2Proof.Machine

/-- Every cellar has room for n guests more: no fill makes one leave (R14). -/
def State.cellarRoom (s : State) (n : Nat) : Prop := ∀ p, (s.guests.filter (fun g => g.place == p)).length + n ≤ cellarLines

end Sys2Proof.Machine

/-- R187 to R189: a fence enters IQ(g) behind what the group issued before; STCQ enters as one fetch-add of the number of lanes of
Contrib on the counter its scalar run names, with their words; a prefetch changes no register, and no byte of memory unless a full
cellar writes a dirty guest back. -/
def Obligations.FencesQueueAppendAndPrefetch : Prop :=
  (∀ (s : State) (c : Iss) (i : Instr) (e : Enc) (sc : Scope), fenceForm i = some (e, sc) → s.legal c i →
    ∃ t h id, exec i s = .next t ∧
      s.entered t [⟨id, c.cur.gid, c.cur.ent, s.seq, .glob, .rc, .fence sc, c.f.site c.own, (0, 0), false⟩] [] [] c.cur.gid h ∧
      c.g.counted h ∧ c.g.ticked h c.own) ∧
  (∀ (s : State) (c : Iss) (e : Enc), s.legal c (.stcq e) →
    let d := e.dst.toNat - 0x40
    let x : LaneAccess := ⟨e, fun c _ => ((c.s d).toNat : Int), false, 4, 4, none⟩
    let ls := (List.range 96).filter (fun L => bitOf (c.contrib (c.active e)) L)
    x.cause s c .atomic 0 = none →
    ∃ t es h q, exec (.stcq e) s = .next t ∧ s.entered t es [] [] c.cur.gid h ∧ c.g.counted h ∧ c.g.ticked h (c.active e) ∧
      (∀ l, t.homeByte l = s.homeByte l) ∧ ownEvents s c (c.active e) es ∧
      es.map (fun v => (v.sp, v.ord, v.kind)) = ((x.at s c .atomic 0 0).map (fun l => (l.1.sp, l.2, IqKind.stcq l.1.addr q))).toList ∧
      q.cnt = ls.length ∧ q.dst = d ∧ q.avoid = [] ∧ q.data = ls.map (fun L => (L, c.g.vGet e.a.toNat L)) ∧ q.handle = (c.memHandle e e.b).1 ∧
      q.lane = lowLane? (c.f.act &&& c.real) ∧
      q.disp = (c.s (d + 1)).toNat + (c.memHandle e e.b).2.2) ∧
  (∀ (s : State) (c : Iss) (e : Enc), s.legal c (.pfch e) →
    ∃ t h, exec (.pfch e) s = .next t ∧ c.g.counted h ∧ c.g.ticked h c.own ∧
      { s with l1 := t.l1, guests := t.guests, mem := t.mem, ver := t.ver, tiles := t.tiles }.wrote t c.cur.gid h ∧
      (s.cellarRoom 96 → { s with l1 := t.l1, guests := t.guests }.wrote t c.cur.gid h))

/-! ## The ordering machine -/

namespace Sys2Proof.Machine

/-- Two locations lie in one memory: lane slices and global bytes share the stacks (R165). -/
def sameMem (a b : Space) : Bool := a == b || (a == .glob && b == .slice) || (a == .slice && b == .glob)

/-- The memories of `t` are those of `s` but for a write's bytes, which read as written. -/
def State.bytesPut (s t : State) (sp : Space) (bs : List (Nat × Byte)) : Prop :=
  (∀ l, ¬ (sameMem l.sp sp ∧ l.addr ∈ bs.map Prod.fst) → t.homeByte l = s.homeByte l) ∧
    (∀ a b, (a, b) ∈ bs → (∀ b', (a, b') ∈ bs → b' = b) → t.homeByte ⟨sp, a⟩ = b)

/-- A write unit's bytes lie in its line and under no enabled alias, every guest has a line's bytes, one tile at most holds a line dirty
(R194), and no cellar is full. -/
def State.tidy (s : State) (w : WEv) : Prop :=
  s.memOk ∧ w.line % 128 = 0 ∧ (∀ p ∈ w.bytes, lineOf p.1 = w.line ∧ s.aliasOf p.1 = none) ∧ s.cellarRoom 1 ∧
    (∀ g ∈ s.guests, g.bytes.length = 128 ∧ ∀ g' ∈ s.guests, g.dirty → g'.dirty → g.line = g'.line → g.place = g'.place)

/-- What `t` reads at the owner (R194): a write's bytes as written, and every byte outside its line and under no alias as before. -/
def State.ownersPut (s t : State) (w : WEv) : Prop :=
  (∀ a, lineOf a ≠ w.line → s.aliasOf a = none → t.ownerByte a = s.ownerByte a) ∧
    (∀ a b, (a, b) ∈ w.bytes → (∀ b', (a, b') ∈ w.bytes → b' = b) → t.ownerByte a = b)

/-- A byte of memory after WRITEBACK of a line's dirty guest, unless the tile `keep` holds it (R194, R195): what the guest has newer than
home. -/
def State.cleaned (s : State) (keep : Option Nat) (line : Nat) (l : Loc) : Byte :=
  match s.dirty? line with
  | some g =>
    if sameMem l.sp .glob ∧ lineOf l.addr = line ∧ keep ≠ some g.place ∧ s.aliasOf l.addr = none ∧
        g.vers.getD (l.addr % 128) 0 ≠ Map.get 0 s.ver l.addr then g.bytes.getD (l.addr % 128) 0
    else s.homeByte l
  | none => s.homeByte l

/-- RISE-C may happen (R195, R196, R200): nothing earlier holds the write, reads or writes its bytes, or is to be released first. -/
def State.mayRise (s : State) (w : WEv) : Prop :=
  let as := w.bytes.map Prod.fst
  s.held w.gid w.seq w.ord = false ∧ s.before w.gid w.id w.sp as = false ∧
    knownIn (s.sq.filter (fun x => x.id != w.id)) w.gid w.id w.sp as = false ∧
    (∀ sc, w.rel = some sc → s.performed w.gid w.seq sc false = true)

end Sys2Proof.Machine

/-- R195, R198, R203: RISE-C takes a write that nothing holds from Q to P, which then holds its bytes, or to C, where no byte of memory
changes; a strongly ordered one goes home. RISE-T and DRAIN-NT put it into the coherence order, behind the writes that a group saw or
made before it: its bytes are what the line's owner reads from then on, and no byte outside its line changes; RISE-T leaves home as it
was, and the line dirty in the cellar of the write's tile, but for WRITEBACK of another tile's dirty guest. Memory under an enabled
alias is written by none of them (R74). What DRAIN-NT does with a pending read of its bytes is stated with the loads. -/
def Obligations.WritesRiseToMemory : Prop :=
  (∀ (s : State) (w : WEv), s.sq.find? (fun x => x.id == w.id) = some w → s.mayRise w →
    s.memOk → (w.sp = .glob → s.tidy w) →
    (w.sp ≠ .glob → (w.sp = .slice → ∀ p ∈ w.bytes, s.aliasOf p.1 = none) → s.answers ⟨w.sp, w.line⟩ = true →
      ∃ t, exec (.riseC w.id) s = .next t ∧ t.sq = s.sq.filter (fun x => x.id != w.id) ∧ s.bytesPut t w.sp w.bytes) ∧
    (w.sp = .glob → w.ord ≠ .so →
      ∃ t, exec (.riseC w.id) s = .next t ∧ t.sq = s.sq.filter (fun x => x.id != w.id) ∧ t.clv = s.clv ++ [w] ∧
        ∀ l, t.homeByte l = s.homeByte l) ∧
    (w.sp = .glob → w.ord = .so → s.answers ⟨.glob, w.line⟩ = true → s.soBefore w.gid w.id = false → s.preceded w = false →
      knownIn (s.clv ++ s.cbuf) w.gid w.id w.sp (w.bytes.map Prod.fst) = false →
      ∃ t, exec (.riseC w.id) s = .next t ∧ t.sq = s.sq.filter (fun x => x.id != w.id) ∧ s.ownersPut t w)) ∧
  (∀ (s : State) (w : WEv), s.clv.find? (fun x => x.id == w.id) = some w → s.tidy w → s.answers ⟨.glob, w.line⟩ = true →
    s.preceded w = false → w.sp = .glob →
    ∃ t, exec (.riseT w.id) s = .next t ∧ t.clv = s.clv.filter (fun x => x.id != w.id) ∧ s.ownersPut t w ∧
      (w.bytes ≠ [] → s.homeTile w.line ≠ w.tile → w.line ∉ s.poison → (∀ l, t.homeByte l = s.cleaned (some w.tile) w.line l) ∧
        ∃ g, t.dirty? w.line = some g ∧ g.place = w.tile ∧ (w.gid, w.seq, w.ord) ∈ g.writers)) ∧
  (∀ (s : State) (w : WEv), s.cbuf.find? (fun x => x.id == w.id) = some w → s.tidy w → s.answers ⟨.glob, w.line⟩ = true →
    s.ntVisible w = true → s.before w.gid w.id .glob (w.bytes.map Prod.fst) = false → s.preceded w = false →
    ∃ t, exec (.drainNt w.id) s = .next t ∧ t.cbuf = s.cbuf.filter (fun x => x.id != w.id) ∧
      s.ownersPut t w)

/-- R195: WRITEBACK puts a dirty guest's newer bytes home and the line clean; FILL-G copies home's bytes, replacing a clean copy, and
FILL-L1 home's or the guest's, with what the guest is stale for (the model's inference, assumption 13: R195 does not say it), and each
keeps the other copies while there is room; no fill takes a line of lane slices (R205); DROP removes a copy. The fills and DROP change
no byte of memory. -/
def Obligations.CopiesFillDropAndWriteBack : Prop :=
  ∀ (s : State) (place line : Nat), s.memOk →
    (∀ g, s.guests.find? (fun x => x.dirty && x.place == place && x.line == line) = some g → s.answers ⟨.glob, line⟩ = true →
      ∃ t, exec (.writeback place line) s = .next t ∧
        t.guests.any (fun x => x.dirty && x.place == place && x.line == line) = false ∧
        (∀ k, k < 128 → s.aliasOf (line + k) = none → t.homeByte ⟨.glob, line + k⟩ =
          if g.vers.getD k 0 = Map.get 0 s.ver (line + k) then s.homeByte ⟨.glob, line + k⟩ else g.bytes.getD k 0) ∧
        (∀ l, ¬ (sameMem l.sp .glob ∧ line ≤ l.addr ∧ l.addr < line + 128) → t.homeByte l = s.homeByte l)) ∧
    (let home := (List.range 128).map (fun k => s.homeByte ⟨.glob, line + k⟩)
     let others := s.guests.filter (fun x => !(x.place == place && x.line == line))
     line % 128 = 0 → s.populated line 128 = true → s.aliasOf line = none → s.sliceLine line = false → line ∉ s.poison →
      (place < 8 → s.homeTile line ≠ place → s.answers ⟨.glob, line⟩ = true →
        (∀ g ∈ s.guests, g.dirty = true → (g.place = place → g.line ≠ line) ∧ (s.cellarRoom 1 ∨ s.answers ⟨.glob, g.line⟩ = true)) →
        ∃ t g, exec (.fillG place line) s = .next t ∧ t.guests.head? = some g ∧ g.place = place ∧ g.line = line ∧ g.dirty = false ∧
          g.stale = [] ∧ g.bytes = home ∧ (s.cellarRoom 1 → t = { s with guests := g :: others, links := t.links })) ∧
      (place < 768 → (∀ w ∈ s.clv, w.core = place → w.sp = .glob → w.line ≠ line) →
        let local_ := s.homeTile line = place / 96
        (local_ ∨ (s.guest? (place / 96) line).isSome = true ∨ s.answers ⟨.glob, line⟩ = true ∧ s.cellarRoom 1) →
        ∃ t g, exec (.fillL1 place line) s = .next t ∧ t = { s with l1 := t.l1, guests := t.guests } ∧ t.l1.head? = some g ∧
          g.place = place ∧ g.line = line ∧ g.dirty = false ∧
          (g.bytes, g.stale) = (match s.guest? (place / 96) line with
            | some x => if s.homeTile line = place / 96 then (home, []) else (x.bytes, x.stale)
            | none => (home, [])) ∧
          ((s.l1.filter (fun x => x.place == place)).length < l1Lines →
            t.l1 = g :: s.l1.filter (fun x => !(x.place == place && x.line == line))))) ∧
    (∀ b, (if b then s.l1.any (fun x => x.place == place && x.line == line)
        else s.guests.any (fun x => !x.dirty && x.place == place && x.line == line)) = true →
      ∃ t, exec (.drop b place line) s = .next t ∧ t = { s with l1 := t.l1, guests := t.guests } ∧
        (if b then t.l1.any (fun x => x.place == place && x.line == line)
        else t.guests.any (fun x => !x.dirty && x.place == place && x.line == line)) = false ∧
        (∀ g ∈ s.l1 ++ s.guests, (g.place ≠ place ∨ g.line ≠ line) → g ∈ t.l1 ++ t.guests))

namespace Sys2Proof.Machine

/-- A load event of line `line` that may be performed: its issuing group and block stand, nothing holds it (R196, R200), and no byte of
a register is to receive two bytes. -/
def State.mayRead (s : State) (e : IqEv) (bs : List (Nat × Dest)) (acq : Option Scope) (b : Block) (g : Group) (line : Nat) : Prop :=
  s.iq.find? (fun x => x.id == e.id) = some e ∧ (∃ n, e.kind = .load n bs acq) ∧ bs ≠ [] ∧ (∀ p ∈ bs, lineOf p.1 = line) ∧
    Map.find? s.blocks (e.gid / 32) = some b ∧ Map.find? s.groups e.gid = some g ∧
    s.tooEarly e (bs.map Prod.fst).eraseDups = false ∧ ∀ p ∈ bs, ∀ q ∈ bs, p.2 = q.2 → (∀ L, p.2 ≠ .drop L) → p.1 = q.1

/-- The registers of `h` are those of `g` but for the bytes a load names, which hold what it read; and no more of the group than they,
its record of what it has seen, its counters and where its fragments stand has changed. -/
def Group.loaded (g h : Group) (bs : List (Nat × Dest)) (val : Nat → Byte) : Prop :=
  h = { g with v := h.v, s := h.s, seen := h.seen, perf := h.perf, table := h.table, defer := h.defer, trap := h.trap,
               exitAt := h.exitAt } ∧
    (∀ r L k, L < 96 → k < 4 → (h.vGet r L).extractLsb' (8 * k) 8 =
      match bs.find? (fun p => p.2 == .vec r L k) with
      | some p => val p.1
      | none => (g.vGet r L).extractLsb' (8 * k) 8) ∧
    (∀ m k, k < 4 → (h.sGet m).extractLsb' (8 * k) 8 =
      match bs.find? (fun p => p.2 == .sca m k) with
      | some p => val p.1
      | none => (g.sGet m).extractLsb' (8 * k) 8)

/-- After an acquire or fence of a group on a core at a scope (R201), the copies that exist are stale for it according to the scope. -/
def State.staleFor (t : State) (gid core : Nat) (sc : Scope) : Prop :=
  (1 < sc.rank → ∀ c ∈ t.l1, c.place = core → gid ∈ c.stale) ∧
    (3 < sc.rank → ∀ c ∈ t.guests, c.place = core / 96 → c.dirty = false → gid ∈ c.stale)

/-- What a copy holds of a global byte. -/
def Copy.byteAt (c : Copy) (a : Nat) : Byte := c.bytes.getD (a - c.line) 0

/-- The byte that a read of one line by a group finds at each address (R197): of a write of its own in its store queue, or one of its
core's that has risen; else at the owner for a read that needs it; else in the first-level copy, at home when its tile is the
line's, in the guest, or at home; a copy that is stale for the group or behind what it has seen is passed over. Of several writes to
the bytes, and of a line read ahead for an alias (R76), it says nothing. -/
def State.readsFrom (s : State) (e : IqEv) (core : Nat) (as : List Nat) (acq : Option Scope) (val : Nat → Byte) : Prop :=
  let line := lineOf (as.headD 0)
  let owner := e.ord = .so ∨ acq = some .dev ∨ acq = some .sys
  let near := s.unjoined.filter (fun w => w.hits .glob as)
  let seen := s.seenOf e.gid
  let home := s.answers ⟨.glob, line⟩ = true ∧ (∀ a ∈ as, Map.get 0 seen a ≤ Map.get 0 s.ver a) ∧ s.keptPart e.id seen line = none ∧
    val = s.mem.read
  let covers := fun (w : WEv) => (∀ a ∈ as, a ∈ w.bytes.map Prod.fst) ∧ val = w.byte
  (∃ w, near = [w] ∧ w ∈ s.sq ∧ w.gid = e.gid ∧ w.id < e.id ∧ covers w) ∨
  (∃ w, near = [w] ∧ w ∈ s.clv ∧ ¬ owner ∧ w.core = core ∧ (w.gid = e.gid → w.id < e.id) ∧ covers w) ∨
  (near = [] ∧ owner ∧ match s.dirty? line with
    | some c => val = c.byteAt
    | none => home) ∨
  (near = [] ∧ ¬ owner ∧ match (if acq = none then s.l1Copy e.gid core line seen as else none) with
    | some c => val = c.byteAt
    | none =>
      if s.homeTile line = core / 96 then home
      else match s.guestCopy e.gid (core / 96) line seen as with
        | some c => val = c.byteAt
        | none => home)

/-- The last access of an instruction that writes s29 to s31 has been performed: the fragment's lanes are those that the gathered bits keep,
and the others have left it (R111, R245), where some lane stays, no fusion point becomes complete and the block does not end. -/
def State.maskArrives (s t : State) (e : IqEv) (h : Group) : Prop :=
  ∀ c : Iss, { s with cur := ⟨e.gid, e.ent⟩ }.issuer? = some c → e.maskRegs ≠ [] →
    (∀ p ∈ s.iq, p.id ≠ e.id → ¬ (p.gid = e.gid ∧ p.ent = e.ent ∧ p.seq = e.seq)) →
    let kept := maskOf (fun L => bitOf c.f.act L && (!e.maskRegs.contains (29 + L / 32) || (h.sGet (29 + L / 32)).getLsbD (L % 32)))
    kept &&& c.real ≠ 0 → (c.g.without e.ent c.f.fe (c.f.act &&& ~~~kept) s.seq).covered = none →
    (∀ n, t.blockEnd c c.f = some n → c.f.pc < n) → t.fragAt ⟨e.gid, e.ent⟩ = some { c.f with act := kept }

/-- A read has been performed: it has left its queue, and an access to a UO page has passed the acquires that are pending before it
(R219). -/
def State.leftQueue (s t : State) (e : IqEv) : Prop := t.iq = (s.passes e.gid e.seq e.ord).iq.filter (fun x => x.id != e.id)

end Sys2Proof.Machine

/-- R195 to R197, R200, R201: an unheld load puts every byte it names into its register, a scratchpad or slice byte from its place (one
under an alias decoded, R74), a global byte from the first of R197's places that holds it; it changes no other byte of a register, and
no byte of memory unless a full cellar writes a dirty guest back; an acquire leaves copies stale for its group; the lanes that a load
of s29 to s31 clears leave the fragment when its last byte arrives (R111, R245). A fence that everything before it allows is complete,
and leaves copies stale. A pending read of bytes that DRAIN-NT drains, which no write of its core serves, takes what home then holds
(R203). How a line that is read through pages of several kinds is ordered is the model's choice (assumption 61). -/
def Obligations.LoadsAndFencesPerform : Prop :=
  (∀ (s : State) (e : IqEv) (b : Block) (g : Group) (bs : List (Nat × Dest)) (acq : Option Scope) (line : Nat),
    s.mayRead e bs acq b g line →
    (e.sp ≠ .glob → s.answers ⟨e.sp, (bs.map Prod.fst).headD 0⟩ = true → (∀ p ∈ bs, s.poisoned ⟨e.sp, p.1⟩ = false) →
      (∀ w ∈ s.sq, w.gid = e.gid → w.id < e.id → w.sp = e.sp → ∀ p ∈ bs, p.1 ∉ w.bytes.map Prod.fst) →
      ∃ t h, exec (.read e.id) s = .next t ∧ s.leftQueue t e ∧ Map.find? t.groups e.gid = some h ∧
        g.loaded h bs (fun a => s.readHome ⟨e.sp, a⟩) ∧ s.maskArrives t e h ∧ (∀ l, t.homeByte l = s.homeByte l) ∧
        ∀ sc, acq = some sc → t.staleFor e.gid b.core sc) ∧
    (∀ val, e.sp = .glob → line ∉ s.poison → (∀ a, lineOf a = line → s.aliasOf a = none) →
      s.readsFrom e b.core (bs.map Prod.fst).eraseDups acq val →
      ∃ t h, exec (.read e.id) s = .next t ∧ s.leftQueue t e ∧ Map.find? t.groups e.gid = some h ∧
        g.loaded h bs val ∧ s.maskArrives t e h ∧ (s.cellarRoom 1 → ∀ l, t.homeByte l = s.homeByte l) ∧ ∀ sc, acq = some sc → t.staleFor e.gid b.core sc)) ∧
  (∀ (s : State) (e : IqEv) (b : Block) (sc : Scope),
    s.iq.find? (fun x => x.id == e.id) = some e → e.kind = .fence sc → Map.find? s.blocks (e.gid / 32) = some b →
    s.performed e.gid e.seq sc (sc == .dev || sc == .sys) = true →
    ∃ t, exec (.read e.id) s = .next t ∧ t.staleFor e.gid b.core sc ∧ (∀ l, t.homeByte l = s.homeByte l) ∧
      t = { s with iq := s.iq.filter (fun x => x.id != e.id), parts := t.parts, l1 := if 1 < sc.rank then t.l1 else s.l1,
                   guests := if 3 < sc.rank then t.guests else s.guests }) ∧
  (∀ (s : State) (w : WEv) (e : IqEv) (b : Block) (g : Group) (bs : List (Nat × Dest)) (acq : Option Scope),
    let as := w.bytes.map Prod.fst
    s.cbuf.find? (fun x => x.id == w.id) = some w → s.tidy w → s.answers ⟨.glob, w.line⟩ = true → s.ntVisible w = true →
    s.preceded w = false → e.sp = .glob → w.line ∉ s.poison → (∀ a, lineOf a = w.line → s.aliasOf a = none) →
    s.iq.filter (fun p => p.gid == w.gid) = [e] → e.id < w.id → e.meets .glob as = true →
    (∀ n, (s.tileRec n).log.length + 128 + w.bytes.length < logRoom) → s.mayRead e bs acq b g w.line → (∀ p ∈ bs, s.fromWrites e w.core p.1 true = none) → (∀ p ∈ s.parts, p.id ≠ e.id) →
    ∃ t h, exec (.drainNt w.id) s = .next t ∧ t.cbuf = s.cbuf.filter (fun x => x.id != w.id) ∧ s.ownersPut t w ∧ s.leftQueue t e ∧
      Map.find? t.groups e.gid = some h ∧ g.loaded h bs (fun a => t.homeByte ⟨.glob, a⟩))

namespace Sys2Proof.Machine

/-- A read-modify-write of n bytes that may be performed (R195, R204): nothing holds it, its place answers, and its line is neither
poisoned nor under an alias. The fetch-add of a compressing store waits only for accesses to its pointer and for entries that would fall
on it (R188; how it passes an earlier one is the model's, assumption 28). -/
def State.mayUpdate (s : State) (e : IqEv) (at_ n : Nat) (g : Group) : Prop :=
  s.iq.find? (fun x => x.id == e.id) = some e ∧ Map.find? s.groups e.gid = some g ∧ at_ % n = 0 ∧ (n = 4 ∨ n = 8 ∨ n = 16) ∧
    (match e.kind with
      | .stcq _ _ => s.held e.gid e.seq e.ord = false ∧ s.beforeAdd e.gid e.id e.sp e.touches = false ∧
          (e.ord = .so → s.soBefore e.gid e.id = false) ∧ s.entersAvoided e (s.numAt ⟨e.sp, at_⟩ 4) = false
      | _ => s.tooEarly e e.touches = false) ∧
    knownIn s.unjoined e.gid e.id e.sp e.touches = false ∧ s.answers ⟨e.sp, at_⟩ = true ∧
    (e.sp = .glob → s.answers ⟨.glob, lineOf at_⟩ = true) ∧
    (e.sp = .glob ∨ e.sp = .slice → lineOf at_ ∉ s.poison ∧ ∀ a, lineOf a = lineOf at_ → s.aliasOf a = none) ∧ s.memOk

/-- What an update reads: home or P, after WRITEBACK of a dirty guest of the line (R194, R195). -/
def State.oldByte (s : State) (sp : Space) (at_ : Nat) (l : Loc) : Byte :=
  if sp = .glob then s.cleaned none (lineOf at_) l else s.homeByte l
def State.oldAt (s : State) (sp : Space) (at_ n : Nat) : Nat := ofBytes (tab n (fun i => s.oldByte sp at_ ⟨sp, at_ + i⟩))

/-- The bytes that an event updates hold a number; every other byte is as the update found it. -/
def State.updated (s t : State) (e : IqEv) (at_ n new : Nat) : Prop :=
  t.numAt ⟨e.sp, at_⟩ n = new % 2 ^ (8 * n) ∧
    ∀ l, ¬ (sameMem l.sp e.sp ∧ at_ ≤ l.addr ∧ l.addr < at_ + n) → t.homeByte l = s.oldByte e.sp at_ l

/-- A store that its group issued after a compressing store joins the coherence order behind the entries on its bytes (R196). -/
def WEv.behindEntries (w : WEv) (e : IqEv) (ws : List WEv) : WEv :=
  if w.gid = e.gid ∧ e.id + entryIds < w.id then
    { w with pre := (ws.filter (fun x => x.hits w.sp (w.bytes.map Prod.fst))).map WEv.id ++ w.pre }
  else w

/-- The registers of `h` are those of `g` but for one element of n bytes. -/
def Group.elemSet (g h : Group) (d : Dest) (n x : Nat) : Prop :=
  h = { g with v := h.v, s := h.s, seen := h.seen, perf := h.perf, table := h.table, defer := h.defer, trap := h.trap,
               exitAt := h.exitAt } ∧
    match d with
    | .vec r L _ => elemNum n (h.vGet r L) (h.vGet (r + 1) L) = x ∧ (∀ m, h.sGet m = g.sGet m) ∧
      ∀ r' L', L' < 96 → (L' ≠ L ∨ r' < r ∨ r + n / 4 ≤ r') → h.vGet r' L' = g.vGet r' L'
    | .sca r _ => elemNum n (h.sGet r) (h.sGet (r + 1)) = x ∧ (∀ m L, h.vGet m L = g.vGet m L) ∧
      ∀ m, (m < r ∨ r + n / 4 ≤ m) → h.sGet m = g.sGet m
    | _ => (∀ m, h.sGet m = g.sGet m) ∧ ∀ m L, h.vGet m L = g.vGet m L

end Sys2Proof.Machine

/-- R185, R186, R195, R204: an atomic that nothing holds reads and writes its element in one step: memory takes the new value, the vector
or scalar register the old one, and nothing else in any memory changes but by WRITEBACK of the line's dirty guest. So do a barrier's
initialisation and update, which writes the old phase to its scalar (R228, R230), JINIT (R298), and the fetch-add of STCQ, which then
writes its two scalars and enters its entries as stores, in front of what its group has stored to their bytes since (R188, R196); an
arrival with none outstanding ends its block. Then the new values of memory from its old value and the operand: of the integer
atomics on 32 bits, signed (VAR 0) or unsigned (VAR 1), on 64 bits (VAR 2) and on two halves (VAR 3), and of FADD, rounded to nearest
even in the variant's format (R185, R186). How a fetch-add passes an earlier compressing store is the model's (assumption 28). -/
def Obligations.AtomicsReadModifyWrite : Prop :=
  (∀ (s : State) (e : IqEv) (g : Group) (at_ : Nat),
     (∀ a : AtomReq, e.kind = .atom at_ a → a.n ≠ 16 → s.mayUpdate e at_ a.n g →
       (∃ r i, (∃ L, L < 96 ∧ a.dest = .vec r L i) ∨ a.dest = .sca r i) →
       let old := s.oldAt e.sp at_ a.n
       ∃ t h, exec (.atomic e.id) s = .next t ∧ s.leftQueue t e ∧ s.maskArrives t e h ∧
         s.updated t e at_ a.n (if a.op = .cas ∧ old ≠ a.cmp then old else a.value old) ∧
         Map.find? t.groups e.gid = some h ∧ g.elemSet h a.dest a.n old) ∧
     (∀ op : BarOp, e.kind = .bar at_ op → s.mayUpdate e at_ 16 g →
       let old := s.oldAt e.sp at_ 16
       (∀ n, op = .init n → ∃ t h, exec (.atomic e.id) s = .next t ∧ s.leftQueue t e ∧
         s.updated t e at_ 16 (Bar.pack ⟨false, n, n, 0⟩ old) ∧
         Map.find? t.groups e.gid = some h ∧ g.elemSet h (.drop 0) 16 0) ∧
       (∀ n bytes dest, op = .update n bytes dest → (n ≠ 0 → s.performed e.gid e.seq .cls false = true) →
         (n = 0 ∨ (barOf old).rem ≠ 0 → ∃ t h, exec (.atomic e.id) s = .next t ∧ s.leftQueue t e ∧
           s.updated t e at_ 16 (((barOf old).update n bytes).pack old) ∧ Map.find? t.groups e.gid = some h ∧
           g.elemSet h (match dest with | some r => .sca r 0 | none => .drop 0) 4 (if (barOf old).phase then 1 else 0)) ∧
         (∀ b, n ≠ 0 → (barOf old).rem = 0 → s.assisted 3 = false → Map.find? s.blocks (e.gid / 32) = some b → b.st = .running →
           ∃ t b', exec (.atomic e.id) s = .next t ∧ Map.find? t.blocks (e.gid / 32) = some b' ∧ b'.st = .ending ∧
             b'.cause = causeBarrier))) ∧
     (e.kind = .jinit at_ → s.mayUpdate e at_ 16 g → ∃ t h, exec (.atomic e.id) s = .next t ∧ s.leftQueue t e ∧
       s.updated t e at_ 16 0 ∧ Map.find? t.groups e.gid = some h ∧ g.elemSet h (.drop 0) 16 0) ∧
     (∀ (q : StcqReq) (c : Iss), e.kind = .stcq at_ q → s.mayUpdate e at_ 4 g → s.issOf e.gid e.ent = some c →
       let old := s.oldAt e.sp at_ 4
       let off := fun (k : Nat) => q.disp + 4 * ((old : Int) + k)
       let hnd := c.handle q.handle
       let pass := s.passes e.gid e.seq e.ord
       ∃ t, exec (.atomic e.id) s = .next t ∧ s.updated t e at_ 4 (old + q.cnt) ∧
         let u := { t with tlb1 := s.tlb1, tlb2 := s.tlb2 }
         let reach := fun l o => ∃ k i, k < q.data.length ∧ i < 4 ∧ u.place c hnd q.lane ((off k).toNat + i) .w = some (l, o)
         (q.data.length ≤ 96 → (∀ w ∈ s.sq, w.gid = e.gid → w.id ≤ e.id ∨ e.id + entryIds < w.id) →
           (∀ k, k < q.data.length → u.failure c hnd true .store 1 ⟨q.lane, ((q.data.map Prod.fst).getD k 0), off k, 4⟩ = none) →
           ∃ h ws, Map.find? t.groups e.gid = some h ∧ h.sGet q.dst = BitVec.ofNat 32 old ∧ h.sGet (q.dst + 1) = BitVec.ofNat 32 q.cnt ∧
             (∀ m, m ≠ q.dst → m ≠ q.dst + 1 → h.sGet m = g.sGet m) ∧ (∀ m L, h.vGet m L = g.vGet m L) ∧ s.maskArrives t e h ∧
             t.iq = (pass.addFirst e.gid e.id ⟨e.sp, at_⟩).iq.filter (fun x => x.id != e.id) ∧
             t.sq = s.sq.map (fun w => w.behindEntries e ws) ++ ws ∧
             (∀ w ∈ ws, w.gid = c.cur.gid ∧ w.core = c.b.core ∧ w.seq = e.seq ∧ w.rel = none ∧
               kindOfLine (reachedBy reach w.sp w.line) w.ord ∧
               ∀ x ∈ s.unjoined, x.known e.gid = true → (x.gid ≠ e.gid ∨ x.id ≤ e.id) → x.hits w.sp (w.bytes.map Prod.fst) = true →
                 x.id ∈ w.pre) ∧
             ∀ l b, (∃ w ∈ ws, w.holdsByte l b) ↔ ∃ k i o, k < q.data.length ∧ i < 4 ∧
               u.place c hnd q.lane ((off k).toNat + i) .w = some (l, o) ∧
               b = ((q.data.map Prod.snd).getD k 0).extractLsb' (8 * i) 8 ∧
               ∀ k' i' o', k' < q.data.length → i' < 4 → u.place c hnd q.lane ((off k').toNat + i') .w = some (l, o') →
                 k' < k ∨ (k' = k ∧ i' ≤ i)))) ∧
  (∀ (v : BitVec 2) (x y z : Word) (d : Dest), v = 0 ∨ v = 1 →
     let val := fun (op : AOp) => BitVec.ofNat 32 (AtomReq.value ⟨op, v, 4, y.toNat, z.toNat, d⟩ x.toNat)
     val .add = x + y ∧ val .and = x &&& y ∧ val .or = x ||| y ∧ val .xor = x ^^^ y ∧ val .xchg = y ∧
       val .cas = (if x = z then y else x) ∧ val .min = elemMin 32 (v == 1) x y 0 ∧ val .max = elemMax 32 (v == 1) x y 0) ∧
  (∀ (x y z : DWord) (d : Dest),
     let val := fun (op : AOp) => BitVec.ofNat 64 (AtomReq.value ⟨op, 2, 8, y.toNat, z.toNat, d⟩ x.toNat)
     val .add = x + y ∧ val .and = x &&& y ∧ val .or = x ||| y ∧ val .xor = x ^^^ y ∧ val .xchg = y ∧
       val .cas = (if x = z then y else x) ∧ val .min = elemMin 64 false x y 0 ∧ val .max = elemMax 64 false x y 0) ∧
  (∀ (x y : Word) (d : Dest) (op : AOp) (f : ElemOp),
     (op = .add ∧ f = (fun _ _ a b _ => a + b)) ∨ (op = .min ∧ f = elemMin) ∨ (op = .max ∧ f = elemMax) →
     BitVec.ofNat 32 (AtomReq.value ⟨op, 3, 4, y.toNat, 0, d⟩ x.toNat) = lo32 (elementwise 3 f (x.zeroExtend 64) (y.zeroExtend 64) 0)) ∧
  (∀ (v : BitVec 2) (n x y : Nat) (d : Dest),
     let f := (floatTy v).fmt
     let el := fun (i : Nat) =>
       (f.round 0 false 0 (opAdd 0 (f.unpack (x / 2 ^ (f.bits * i) % 2 ^ f.bits)) (f.unpack (y / 2 ^ (f.bits * i) % 2 ^ f.bits))).1).1
     AtomReq.value ⟨.fadd, v, n, y, 0, d⟩ x = if v = 1 ∨ v = 2 then el 0 + 65536 * el 1 else el 0)

/-! ## Transfers, batches and engine threads -/

namespace Sys2Proof.Machine

/-- A thread forked by the issuing fragment, that has moved nothing yet (R207). -/
def Engine.forkedBy (x : Engine) (s : State) (c : Iss) (sigma : Scope) (src dst : EndPt) (n : Nat) (done : Compl) : Prop :=
  x.gid = c.cur.gid ∧ x.ent = c.cur.ent ∧ x.core = c.b.core ∧ x.tile = c.tile ∧ x.ctx = c.l.ctx ∧ x.seq = s.seq ∧ x.sigma = sigma ∧ x.src = src ∧ x.dst = dst ∧
    x.n = n ∧ x.done = done ∧ x.got = [] ∧ x.wrote = [] ∧ x.seen = [] ∧ x.site = c.f.site c.own

/-- What a transfer leaves at issue: one new thread, in the open set when it completes a batch, and nothing else: no register and no
byte of memory. -/
def State.forks (s t : State) (c : Iss) (x : Engine) (open_ : Bool) : Prop :=
  (∃ h, { s with engines := t.engines, nextId := t.nextId }.wrote t c.cur.gid h ∧ c.g.ticked h c.own ∧
    h = { c.g with openSet := if open_ then c.g.openSet ++ [(s.nextId, x.sigma)] else c.g.openSet, icnt := h.icnt, perf := h.perf }) ∧
  (∀ n, Map.find? t.engines n = if n = s.nextId then some x else Map.find? s.engines n) ∧ (∀ l, t.homeByte l = s.homeByte l)

/-- The barrier object of a .bar form passes its checks, and lies at `l` (R218, R222, R230). -/
def State.barrierOk (s : State) (c : Iss) (w : Word) (l : Loc) : Prop :=
  s.failure c (c.handle (wordOpnd w).idx) true .atomic 16 ⟨none, noLane, (wordOpnd w).off, 16⟩ = none ∧
    (2 = (c.handle (wordOpnd w).idx).space ∨ 3 = (c.handle (wordOpnd w).idx).space) ∧
    ∃ o, s.place c (c.handle (wordOpnd w).idx) none (wordOpnd w).off .w = some (l, o)

end Sys2Proof.Machine

/-- R216 to R225: with room in the copy queue and every operand sound, CPY, CPY.bar, CPYT, CPYT.bar and CPYS fork one engine thread
between the places they name, which completes the open batch, a barrier's credit of the bytes moved, or a counter's add; while the
queue is full they, and COLR, wait with nothing changed. R236 to R238: with a sound descriptor, read as the group reads, COLR forks a
thread for the next place of its set's order: of all-reduce, reduce-scatter or all-gather, over the bytes that the kind takes, to
complete its batch or to add to a counter. That a COLR's thread counts among the 128 of the queue is the model's choice (assumption
50), and so are some of the checks of operands that R216 to R224 leave open (assumption 62). -/
def Obligations.TransfersForkEngineThreads : Prop :=
  ((∀ (s : State) (c : Iss) (e : Enc) (i : Instr), i ∈ [.cpy e, .cpyBar e, .cpyt e, .cpytBar e, .cpys e, .colr e] → s.legal c i →
     s.queueFull c.b.core = true → ∃ t, exec i s = .next t ∧ s.moved t) ∧
   ∀ (s : State) (c : Iss) (e : Enc), s.queueFull c.b.core = false →
     let d := c.copyOpnd e.dst
     let a := c.copyOpnd e.a
     let w := fun (j : Nat) => c.s (e.b.toNat - 0x40 + j)
     (s.legal c (.cpy e) → ∀ n, n = (c.sa e e.b .n32).toNat % 2 ^ 32 → s.opndFailure c a .load 1 n = none →
       s.opndFailure c d .store 1 n = none →
       ∃ t x, exec (.cpy e) s = .next t ∧ s.forks t c x true ∧ x.kind = .copy ∧
         x.forkedBy s c .dev (s.endPt c a) (s.endPt c d) n .batch) ∧
     (s.legal c (.cpyBar e) → ∀ n l, n = (w 0).toNat → s.opndFailure c a .load 1 n = none → s.opndFailure c d .store 1 n = none →
       s.barrierOk c (w 1) l →
       ∃ t x, exec (.cpyBar e) s = .next t ∧ s.forks t c x false ∧ x.kind = .copy ∧
         x.forkedBy s c .cls (s.endPt c a) (s.endPt c d) n (.credit l n)) ∧
     (s.legal c (.cpys e) → ∀ n, n = (w 0).toNat → s.opndFailure c a .load 1 n = none → s.opndFailure c d .store 1 n = none →
       (w 1).toNat < 256 → s.failure c (c.handle (w 1).toNat) true .atomic 4 ⟨none, noLane, (w 2).toNat, 4⟩ = none →
       ∃ t x, exec (.cpys e) s = .next t ∧ s.forks t c x true ∧ x.kind = .copy ∧
         x.forkedBy s c (scopeOf e.var) (s.endPt c a) (s.endPt c d) n (.counter (s.endPt c ⟨(w 1).toNat, true, (w 2).toNat⟩) (w 3))) ∧
     (∀ (src : Opnd) (b : Box), src = ⟨if e.a.toNat < 0x40 then e.a.toNat else (c.s (e.a.toNat - 0x40)).toNat, true, 0⟩ →
       src.idx < 256 → (c.handle src.idx).kind = 2 → (c.handle src.idx).space ≠ 4 → (c.handle src.idx).rd = true →
       b = boxOf (c.handle src.idx) w d.off → s.boxFailure c (c.handle src.idx) b = none → boxBad (c.handle src.idx) w b = false →
       s.opndFailure c { d with off := b.doff / b.span * b.span } .store 1
         ((b.doff + b.bytes + b.span - 1) / b.span * b.span - b.doff / b.span * b.span) = none →
       (s.legal c (.cpyt e) →
         ∃ t x, exec (.cpyt e) s = .next t ∧ s.forks t c x true ∧ x.kind = .box b ∧
           x.forkedBy s c .dev (s.endPt c src) (s.endPt c { d with off := 0 }) b.bytes .batch) ∧
       (s.legal c (.cpytBar e) → ∀ l, s.barrierOk c (w 4) l →
         ∃ t x, exec (.cpytBar e) s = .next t ∧ s.forks t c x false ∧ x.kind = .box b ∧
           x.forkedBy s c .cls (s.endPt c src) (s.endPt c { d with off := 0 }) b.bytes (.credit l b.bytes)))) ∧
  (∀ (s s' : State) (c : Iss) (e : Enc) (bs : List Byte) (g : Group), s.legal c (.colr e) → s.queueFull c.b.core = false →
     let h := c.handle (c.memHandle e e.b).1
     let off := c.off e 0
     let x := ofBytes bs
     let kind := descField x 0 4
     let ty := descField x 8 4
     let count := descField x 32 32
     let bytes := fun (whole : Nat) => (if kind = whole then (s.collSet (descField x 12 12)).members.length * count else count) * collElem ty
     let kh := descField x 80 8
     let ko := descField x 160 32
     (c.memHandle e e.b).2.1 = true → s.failure c h true .load 1 ⟨none, noLane, off, 64⟩ = none →
     s.failure c h true .store 1 ⟨none, noLane, off + 28, 4⟩ = none →
     s.readSync c none ((s.bytesAt c h ⟨none, noLane, off, 64⟩ .r).map (fun b => (b.2.1, b.2.2))) = .got s' bs →
     Map.find? s'.groups c.cur.gid = some g → s'.queueFull c.b.core = false → s.collBad x = false →
     s.opndFailure c ⟨descField x 64 8, true, descField x 96 32⟩ .load 1 (bytes 1) = none →
     s.opndFailure c ⟨descField x 72 8, true, descField x 128 32⟩ .store 1 (bytes 2) = none →
     (kh ≠ 0 → s.failure c (c.handle kh) true .atomic 4 ⟨none, noLane, ko, 4⟩ = none) →
     ∃ t y k, exec (.colr e) s = .next t ∧ Map.find? t.engines s'.nextId = some y ∧ y.kind = .coll k ∧ y.n = bytes 1 ∧
       y.gid = c.cur.gid ∧ y.seq = s.seq ∧ y.sigma = scopeOf e.var ∧ y.got = [] ∧ y.wrote = [] ∧
       y.done = (if kh = 0 then .batch else .counter (s.endPt c ⟨kh, true, ko⟩) (BitVec.ofNat 32 (descField x 192 32))) ∧
       y.src = s.endPt c ⟨descField x 64 8, true, descField x 96 32⟩ ∧ y.dst = s.endPt c ⟨descField x 72 8, true, descField x 128 32⟩ ∧
       k.kind = kind ∧ k.set = descField x 12 12 ∧ k.count = count ∧ k.ty = ty ∧ k.told = false ∧ k.op = descField x 4 4 ∧ k.order = (s.collSet k.set).issued ∧ (t.collSet k.set).issued = k.order + 1)

/-- R226: CBAT closes the open set under the next batch number, which it writes; CTEST writes 1 exactly when every thread of the
batches it names has completed; CWAIT then goes on, and before that waits with nothing changed. -/
def Obligations.BatchesCountAndWait : Prop :=
  (∀ (s : State) (c : Iss) (e : Enc), s.legal c (.cbat e) →
    let n : Word := if c.g.lastb = 0xFFFF_FFFF then 1 else c.g.lastb + 1
    ∃ t h, exec (.cbat e) s = .next t ∧ s.wrote t c.cur.gid h ∧ c.g.ticked h c.own ∧
      h = { c.g with s := h.s, lastb := n, batches := c.g.batches ++ [(n.toNat, c.g.openSet)], openSet := [], icnt := h.icnt,
                     perf := h.perf } ∧
      let f := fun (m : Nat) => scalarDest e.dst false (n.zeroExtend 64) m (c.s m)
      (∀ m, m < 29 → h.sGet m = f m) ∧ s.leaves t c h e.units (fun L => (f (29 + L / 32)).getLsbD (L % 32))) ∧
  (∀ (s : State) (c : Iss) (e : Enc),
    let n := min ((c.sa e e.a .n32).toNat % 2 ^ 32) c.g.lastb.toNat
    let done := ∀ p ∈ c.g.batches, 1 ≤ p.1 → p.1 ≤ n → ∀ x ∈ p.2, Map.find? s.engines x.1 = none
    (s.legal c (.ctest e) → ∃ t v, exec (.ctest e) s = .next t ∧
      { s with l1 := t.l1, guests := t.guests }.scalarsSet t c e.units (fun m => scalarDest e.dst false v m (c.s m)) ∧
      (done → v = 1) ∧ (¬ done → v = 0)) ∧
    (s.legal c (.cwait e) → done → ∃ t h, exec (.cwait e) s = .next t ∧
      { s with l1 := t.l1, guests := t.guests }.wrote t c.cur.gid h ∧ c.g.counted h ∧ c.g.ticked h c.own) ∧
    (s.legal c (.cwait e) → ¬ done → ∃ t, exec (.cwait e) s = .next t ∧ s.moved t))

namespace Sys2Proof.Machine

/-- `t` is `s` but for the traffic of an access (R291 to R294, R367): links, budgets and tokens, and counters of PERFRD. -/
def State.carried (s t : State) : Prop :=
  t = { s with links := t.links, budgets := t.budgets, ctxs := t.ctxs, fresh := t.fresh, groups := t.groups,
               regs := { s.regs with boost := t.regs.boost } } ∧
    (∀ n, { t.ctx n with tokens := 0 } = { s.ctx n with tokens := 0 }) ∧
    ∀ n, OptRel (fun g h => h = { g with perf := h.perf }) (Map.find? s.groups n) (Map.find? t.groups n)

/-- A write of an engine thread's own to a line (R207). -/
def Engine.write (x : Engine) (id line : Nat) (bs : List (Nat × Byte)) : WEv :=
  ⟨0, engKey id, x.core, x.tile, x.seq, .glob, line, .rc, none, bs, [], [], false, x.cls.2⟩

/-- Bytes written at a place: at P for a scratchpad or a slice, else what the owner reads from then on (R194, R207). -/
def State.engWrote (s t : State) (l : Loc) (w : WEv) : Prop :=
  if l.sp = .glob then s.ownersPut t w else s.bytesPut t l.sp w.bytes

/-- The byte that a thread may write next: the one it read, or of a collective the result once the whole source is read (R207, R237). -/
def State.writesNext (s : State) (i : Nat) (x : Engine) (b : Byte) : Prop :=
  match x.kind with
  | .coll k => k.link = false ∧ k.timed = false ∧ k.matched (s.collSet k.set) = true ∧ x.n ≤ x.got.length ∧
      i < k.dstBytes (s.collSet k.set).members.length ∧
      b = (toBytes (collElem k.ty) (k.result (s.collSet k.set) x.got (i / collElem k.ty))).getD (i % collElem k.ty) 0
  | _ => i < x.n ∧ x.got.find? (fun p => p.1 == i) = some (i, b)

/-- A thread has written everything, a collective its STATUS too (R207, R238). -/
def State.written (s : State) (x : Engine) : Prop :=
  s.engBytes x ≤ x.wrote.length ∧ ∀ k, x.kind = .coll k → k.told = true

end Sys2Proof.Machine

/-- R207, R220, R224, R225, R230, R237, R238: E-READ takes the source byte a thread may read, zero outside a tensor, a global byte as a
read at its tile; E-WRITE puts it, or a byte of a collective's result, where the destination byte lies and changes no other byte; a
collective that has written everything writes its STATUS; COMPLETE of a thread ends it, and credits its barrier or adds to its counter,
once what its group did to those bytes before has been performed (R204); a time-out or a failed link gives a collective that still forms its result STATUS 3 or 1. -/
def Obligations.EngineThreadsMoveBytes : Prop :=
  (∀ (s : State) (id i : Nat) (x : Engine), Map.find? s.engines id = some x → i < x.n → x.has i = false →
    (x.srcOff i = none → ∃ t, exec (.eRead id i) s = .next t ∧ { s with engines := t.engines }.carried t ∧
      Map.find? t.engines id = some { x with got := Map.put x.got i 0 }) ∧
    (∀ off l, x.srcOff i = some off → s.endLoc x x.src off .r = .at_ l → s.engEarly x l false = false →
      (l.sp ≠ .glob → s.answers l = true → s.poisoned l = false →
        ∃ t, exec (.eRead id i) s = .next t ∧ { s with engines := t.engines }.carried t ∧
        Map.find? t.engines id = some { x with got := Map.put x.got i (s.readHome l) }) ∧
      (l.sp = .glob → lineOf l.addr ∉ s.poison → (∀ a, lineOf a = lineOf l.addr → s.aliasOf a = none) →
        let seen := match Map.find? s.groups x.gid with
          | some g => g.seen
          | none => x.seen
        let home := fun (b : Byte) => s.answers ⟨.glob, lineOf l.addr⟩ = true ∧ Map.get 0 seen l.addr ≤ Map.get 0 s.ver l.addr ∧
          s.keptPart (engKey id) seen (lineOf l.addr) = none ∧ b = s.mem.read l.addr
        ∀ b, (if s.homeTile (lineOf l.addr) = x.tile then home b
          else match s.guestCopy x.gid x.tile (lineOf l.addr) seen [l.addr] with
            | some y => b = y.byteAt l.addr
            | none => home b) →
          ∃ t, exec (.eRead id i) s = .next t ∧ Map.find? t.engines id = some { x with got := Map.put x.got i b } ∧
            (s.cellarRoom 1 →
              { s with engines := t.engines, guests := t.guests, tlb1 := t.tlb1, tlb2 := t.tlb2, parts := t.parts }.carried t)))) ∧
  (∀ (s : State) (id i : Nat) (x : Engine) (l : Loc) (b : Byte), Map.find? s.engines id = some x → i ∉ x.wrote →
    s.writesNext i x b → s.endLoc x x.dst (x.dstOff i) .w = .at_ l → s.engEarly x l true = false → s.answers l = true →
    s.memOk → (l.sp = .glob → s.tidy (x.write id (lineOf l.addr) [(l.addr, b)])) → (l.sp = .slice → s.aliasOf l.addr = none) →
    ∃ t y, exec (.eWrite id i) s = .next t ∧ s.engWrote t l (x.write id (lineOf l.addr) [(l.addr, b)]) ∧
      Map.find? t.engines id = some y ∧ y = { x with wrote := i :: x.wrote, got := y.got } ∧
      (y.got = x.got ∨ y.got = x.got.filter (fun p => p.1 != i))) ∧
  (∀ (s : State) (id a : Nat) (sp : Space) (x : Engine) (k : Coll), Map.find? s.engines id = some x → x.kind = .coll k →
    s.engBytes x ≤ x.wrote.length → k.told = false → a % 4 = 0 →
    (∀ j, j < 4 → s.endLoc x k.stat j .w = .at_ ⟨sp, a + j⟩ ∧ s.answers ⟨sp, a + j⟩ = true ∧ s.engEarly x ⟨sp, a + j⟩ true = false) →
    let w := x.write id (lineOf a) (tab 4 (fun j => (a + j, (toBytes 4 (k.status (s.collSet k.set))).getD j 0)))
    s.memOk → (sp = .glob → s.tidy w) → (sp = .slice → ∀ j, j < 4 → s.aliasOf (a + j) = none) →
    ∃ t, exec (.engineComplete id) s = .next t ∧ s.engWrote t ⟨sp, a⟩ w ∧
      Map.find? t.engines id = some { x with kind := .coll { k with told := true } }) ∧
  (∀ (s : State) (id : Nat) (x : Engine), Map.find? s.engines id = some x → s.written x →
    s.engPerformed id x.sigma = true → s.memOk →
    (∀ p addend l, x.done = .counter p addend → s.endLoc x p 0 .w = .at_ l → s.answers l = true → l.addr % 4 = 0 →
      s.engHeld x l 4 = false → s.acquiring x l = false → (l.sp = .glob → s.answers ⟨.glob, lineOf l.addr⟩ = true) →
      (l.sp = .glob ∨ l.sp = .slice → lineOf l.addr ∉ s.poison ∧ ∀ a, lineOf a = lineOf l.addr → s.aliasOf a = none) →
      ∃ t, exec (.engineComplete id) s = .next t ∧ Map.find? t.engines id = none ∧
        t.numAt l 4 = (s.oldAt l.sp l.addr 4 + addend.toNat) % 2 ^ 32 ∧
        ∀ m, ¬ (sameMem m.sp l.sp ∧ l.addr ≤ m.addr ∧ m.addr < l.addr + 4) → t.homeByte m = s.oldByte l.sp l.addr m) ∧
    (x.done = .batch → ∃ t, exec (.engineComplete id) s = .next t ∧ t = { s with engines := t.engines } ∧
      Map.find? t.engines id = none) ∧
    (∀ l n, x.done = .credit l n → l.sp ≠ .glob → s.answers l = true → s.engHeld x l 16 = false →
      (l.sp = .slice → ∀ j, j < 16 → s.aliasOf (l.addr + j) = none) →
      ∃ t, exec (.engineComplete id) s = .next t ∧ Map.find? t.engines id = none ∧
        let b := barOf (s.numAt l 16)
        let b' := barOf (t.numAt l 16)
        b'.pend = b.pend - BitVec.ofNat 32 n ∧ b'.init = b.init ∧
        (if b.rem = 0 ∧ b'.pend = 0 then b'.phase = !b.phase ∧ b'.rem = b.init else b'.phase = b.phase ∧ b'.rem = b.rem))) ∧
  (∀ (k : Coll) (set : CollSet) (got : List (Nat × Byte)) (i : Nat), set.members ≠ [] → k.ty = 4 ∨ k.ty = 5 → k.op = 0 → k.kind < 2 →
    k.result set got i = ((List.range set.members.length).map
      (fun m => k.srcElem set got m (if k.kind = 1 then set.rank * k.count + i else i))).sum % 2 ^ 32) ∧
  (∀ (s : State) (id : Nat) (x : Engine) (k : Coll), Map.find? s.engines id = some x → x.kind = .coll k → x.wrote = [] →
    k.link = false → k.timed = false → 1 < (s.collSet k.set).members.length →
    (∃ t y, exec (.collTimeout id) s = .next t ∧ t = { s with engines := t.engines } ∧ Map.find? t.engines id = some y ∧
      ∃ k', y.kind = .coll k' ∧ k'.status (s.collSet k.set) = 3) ∧
    (∃ t y, exec (.deviceLinkFail id) s = .next t ∧ t = { s with engines := t.engines } ∧ Map.find? t.engines id = some y ∧
      ∃ k', y.kind = .coll k' ∧ k'.status (s.collSet k.set) = 1))

/-! ## Barriers -/

/-- R227 to R229, R232: BARI, BARX, BARA and BARA.x on a sound object put one update of it into IQ(g): an initialisation with 1 to
65,535 arrivals, bytes expected, one arrival, or both. -/
def Obligations.BarrierUpdatesEnterIssueQueue : Prop :=
  ∀ (s : State) (c : Iss) (i : Instr) (e : Enc) (op : BarOp), s.legal c i →
    let w := lo32 (c.sa e e.dst .n32)
    (i = .bari e ∧ op = .init w.toNat ∧ 0 < w.toNat ∧ w.toNat < 65536 ∨ i = .barx e ∧ op = .update 0 w none ∨
      i = .bara e ∧ op = .update 1 0 (some (e.dst.toNat - 0x40)) ∨ i = .baraX e ∧ op = .update 1 w (some (e.dst.toNat - 0x40))) →
    let x : LaneAccess := ⟨e, fun c _ => c.off e 0, false, 16, 16, none⟩
    x.cause s c .atomic 0 = none → ((c.target e).h.space = 2 ∨ (c.target e).h.space = 3) →
    ∃ t es h, exec i s = .next t ∧ s.entered t es [] [] c.cur.gid h ∧ c.g.counted h ∧ c.g.ticked h c.own ∧ ownEvents s c c.own es ∧
      es.map (fun v => (v.sp, v.ord, v.kind)) = ((x.at s c .atomic 0 0).map (fun l => (l.1.sp, l.2, IqKind.bar l.1.addr op))).toList ∧
      (∀ l, t.homeByte l = s.homeByte l)

/-- R228: an update takes arrivals off REM and adds bytes to PEND, each wrapping; when both reach zero the phase turns and REM starts
again from INIT. R229, R230: BARW goes on once the phase it reads differs from the number it holds, and before that waits with no register changed;
BARW.t goes on either way with 1 or 0. -/
def Obligations.BarrierTurnsAndWaits : Prop :=
  (∀ (b : Bar) (n : Nat) (bytes : Word), b.rem < 65536 → b.init < 65536 → n ≤ 1 →
     let r := (BitVec.ofNat 16 b.rem - BitVec.ofNat 16 n).toNat
     b.update n bytes = if r = 0 ∧ b.pend + bytes = 0 then ⟨!b.phase, b.init, b.init, b.pend + bytes⟩ else ⟨b.phase, r, b.init, b.pend + bytes⟩) ∧
  (∀ (s s' : State) (c : Iss) (e : Enc) (l : Loc × PageKind) (bs : List Byte),
     s.barObject c e .load = (none, some l) → s.phaseNow c l none = .got s' bs →
     Map.find? s'.groups c.cur.gid = some c.g →
     let moved := (barOf (ofBytes bs)).phase ≠ (lo32 (c.sa e e.dst .n32)).getLsbD 0
     (s.legal c (.barw e) → moved → ∃ t h, exec (.barw e) s = .next t ∧ { s' with l1 := t.l1 }.wrote t c.cur.gid h ∧ c.g.counted h ∧
       c.g.ticked h c.own) ∧
     (s.legal c (.barw e) → ¬ moved → ∃ t, exec (.barw e) s = .next t ∧ s.moved t) ∧
     (s.legal c (.barwT e) → ∃ t v, exec (.barwT e) s = .next t ∧
       { s' with l1 := t.l1 }.scalarsSet t c e.units (fun m => scalarDest e.dst false v m (c.s m)) ∧
       (moved → v = 1) ∧ (¬ moved → v = 0)))

namespace Sys2Proof.Machine

/-- Whether block barrier n's phase, or the cluster barrier's, is complete in `s` with the issuing group as `g`: every group concerned has
arrived, and what it did before its lanes exited is performed at the barrier's scope (R234, R235). -/
def State.allArrived (s : State) (c : Iss) (bids : List Nat) (g : Group) (sc : Scope) (arrived : Group → Bool) : Prop :=
  ∀ p ∈ s.groups, p.1 / 32 ∈ bids → arrived (if p.1 = c.cur.gid then g else p.2) = true ∧ s.performed p.1 p.2.exitAt sc false = true

/-- No arrival of a barrier of the fragment's block or cluster is still to be settled, and no key stands twice. -/
def State.settled (s : State) (c : Iss) : Prop :=
  s.settleAll c.bid = s ∧ (s.blocks.map Prod.fst).Nodup ∧ (s.groups.map Prod.fst).Nodup ∧ c.bid ∈ s.clusterOf c.bid

/-- The fragment has gone past its instruction, or stands at it, with the same lanes. -/
def State.stands (t : State) (c : Iss) (pc : Nat) (park : Option (Nat × Nat)) : Prop :=
  ∃ f, t.fragAt c.cur = some f ∧ f.pc = pc ∧ f.act = c.f.act ∧ f.park = park

end Sys2Proof.Machine

/-- R233 to R235: BSYNC and CLSYNC, once the group's earlier accesses are performed, join the fragment's lanes to those that have arrived
and park there; BART goes on at once, counted, its lanes joining when the accesses before it are performed. When with them every group
has arrived, by its lanes or by their EXIT, and no block of the cluster waits to be placed again, the phase turns, and no lane stands in it. A parked fragment goes on, counted, once the phase it waits for has turned, and
until then waits. Before the earlier accesses are performed BSYNC and CLSYNC do nothing. -/
def Obligations.BlockBarriersGatherLanes : Prop :=
  ∀ (s : State) (c : Iss) (e : Enc), s.settled c → c.f.act ≠ 0 → (c.f.park = none →
    (let n := (c.sa e e.a .n32).toNat % 2 ^ 32
     let phase := Map.get 0 c.b.bars n
     let joined := Map.get 0 c.g.barArr n ||| c.f.act
     let turns := s.allArrived c [c.bid] { c.g with barArr := Map.put c.g.barArr n joined } .blk (fun g => g.arrived n)
     let gathered := fun (t : State) (h : Group) => ∃ b, Map.find? t.groups c.cur.gid = some h ∧ Map.find? t.blocks c.bid = some b ∧
       (turns → Map.get 0 b.bars n = phase + 1 ∧ Map.get 0 h.barArr n = 0) ∧
       (¬ turns → Map.get 0 b.bars n = phase ∧ Map.get 0 h.barArr n = joined)
     n < c.l.desc.bars → n < 16 → c.g.standing n &&& c.f.act = 0 →
     (s.legal c (.bart e) → c.f.latch = [] → (∀ k, s.blockEnd c c.f = some k → c.f.pc + 4 * e.units < k) →
       ∃ t h, exec (.bart e) s = .next t ∧ Map.find? t.groups c.cur.gid = some h ∧ c.g.ticked h c.own ∧
         t.stands c (c.f.pc + 4 * e.units) none ∧
         (if s.performed c.cur.gid s.seq .blk false then gathered t h
          else h.barWait = c.g.barWait ++ [(n, s.seq, c.f.act)] ∧ Map.get 0 h.barArr n = Map.get 0 c.g.barArr n)) ∧
     (s.legal c (.bsync e) →
       (s.performed c.cur.gid s.seq .blk false = true → ∃ t h, exec (.bsync e) s = .next t ∧ gathered t h ∧ h.icnt = c.g.icnt ∧
         t.stands c c.f.pc (some (n, phase))) ∧
       (s.performed c.cur.gid s.seq .blk false = false → exec (.bsync e) s = .next s))) ∧
    (s.legal c (.clsync e) → c.g.clArr &&& c.f.act = 0 →
      (s.performed c.cur.gid s.seq .cls false = false → exec (.clsync e) s = .next s) ∧
      (s.performed c.cur.gid s.seq .cls false = true → ∃ t h b, exec (.clsync e) s = .next t ∧
        Map.find? t.groups c.cur.gid = some h ∧ Map.find? t.blocks c.bid = some b ∧ h.icnt = c.g.icnt ∧
        t.stands c c.f.pc (some (clusterBar, c.b.clPhase)) ∧
        let turns := s.clusterAway c.bid = false ∧
          s.allArrived c (s.clusterOf c.bid) { c.g with clArr := c.g.clArr ||| c.f.act } .cls Group.clArrived
        (turns → b.clPhase = c.b.clPhase + 1 ∧ h.clArr = 0) ∧
        (¬ turns → b.clPhase = c.b.clPhase ∧ h.clArr = c.g.clArr ||| c.f.act)))) ∧
  (∀ m p, c.f.park = some (m, p) →
    (m < 16 → s.legal c (.bsync e) →
      (Map.get 0 c.b.bars m ≠ p → ∃ t h, exec (.bsync e) s = .next t ∧ s.wrote t c.cur.gid h ∧ c.g.counted h ∧ c.g.ticked h c.own) ∧
      (Map.get 0 c.b.bars m = p → ∃ t, exec (.bsync e) s = .next t ∧ s.moved t)) ∧
    (m = clusterBar → s.legal c (.clsync e) →
      (c.b.clPhase ≠ p → ∃ t h, exec (.clsync e) s = .next t ∧ { s with l1 := t.l1 }.wrote t c.cur.gid h ∧ c.g.counted h ∧
        c.g.ticked h c.own) ∧
      (c.b.clPhase = p → ∃ t, exec (.clsync e) s = .next t ∧ s.moved t)))

/-! ## Accumulator tiles -/

namespace Sys2Proof.Machine

/-- A matrix instruction that writes tile n only: what each of its words becomes (R143). -/
def State.tileSet (s t : State) (c : Iss) (n : Nat) (f : Nat → Word) : Prop :=
  ∃ h, s.wrote t c.cur.gid h ∧ c.g.onlyTiles h ∧ c.g.ticked h c.own ∧ (∀ i, i < 256 → h.tileWord n i = f i) ∧
    (∀ m i, m ≠ n → h.tileWord m i = c.g.tileWord m i)

/-- The descriptors of a matrix instruction are sound and their bytes reachable (R147, R337). -/
def State.descsOk (s : State) (c : Iss) (ds : List (MDesc × Shape × Bool)) : Prop :=
  c.whole = true ∧ ∀ d ∈ ds, c.descReason d.1 d.2.1 d.2.2 = none ∧ s.descFailure c d.1 d.2.1 d.2.2 = none

/-- The lane and word of a register run that hold word w of a tile (R154): of the FP32 view, or of the FP64 view. -/
def tileLane (dbl : Bool) (w : Nat) : Nat × Nat := if dbl then (w % 2, w / 2) else (w / 96, w % 96)

end Sys2Proof.Machine

/-- R143, R152, R154: MZERO clears a tile; MWR writes each word of a view from the lane that holds it, and leaves the words outside the
view; MRD reads them back into that lane; each from a fragment that owns every lane of its group. -/
def Obligations.TilesMoveToAndFromRegisters : Prop :=
  ∀ (s : State) (c : Iss) (e : Enc), c.whole = true →
    let dbl := e.var == 3
    let words := if dbl then 128 else 256
    (s.legal c (.mzero e) → ∃ t, exec (.mzero e) s = .next t ∧ s.tileSet t c e.dst.toNat (fun _ => 0)) ∧
    (s.legal c (.mwr e) → ∃ t, exec (.mwr e) s = .next t ∧ s.tileSet t c e.dst.toNat (fun w =>
      let p := tileLane dbl w
      if words ≤ w then c.g.tileWord e.dst.toNat w
      else if bitOf c.g.lanes p.2 then c.g.vGet (e.a.toNat + p.1) p.2 else 0)) ∧
    (s.legal c (.mrd e) → ∃ t h, exec (.mrd e) s = .next t ∧ s.wrote t c.cur.gid h ∧ c.g.onlyVectors h ∧ c.g.ticked h c.own ∧
      (∀ q L, q < (if dbl then 2 else 3) → L < 96 → bitOf c.g.lanes L → h.vGet (e.dst.toNat + q) L =
        (let w := if dbl then 2 * L + q else 96 * q + L
         if w < words then c.g.tileWord e.a.toNat w else 0)) ∧
      (∀ r L, L < 96 → (r < e.dst.toNat ∨ e.dst.toNat + (if dbl then 2 else 3) ≤ r ∨ bitOf c.g.lanes L = false) →
        h.vGet r L = c.g.vGet r L))

namespace Sys2Proof.Machine

/-- What the first issue of a matrix instruction with operands in memory leaves (R148, R196): the reads of its operands' bytes, each to its
place in the fragment's buffer, and the fragment waiting at the instruction. `ops` holds each operand's handle and bytes; a line that two
operands reach has the class of the later's handle (R171). -/
def State.readsOperands (s t : State) (c : Iss) (ops : List (Hnd × List (Loc × PageKind))) : Prop :=
  let ls := ops.flatMap Prod.snd
  let cls := fun (sp : Space) (line : Nat) =>
    match (ops.filter (fun o => o.2.any (fun l => l.1.sp == sp && lineOf l.1.addr == line))).getLast? with
    | some o => o.1.cls
    | none => (0, 0)
  ∃ es, { s with parts := t.parts }.entered t es [] [] c.cur.gid c.g ∧ ownEvents s c c.own es ∧
    readEvents es none cls (fun l o => (l, o) ∈ ls) ∧ (∀ l, t.homeByte l = s.homeByte l) ∧
    (∀ l d, (∃ v ∈ es, v.readsByte l d) ↔ ∃ k o, ls[k]? = some (l, o) ∧ d = .buf c.cur.ent k) ∧
    ∃ f, t.fragAt c.cur = some f ∧ f.pc = c.f.pc ∧ f.act = c.f.act ∧ f.buf = some (List.replicate ls.length 0)

/-- The operands of the issuing fragment have all arrived, as the bytes `bs`. -/
def State.operandsIn (s : State) (c : Iss) (bs : List Byte) : Prop :=
  c.f.buf = some bs ∧ s.iq.any (fun v => v.gid == c.cur.gid && v.isOperand c.cur.ent) = false

end Sys2Proof.Machine

/-- R146, R148, R153: MLD with a sound descriptor reads the bytes of its view, and once they have arrived fills the view, rows from lines,
or columns with T; MST enters writes of exactly the view's bytes at the descriptor's offsets. -/
def Obligations.TilesLoadAndStore : Prop :=
  (∀ (s : State) (c : Iss) (e : Enc), s.legal c (.mld e) →
    let dbl := e.var == 3
    let d := c.mdesc e.a
    let sh := shapeOf (if dbl then 8 else 7)
    let z := if dbl then 8 else 4
    let m := if dbl then 8 else 16
    (c.f.buf = none → s.descsOk c [(d, sh, false)] →
      ∃ t, exec (.mld e) s = .next t ∧ s.readsOperands t c [(c.handle d.hnd, s.descLocs c d sh .r)]) ∧
    (∀ bs, s.operandsIn c bs → bs.length = m * m * z → ∃ t, exec (.mld e) s = .next t ∧ s.tileSet t c e.dst.toNat (fun w =>
      let per := z / 4
      let i := w / per / m
      let j := w / per % m
      let l := if d.t then j * m + i else i * m + j
      if m * m * per ≤ w then c.g.tileWord e.dst.toNat w
      else BitVec.ofNat 32 (ofBytes ((bs.drop (z * l + 4 * (w % per))).take 4))))) ∧
  (∀ (s : State) (c : Iss) (e : Enc), s.legal c (.mst e) →
    let dbl := e.var == 3
    let d := c.mdesc e.dst
    let sh := shapeOf (if dbl then 8 else 7)
    let z := if dbl then 8 else 4
    let m := if dbl then 8 else 16
    let at_ := fun (i k : Nat) => s.place c (c.handle d.hnd) none (swizzle d.span (d.off + 16 * d.str * i + k)) .w
    let reach := fun l o => ∃ i k, i < m ∧ k < m * z ∧ at_ i k = some (l, o)
    s.descsOk c [(d, sh, true)] →
    ∃ (t : State) (ws : List WEv) (h : Group), exec (.mst e) s = .next t ∧ s.entered t [] ws [] c.cur.gid h ∧ c.g.counted h ∧
      c.g.ticked h c.own ∧ (∀ l, t.homeByte l = s.homeByte l) ∧ s.writeUnits c ws none (c.handle d.hnd) reach ∧
      (∀ l b, (∃ w ∈ ws, w.holdsByte l b) ↔ ∃ i k o, i < m ∧ k < m * z ∧ at_ i k = some (l, o) ∧
        b = BitVec.ofNat 8 (c.g.elem e.b.toNat dbl (if d.t then k / z else i) (if d.t then i else k / z) / 256 ^ (k % z)) ∧
        ∀ i' k' o', i' < m → k' < m * z → at_ i' k' = some (l, o') → i' < i ∨ (i' = i ∧ k' ≤ k)))

/-- R148 to R151: MMA with sound operands reads their bytes, and once they have arrived changes its accumulator tile only: of type .i8
each element becomes the old one plus the sum of products of row and column, wrapped to 32 bits; of the float types it is added the
products run after run, each run rounded; of .nx4 with no escape in its blocks it goes on, too. -/
def Obligations.MultiplyAccumulateWritesItsTile : Prop :=
  ∀ (s : State) (c : Iss) (i : Instr) (e : Enc) (use : Nat),
    (i = .mma e ∧ use = e.var.toNat ∨ i = .mmaNx4I8F64 e ∧ use = 4 + e.var.toNat) → s.legal c i →
    let sh := shapeOf use
    let at_ := fun (t : Bool) (z r k : Nat) => if t then z * (16 * k + r) else 64 * r + z * k
    let ta := (c.mdesc e.a).t
    let tb := (c.mdesc e.b).t
    (c.f.buf = none → s.descsOk c [(c.mdesc e.a, sh, false), (c.mdesc e.b, sh, false)] →
      ∃ t, exec i s = .next t ∧ s.readsOperands t c [(c.handle (c.mdesc e.a).hnd, s.descLocs c (c.mdesc e.a) sh .r),
        (c.handle (c.mdesc e.b).hnd, s.descLocs c (c.mdesc e.b) sh .r)]) ∧
    (∀ bs, s.operandsIn c bs → (use = 4 → ∀ k, k < 128 → bs.getD (18 * k + 17) 0 < 128) →
      ∃ t f, exec i s = .next t ∧ { s with parts := t.parts }.tileSet t c e.dst.toNat f ∧ (use ≠ 4 → t.parts = s.parts) ∧
        (use = 6 → ∀ w, 128 ≤ w → w < 256 → f w = c.g.tileWord e.dst.toNat w) ∧
        (use = 5 → bs.length = 2048 → ∀ r q, r < 16 → q < 16 →
          f (16 * r + q) = (List.range 64).foldl (fun (acc : Word) k =>
            acc + (bs.getD (at_ ta 1 r k) 0).signExtend 32 * (bs.getD (1024 + at_ tb 1 q k) 0).signExtend 32)
            (c.g.tileWord e.dst.toNat (16 * r + q))) ∧
        (use < 4 → bs.length = 2048 → ∀ r q, r < 16 → q < 16 →
          let p := mmaParams use
          let z := p.1.bits / 8
          let num := fun (o : Nat) => p.1.unpack (ofBytes ((bs.drop o).take z))
          f (16 * r + q) = BitVec.ofNat 32 ((List.range (p.2.2.1 / p.2.2.2)).foldl (fun acc j =>
            runStep fmt32 acc ((List.range p.2.2.2).map (fun k =>
              (num (at_ ta z r (p.2.2.2 * j + k)), num (1024 + at_ tb z q (p.2.2.2 * j + k))))))
            (c.g.tileWord e.dst.toNat (16 * r + q)).toNat)))

/-- R155, R156: MSCL multiplies every element of its view by its row's and its column's factor, rounded once: of registers in FP32, then of
any operand code in either view, a factor of a lane that does not exist being 0; MDESC writes 0 exactly when the use
is a kind of operand the tile's profile has and its descriptor is sound and within its handle. -/
def Obligations.ScaleAndDescriptorTest : Prop :=
  ∀ (s : State) (c : Iss) (e : Enc), c.whole = true →
    (s.legal c (.mscl e) → e.var ≠ 3 → e.a.toNat < 0x40 → e.b.toNat < 0x40 →
      let x := fun (r L : Nat) => fmt32.unpack (if bitOf c.g.lanes L then (c.g.vGet r L).toNat else 0)
      ∃ t, exec (.mscl e) s = .next t ∧ s.tileSet t c e.dst.toNat (fun w => BitVec.ofNat 32 (fmt32.round 0 false 0
        (triple (fmt32.unpack (c.g.tileWord e.dst.toNat w).toNat) (x e.a.toNat (w / 16)) (x e.b.toNat (w % 16)))).1)) ∧
    (s.legal c (.mscl e) →
      let dbl := e.var == 3
      let ty : Ty := if dbl then .f64 else .f32
      let f := if dbl then fmt64 else fmt32
      let x := fun (code : Code) (i : Nat) => f.unpack
        (if (code.toNat < 0x40 ∨ code = 0x61 ∨ code = 0x62) ∧ bitOf c.g.lanes i = false then 0
         else (c.read e code i (some i) ty).toNat % 2 ^ ty.bits)
      let el := fun (i j : Nat) => (f.round 0 false 0 (triple (f.unpack (c.g.elem e.dst.toNat dbl i j)) (x e.a i) (x e.b j))).1
      ∃ t, exec (.mscl e) s = .next t ∧ s.tileSet t c e.dst.toNat (fun w =>
        if dbl = false then BitVec.ofNat 32 (el (w / 16) (w % 16))
        else if w < 128 then BitVec.ofNat 32 (el (w / 16) (w / 2 % 8) / 2 ^ (32 * (w % 2)))
        else c.g.tileWord e.dst.toNat w)) ∧
    (s.legal c (.mdesc e) →
      let b := (c.sa e e.b .n32).toNat
      let use := b % 16
      let d := c.mdesc e.a
      ∃ t code, exec (.mdesc e) s = .next t ∧ s.scalarsSet t c e.units (fun n => scalarDest e.dst false code n (c.s n)) ∧
        (code = 0 ↔ use ≤ 8 ∧ ¬ (use = 4 ∧ profileW c.tile = true) ∧ ¬ ((use = 6 ∨ use = 8) ∧ profileW c.tile = false) ∧
          c.descReason d (shapeOf use) (b.testBit 4) = none ∧
          ∀ o ∈ d.offs (shapeOf use), s.inBounds c (c.handle d.hnd) none (o : Int) 1 = true))

/-! ## Pools and forked work -/

namespace Sys2Proof.Machine

/-- A take has reached shard t, which counts it (R312). -/
def Pool.reached (p : Pool) (t : Nat) : Pool := p.setShard t { p.shard t with takes := (p.shard t).takes + 1 }

/-- The 48th least element of a shard without a segment, if it holds more (R311). -/
def Pool.bound (p : Pool) (x : Shard) : Option Elem := if 48 < x.els.length then (sortElems p.kord x.els)[47]? else none

/-- Shard t of a pool may serve: its tile takes messages, and the segments that a take there looks at can be reached and translate (R310,
R313, R336, R346, R385). -/
def State.shardServes (s : State) (p : Pool) (t : Nat) : Prop :=
  p.held = none ∧ p.stopped = false ∧ s.takeHeld p = false ∧ s.tileUp t = true ∧ t < p.shards.length ∧
    ∀ u ∈ p.looksAt t, s.segOk p u = true

/-- The segments that a take at shard t looks at have filled the TLB of its tile (R338). -/
def State.looked (s : State) (p : Pool) (t : Nat) : State := (p.looksAt t).foldl (fun s u => s.segTouchAll p u) s

end Sys2Proof.Machine

/-- R318 to R322: PLINS puts one insert per lane of Contrib into IQ(g); PLPEEK reads the least published element's key with a 1 beside
it, or zero; PLCNT the published count; a PLTAKE of one lane that the local shard serves at once writes the element's key and payload
there and clears the lane's EMPTY bit, or writes zeros and sets it, and goes on; the lanes of a PLTAKE, in ascending order, take the
least elements of a local shard that holds so many at or below the threshold, no urgent one and no segment (R320). R319, R322: the insert of a PLINS lane, first of its instruction's and with every earlier access of the group performed at .dev, puts
its element with a new tag into the shard of its core's tile and clears the lane's mask bit, or, where the region is full and no segment
takes it, sets the bit and leaves the pool; beyond the allowance it is held (R313). That each insert is an event of its own, which
writes its mask bit as it is performed, is the model's inference (assumption 30). -/
def Obligations.PoolInstructionsInsertTakeAndLook : Prop :=
  (∀ (s : State) (c : Iss) (e : Enc) (pid : Nat) (p : Pool),
     (s.legal c (.plins e) → s.poolOf c e Hnd.wr = .ok (pid, p) →
       ∃ t es h, exec (.plins e) s = .next t ∧ s.entered t es [] [] c.cur.gid h ∧ c.g.counted h ∧ c.g.ticked h c.own ∧
         ownEvents s c c.own es ∧ es.map IqEv.kind = ((List.range 96).filter (fun L => bitOf (c.contrib c.own) L)).map (fun L =>
           .plins pid L (c.g.vGet e.a.toNat L).toNat (c.g.vGet (e.a.toNat + 1) L).toNat (if e.dst = 0x60 then 0 else e.dst.toNat))) ∧
     (s.legal c (.plpeek e) → s.poolOf c e Hnd.rd = .ok (pid, p) →
       ∃ t, exec (.plpeek e) s = .next t ∧ s.scalarsSet t c e.units (fun n => scalarDest e.dst true
         (match leastElem p.kord (p.sums.filterMap (fun m => m.els.head?)) with
          | some x => BitVec.ofNat 64 (2 ^ 32 + x.key)
          | none => 0) n (c.s n))) ∧
     (s.legal c (.plcnt e) → s.poolOf c e Hnd.rd = .ok (pid, p) →
       ∃ t, exec (.plcnt e) s = .next t ∧ s.scalarsSet t c e.units (fun n => scalarDest e.dst false
         (BitVec.ofNat 64 (min ((p.sums.map Summary.n).sum) (2 ^ 32 - 1))) n (c.s n))) ∧
     (s.legal c (.pltake e) → s.poolOf c e (fun h => h.rd && h.wr) = .ok (pid, p) → c.f.pool = none → s.shardServes p c.tile →
       ∀ L, (List.range 96).filter (fun k => bitOf (c.contrib c.own) k) = [L] → 0 < e.a.toNat → e.dst.toNat + 1 < 0x40 →
         let served := (s.looked p c.tile).serve (p.reached c.tile) ⟨c.cur.gid, c.cur.ent, L, c.tile, c.tile, []⟩ c.tile
         let done := fun (t : State) (key pay : Nat) (none_ : Bool) => ∃ h, Map.find? t.groups c.cur.gid = some h ∧ c.g.ticked h c.own ∧
           h.vGet e.dst.toNat L = BitVec.ofNat 32 key ∧ h.vGet (e.dst.toNat + 1) L = BitVec.ofNat 32 pay ∧
           bitOf (h.kGet e.a.toNat) L = none_ ∧
           (∀ r K, K < 96 → (K ≠ L ∨ r < e.dst.toNat ∨ e.dst.toNat + 1 < r) → h.vGet r K = c.g.vGet r K) ∧
           ∀ l, t.homeByte l = s.homeByte l
         (∀ x, served = .give c.tile x → (p.shard c.tile).els.any (fun y => y.same x) = true →
           ∃ t q, exec (.pltake e) s = .next t ∧ done t x.key x.pay false ∧ Map.find? t.pools pid = some q ∧
             (q.shard c.tile).els = (p.shard c.tile).els.filter (fun y => !y.same x)) ∧
         (served = .empty → ∃ t, exec (.pltake e) s = .next t ∧ done t 0 0 true ∧
           Map.find? t.pools pid = some (p.reached c.tile))) ∧
     (s.legal c (.pltake e) → s.poolOf c e (fun h => h.rd && h.wr) = .ok (pid, p) → c.f.pool = none → s.shardServes p c.tile →
       p.spill = 0 → (∀ m ∈ p.sums, m.urgent = []) → 0 < e.a.toNat → e.dst.toNat + 1 < 0x40 →
       let els := (p.shard c.tile).els
       let ls := (List.range 96).filter (fun k => bitOf (c.contrib c.own) k)
       let xs := (sortElems p.kord els).filter p.within
       els.Pairwise (fun x y => x.same y = false) → ls ≠ [] → ls.length ≤ xs.length →
       ∃ t h q, exec (.pltake e) s = .next t ∧ Map.find? t.groups c.cur.gid = some h ∧ c.g.ticked h c.own ∧
         (∀ (i L : Nat) (x : Elem), ls[i]? = some L → xs[i]? = some x → h.vGet e.dst.toNat L = BitVec.ofNat 32 x.key ∧
           h.vGet (e.dst.toNat + 1) L = BitVec.ofNat 32 x.pay ∧ bitOf (h.kGet e.a.toNat) L = false) ∧
         (∀ r K, K < 96 → (K ∉ ls ∨ r < e.dst.toNat ∨ e.dst.toNat + 1 < r) → h.vGet r K = c.g.vGet r K) ∧
         Map.find? t.pools pid = some q ∧
         (q.shard c.tile).els = els.filter (fun y => !(xs.take ls.length).any (fun x => y.same x)) ∧
         ∀ l, t.homeByte l = s.homeByte l)) ∧
  (∀ (s : State) (v : IqEv) (b : Block) (g : Group) (pid lane key pay kreg : Nat) (p : Pool),
     s.iq.find? (fun x => x.id == v.id) = some v → v.kind = .plins pid lane key pay kreg → Map.find? s.pools pid = some p →
     Map.find? s.blocks (v.gid / 32) = some b → Map.find? s.groups v.gid = some g → p.spill = 0 → lane < 96 →
     s.iq.any (fun x => x.gid == v.gid && x.seq == v.seq && decide (x.id < v.id)) = false →
     s.performed v.gid v.seq .dev true = true → s.tileUp (b.core / 96) = true → b.core / 96 < p.shards.length →
     let t := b.core / 96
     let x : Elem := ⟨key, pay, t, (p.shard t).count⟩
     let beyond := p.within x = true ∧ (p.rho - 384) / 8 ≤ (p.shard t).used
     let marks := fun (u : State) (bad : Bool) => u.iq = s.iq.filter (fun y => y.id != v.id) ∧ ∃ h, Map.find? u.groups v.gid = some h ∧
       h = { g with k := h.k, perf := h.perf } ∧ ∀ n L, L < 96 → bitOf (h.kGet n) L = if kreg ≠ 0 ∧ n = kreg ∧ L = lane then bad else bitOf (g.kGet n) L
     (¬ beyond → s.asked 4 v.id = false →
       ((p.shard t).els.length < 64 * p.cap → ∃ u q, exec (.atomic v.id) s = .next u ∧ marks u false ∧ Map.find? u.pools pid = some q ∧
         (q.shard t).els = x :: (p.shard t).els ∧ (q.shard t).count = (p.shard t).count + 1 ∧ (q.shard t).fresh = true ∧
         (q.shard t).used = (p.shard t).used + (if p.within x then 1 else 0) ∧ ∀ w, w ≠ t → q.shard w = p.shard w) ∧
       (64 * p.cap ≤ (p.shard t).els.length → ∃ u q, exec (.atomic v.id) s = .next u ∧ marks u true ∧ Map.find? u.pools pid = some q ∧
         q.shards = p.shards)) ∧
     (beyond → p.held = none → p.stopped = false → ∃ u, exec (.atomic v.id) s = .next u ∧ u = { s with pools := u.pools } ∧
       Map.find? u.pools pid = some { p with held := some v.id }))

/-- R310 to R314, R316: a round of a pool with no segment, no take waiting and none on its way publishes every shard's count and least
elements, takes the threshold as the least of the 48th elements of the shards that hold more, starts the allowances again and only
moves elements; a notice's acknowledgement performs the held insert and stops the shards; a forwarded take reaches the shard it was
sent to, and takes its element or waits there for the round. That a forwarded take counts among those that have reached its shard
(R312) is the model's choice (assumption 30). -/
def Obligations.PoolRoundsPublishAndRestart : Prop :=
  ∀ (s : State) (pid : Nat) (p : Pool), Map.find? s.pools pid = some p →
    (∀ moves, p.held = none → p.fwd = [] → (∀ t, t < 8 → s.tileUp t = true) → p.spill = 0 → p.wait = [] → p.shards.length = 8 →
      ((p.shards.map Shard.els).flatten).Pairwise (fun x y => x.same y = false) →
      ∃ t q, exec (.poolRound pid moves) s = .next t ∧ t = { s with pools := t.pools } ∧ Map.find? t.pools pid = some q ∧
        q.sums.map Summary.n = p.shards.map (fun x => x.els.length) ∧
        q.sums.map Summary.els = p.shards.map (fun x => (sortElems p.kord x.els).take 48) ∧
        ((q.shards.map Shard.els).flatten).Perm ((p.shards.map Shard.els).flatten) ∧
        (moves = [] → q.shards.map Shard.els = p.shards.map Shard.els) ∧
        (∀ x ∈ q.shards, x.used = 0 ∧ x.takes = 0 ∧ x.fresh = false) ∧ q.stopped = false ∧ q.rho = s.regs.rho ∧ q.starve = s.regs.starve ∧
        (q.theta = none ↔ ∀ x ∈ p.shards, x.els.length ≤ 48) ∧
        (∀ th, q.theta = some th → (∃ x ∈ p.shards, p.bound x = some th) ∧
          ∀ x ∈ p.shards, ∀ y, p.bound x = some y → Elem.lt p.kord y th = false)) ∧
    (∀ (v : IqEv) (b : Block) pid' lane key pay kreg, p.held = some v.id → s.iq.find? (fun x => x.id == v.id) = some v →
      v.kind = .plins pid' lane key pay kreg → Map.find? s.blocks (v.gid / 32) = some b → b.core / 96 < p.shards.length →
      (∀ t, t < 8 → s.tileUp t = true) → s.asked 4 v.id = false → p.full (b.core / 96) = false →
      ∃ t q, exec (.poolNoticeAck pid) s = .next t ∧ t.iq = s.iq.filter (fun x => x.id != v.id) ∧ Map.find? t.pools pid = some q ∧
        q.held = none ∧ q.stopped = true ∧ (q.shard (b.core / 96)).els =
          ⟨key, pay, b.core / 96, (p.shard (b.core / 96)).count⟩ :: (p.shard (b.core / 96)).els ∧ (∀ l, t.homeByte l = s.homeByte l)) ∧
    (∀ k ks x, p.fwd = k :: ks → s.wants k = true →
      let u := s.logTo (k.tried.headD k.home) k.goal (.take pid)
      u.shardServes p k.goal →
      (u.looked p k.goal).serve ({ p with fwd := ks }.reached k.goal) k k.goal = .give k.goal x → (p.shard k.goal).els.any (fun y => y.same x) = true →
      ∃ t q, exec (.poolTakeForward pid) s = .next t ∧ Map.find? t.pools pid = some q ∧ q.fwd = ks ∧
        (q.shard k.goal).els = (p.shard k.goal).els.filter (fun y => !y.same x) ∧ (∀ l, t.homeByte l = s.homeByte l)) ∧
    (∀ k ks, p.fwd = k :: ks → s.tileUp k.goal = true → s.wants k = true → p.stopped = true →
      ∃ t, exec (.poolTakeForward pid) s = .next t ∧ t = { s with pools := t.pools, tiles := t.tiles } ∧
        Map.find? t.pools pid = some { { p with fwd := ks }.reached k.goal with wait := p.wait ++ [k] })

/-- R296, R298, R300: FORK, once every earlier access of the group is performed, pushes the child at the head of its core's deque and
writes 1, counting it in its join object if it has one, or, with 256 entries there or a full count, writes 0 and pushes nothing; before
that it waits. JINIT enters one event that clears its object; JOIN without an object goes on with a value
that is free (the model's assumption 5). -/
def Obligations.ForkedWorkIsPushedAndJoined : Prop :=
  ∀ (s : State) (c : Iss) (e : Enc),
    let run := fun (j : Nat) => c.s (e.a.toNat - 0x40 + j)
    (s.legal c (.fork e) → run 3 = 0 → s.joinCause c (run 2) = none →
      (∃ h, s.header c (codeHnd (run 0)) (codeOff (run 0)) true = .ok h) → s.performed c.cur.gid s.seq .dev true = false →
      ∃ t, exec (.fork e) s = .next t ∧ s.moved t) ∧
    (∀ l, s.legal c (.fork e) → run 3 = 0 → noObject (run 2) = false → s.joinCause c (run 2) = none →
      (∃ h, s.header c (codeHnd (run 0)) (codeOff (run 0)) true = .ok h) → s.performed c.cur.gid s.seq .dev true = true →
      s.joinAt c (run 2) = some l → s.atomicReady c l = true → l.1.addr % 16 = 0 → lineOf l.1.addr ∉ s.poison → s.memOk →
      (l.1.sp = .glob → s.answers ⟨.glob, lineOf l.1.addr⟩ = true ∧ ∀ a, lineOf a = lineOf l.1.addr → s.aliasOf a = none) →
      let out := s.oldAt l.1.sp l.1.addr 4
      ∃ t h, exec (.fork e) s = .next t ∧ Map.find? t.groups c.cur.gid = some h ∧ c.g.ticked h c.own ∧
        (∀ m, ¬ (sameMem m.sp l.1.sp ∧ l.1.addr ≤ m.addr ∧ m.addr < l.1.addr + 4) → t.homeByte m = s.oldByte l.1.sp l.1.addr m) ∧
        if (s.core c.b.core).deque.length < 256 ∧ out ≠ 0xFFFFFFFF then
          (∀ n, n < 29 → h.sGet n = scalarDest e.dst false 1 n (c.g.sGet n)) ∧ t.numAt l.1 4 = out + 1 ∧
            (t.core c.b.core).deque = ⟨c.b.lid, run 0, run 1, run 2, c.b.bidx⟩ :: (s.core c.b.core).deque
        else (∀ n, n < 29 → h.sGet n = scalarDest e.dst false 0 n (c.g.sGet n)) ∧ t.numAt l.1 4 = out ∧
          (t.core c.b.core).deque = (s.core c.b.core).deque) ∧
    (s.legal c (.fork e) → run 3 = 0 → noObject (run 2) = true → s.performed c.cur.gid s.seq .dev true = true →
      (∃ h, s.header c (codeHnd (run 0)) (codeOff (run 0)) true = .ok h) →
      ∃ t, exec (.fork e) s = .next t ∧
        if (s.core c.b.core).deque.length < 256 then
          { s with cores := t.cores }.scalarsSet t c e.units (fun n => scalarDest e.dst false 1 n (c.s n)) ∧
            (t.core c.b.core).deque = ⟨c.b.lid, run 0, run 1, run 2, c.b.bidx⟩ :: (s.core c.b.core).deque
        else s.scalarsSet t c e.units (fun n => scalarDest e.dst false 0 n (c.s n))) ∧
    (s.legal c (.jinit e) → s.joinCause c (lo32 (c.sa e e.a .n32)) = none →
      ∃ t es h, exec (.jinit e) s = .next t ∧ s.entered t es [] [] c.cur.gid h ∧ c.g.counted h ∧ c.g.ticked h c.own ∧ ownEvents s c c.own es ∧
        es.map (fun v => (v.sp, v.ord, v.kind)) = if noObject (lo32 (c.sa e e.a .n32)) then []
          else ((s.joinAt c (lo32 (c.sa e e.a .n32))).map (fun l => (l.1.sp, l.2, IqKind.jinit l.1.addr))).toList) ∧
    (s.legal c (.join e) → noObject (lo32 (c.sa e e.a .n32)) = true →
      ∃ t v, exec (.join e) s = .next t ∧
        { s with fresh := s.fresh + 1 }.scalarsSet t c e.units (fun n => scalarDest e.dst false v n (c.s n))) ∧
    (∀ s' l bs g, s.legal c (.join e) → noObject (lo32 (c.sa e e.a .n32)) = false → s.joinCause c (lo32 (c.sa e e.a .n32)) = none →
      s.joinAt c (lo32 (c.sa e e.a .n32)) = some l →
      s.readSync c (some .dev) ((List.range 8).map (fun i => (⟨l.1.sp, l.1.addr + i⟩, l.2))) = .got s' bs →
      Map.find? s'.groups c.cur.gid = some g →
      (ofBytes bs % 2 ^ 32 = 0 → ∃ (t u : State) (h : Group), exec (.join e) s = .next t ∧
        { s' with l1 := u.l1, guests := u.guests, tlb1 := u.tlb1, tlb2 := u.tlb2 }.carried u ∧
        Map.find? u.groups c.cur.gid = some h ∧ h = { g with perf := h.perf } ∧
        u.scalarsSet t { c with g := h } e.units (fun n =>
          scalarDest e.dst false (BitVec.ofNat 64 (ofBytes bs / 2 ^ 32)) n (c.s n))) ∧
      (ofBytes bs % 2 ^ 32 ≠ 0 → ∃ t, exec (.join e) s = .next t ∧ s.moved t))

/-! ## Traps and the system registers -/

namespace Sys2Proof.Machine

/-- The issuing fragment has entered the trap handler with a trap (R370, R372): it stands in STATE 3 at the handler's first unit, the
group's trap registers hold the trap, and nothing else has changed: no other entry, register or byte of memory. -/
def State.inHandler (s t : State) (c : Iss) (r : TrapRec) : Prop :=
  let hnd := codeHnd c.l.desc.trap
  let off := codeOff c.l.desc.trap
  s.moved t ∧ (∀ l, t.homeByte l = s.homeByte l) ∧ ∃ g f, Map.find? t.groups c.cur.gid = some g ∧ t.fragAt c.cur = some f ∧
    f.st = .handler ∧ f.hnd = hnd ∧ f.pc = off + 8 ∧ f.blk = off ∧ f.act = c.f.act ∧ f.trap = none ∧
    g = { c.g with table := g.table, trap := g.trap } ∧ (∀ n, n ≠ c.cur.ent → g.entry n = c.g.entry n) ∧
    g.trap.cause = BitVec.ofNat 8 r.cause ∧ g.trap.detail = BitVec.ofNat 8 r.detail ∧ g.trap.ch = BitVec.ofNat 8 r.hnd ∧
    g.trap.pc = BitVec.ofNat 27 r.pc ∧ g.trap.lanes = r.lanes ∧ g.trap.word = BitVec.ofNat 7 r.word ∧ g.trap.addr = BitVec.ofNat 32 r.addr ∧
    g.trap.blk = c.f.blk ∧ g.trap.latch = r.latch ∧ g.trap.written = false

/-- A trap of the fragment will be delivered at once (R369, R375): the launch has a handler whose header is sound, and no fragment of
the group is in it. -/
def State.mayTrap (s : State) (c : Iss) : Prop :=
  c.l.desc.trap ≠ 0 ∧ c.f.st ≠ .handler ∧ c.g.handling = false ∧
    ∃ h, s.header c (codeHnd c.l.desc.trap) (codeOff c.l.desc.trap) true = .ok h

end Sys2Proof.Machine

/-- R369, R370, R372: taking a trap saves cause, detail, code handle, PC, lanes, word and address, and enters the handler; with none, and
no host to ask, the block ends with the trap's cause; with a fragment of the group in the handler it is held, undelivered. -/
def Obligations.TakingATrapEntersHandler : Prop :=
  ∀ (s : State) (c : Iss) (r : TrapRec), s.issuer? = some c →
    (s.mayTrap c → s.inHandler (s.takeTrap c r) c r) ∧
    (c.l.desc.trap = 0 → s.assisted 3 = false → c.b.st = .running →
      ∃ b, Map.find? (s.takeTrap c r).blocks c.bid = some b ∧ b.st = .ending ∧ b.cause = r.cause ∧ b.detail = r.detail) ∧
    (c.l.desc.trap ≠ 0 → c.f.st ≠ .handler → c.g.handling = true →
      (s.takeTrap c r).fragAt c.cur = some { c.f with st := .pending, trap := some r })

/-- R68, R94, R368, R374, R376: TRAP and BKPT take the trap they name, with their number in TRAP.ADDR; an illegal word takes its reason
as cause 1; exceptions of which FPE enables one set their flags in every lane where they arose and take cause 3 with the enabled ones
and those lanes (all of the fragment's for the others: the model's assumption 21). None of them counts. R374: without a handler BKPT
does nothing and counts, or, with the service duty at the host, asks for its block's eviction; R365: SVC, once everything before it is
performed, asks for its block's eviction with its number and the run's two words, and until then waits (assumption 35). -/
def Obligations.TrapsBreakpointsAndServices : Prop :=
  (∀ (s : State) (c : Iss), s.mayTrap c →
     (∀ e, s.legal c (.trap e) → ∃ t, exec (.trap e) s = .next t ∧
       s.inHandler t c ⟨6, e.imm14.toNat, c.f.hnd, c.f.pc, c.own, 0, e.imm14.toNat, []⟩) ∧
     (∀ e, s.legal c (.bkpt e) → ∃ t, exec (.bkpt e) s = .next t ∧
       s.inHandler t c ⟨7, e.imm14.toNat, c.f.hnd, c.f.pc, c.own, 0, e.imm14.toNat, []⟩) ∧
     (∀ w, s.issuer? = some c → ∃ t n, exec (.illegalInstruction w) s = .next t ∧ staticReason (.illegalInstruction w) = some n ∧
       s.inHandler t c ⟨1, n, c.f.hnd, c.f.pc, c.own, 0, 0, []⟩) ∧
     (∀ exc lanes, s.issuer? = some c → exc &&& c.l.desc.fpe ≠ 0 → lanes &&& c.own &&& c.real ≠ 0 →
       ∃ t g, exec (.arithTrap exc lanes) s = .next t ∧ g = { c.g with fl := g.fl } ∧
         flagsRaised c.g.fl g.fl (lanes &&& c.own) (fun _ => exc) ∧
         (s.setGroup c.cur.gid g).inHandler t { c with g := g } ⟨3, (exc &&& c.l.desc.fpe).toNat, c.f.hnd, c.f.pc, lanes &&& c.own,
           if c.f.latch = [] then 0 else c.f.latchAt, 0, c.f.latch⟩)) ∧
  (∀ (s : State) (c : Iss) (e : Enc),
     (s.legal c (.bkpt e) → c.l.desc.trap = 0 → c.f.st ≠ .handler → s.assisted 3 = false →
       ∃ t h, exec (.bkpt e) s = .next t ∧ s.wrote t c.cur.gid h ∧ c.g.counted h ∧ c.g.ticked h c.own) ∧
     (s.legal c (.bkpt e) → c.l.desc.trap = 0 → c.f.st ≠ .handler → s.assisted 3 = true →
       ∃ t b, exec (.bkpt e) s = .next t ∧ Map.find? t.blocks c.bid = some b ∧
         ∀ n, c.b.live = true → c.f.latch = [] → s.blockEnd c c.f = some n → c.f.pc + 4 * e.units < n →
           b.st = .stopping .service ∧ b.cause = 7 ∧ b.detail = e.imm14.toNat) ∧
     (s.legal c (.svc e) → s.performed c.cur.gid s.seq .sys false = true →
       ∃ t h b, exec (.svc e) s = .next t ∧ s.wrote t c.cur.gid h ∧ c.g.counted h ∧ c.g.ticked h c.own ∧
         Map.find? t.blocks c.bid = some b ∧ ∀ n, c.b.live = true → c.f.latch = [] → s.blockEnd c c.f = some n → c.f.pc + 4 * e.units < n →
           b.st = .stopping (.svc e.imm14.toNat (c.s (e.dst.toNat - 0x40)) (c.s (e.dst.toNat - 0x40 + 1)))) ∧
     (s.legal c (.svc e) → s.performed c.cur.gid s.seq .sys false = false → ∃ t, exec (.svc e) s = .next t ∧ s.moved t))

namespace Sys2Proof.Machine

/-- RFT or RFT.skip has ended the trap state: the fragment stands as given, in STATE 0, with its lanes (R377). -/
def State.resumed (s t : State) (c : Iss) (hnd blk pc : Nat) (latch : List LaneWord) (at_ : Nat) : Prop :=
  ∃ h f, s.wrote t c.cur.gid h ∧ c.g.counted h ∧ c.g.ticked h c.own ∧ t.fragAt c.cur = some f ∧ f.st = .ready ∧ f.act = c.f.act ∧
    f.hnd = hnd ∧ f.blk = blk ∧ f.pc = pc ∧ f.latch = latch ∧ f.latchAt = at_

end Sys2Proof.Machine

/-- R377: RFT leaves the handler for the PC that the trap registers hold, in STATE 0; RFT.skip for the instruction after it, unless the
handler has written TRAP.PC; after a trap within an EXLW they go on with the list, at the word that trapped or the next, and past its
last word after the EXLW, wherever TRAP.PC points by then (R269). A header is entered again. -/
def Obligations.ReturnFromTrapResumes : Prop :=
  ∀ (s : State) (c : Iss) (e : Enc) (skip : Bool) (w : Word), s.legal c (if skip then .rftSkip e else .rft e) →
    let r := c.g.trap
    let p := r.pc.toNat
    s.unitAt c r.ch.toNat p = .ok w → (∀ x ∈ c.g.table, ∀ f, x.2 = .frag f → f.st ≠ .pending) →
    let word := r.word.toNat + (if skip then 1 else 0)
    let inList := r.cause = 3 ∧ r.latch ≠ []
    (opField w ≠ 0x1FE → s.unitOf c r.ch.toNat r.blk p = true →
      let pc := if inList then (if r.latch.length ≤ word then r.exlw + 4 else r.exlw)
        else if skip ∧ r.written = false then s.afterInstr c r.ch.toNat p else p
      s.unitOf c r.ch.toNat r.blk pc = true →
      ∃ t, exec (if skip then .rftSkip e else .rft e) s = .next t ∧ s.resumed t c r.ch.toNat r.blk pc
        (if inList ∧ word < r.latch.length then r.latch else []) (if inList ∧ word < r.latch.length then word else 0)) ∧
    (opField w = 0x1FE → p % 8 = 0 → ¬ inList → c.f.act &&& c.real ≠ 0 → c.g.covered = none →
      (∃ h, s.header c r.ch.toNat p (!r.written && r.cause == 1 && r.detail == 2) = .ok h ∧ h.fuse = false) →
      ∃ t, exec (if skip then .rftSkip e else .rft e) s = .next t ∧ s.resumed t c r.ch.toNat p (p + 8) [] 0)

/-- R9, R18, R66, R67, R163, R254, R309, R364, R370: what RDSR reads of each register, and what WRSR may write: FLAGS.ARITH, where a 0 clears a flag in
every lane, the dynamic rounding mode, and TRAP.PC in the handler; a write that its register forbids takes reason SYSREG. -/
def Obligations.SystemRegistersReadAndWrite : Prop :=
  ∀ (s : State) (c : Iss) (e : Enc),
    (s.legal c (.rdsr e) → ∃ t v, exec (.rdsr e) s = .next t ∧
      s.scalarsSet t c e.units (fun n => scalarDest e.dst false v n (c.s n)) ∧
      (e.imm14 = 0x001 → v.toNat = c.b.core % 8 * 65536 + c.b.core % 96 / 8 * 4096 + c.b.core ∨ 768 ≤ c.b.core) ∧
      (e.imm14 = 0x000 → lo32 v = BitVec.ofNat 32 (c.tile * 2 ^ 4 + if profileW c.tile then 5 else 2)) ∧
      (e.imm14 = 0x002 → (s.core c.b.core).ret < 4 →
        v = match (s.core c.b.core).ret with | 0 => 0 | 1 => 3 | 2 => 5 | _ => 7) ∧
      (e.imm14 = 0x010 → ∀ j, j < 5 → (v.getLsbD j = true ↔ c.g.fl.nth j &&& c.real ≠ 0)) ∧
      (e.imm14 = 0x012 → lo32 v = BitVec.ofNat 32 ((16 - c.g.defer.length) * 2 ^ 16 + ((List.range 16).filter (fun n =>
        c.g.entry n == .free)).length * 2 ^ 8 + c.cur.ent)) ∧
      (e.imm14 = 0x011 → v = (c.g.fpe ++ (0 : BitVec 5) ++ c.g.drm).zeroExtend 64) ∧
      (e.imm14 = 0x020 → lo32 v = BitVec.ofNat 32 s.regs.rho) ∧
      (e.imm14 = 0x021 → lo32 v = BitVec.ofNat 32 s.regs.starve) ∧
      (e.imm14 = 0x022 → lo32 v = BitVec.ofNat 32 s.regs.period) ∧
      (e.imm14 = 0x030 → lo32 v = c.g.trap.ch ++ (0 : BitVec 8) ++ c.g.trap.detail ++ c.g.trap.cause) ∧
      (e.imm14 = 0x031 → v = c.g.trap.pc.zeroExtend 64) ∧
      (∀ b, b < 3 → e.imm14 = BitVec.ofNat 14 (0x032 + b) → lo32 v = c.g.trap.lanes.extractLsb' (32 * b) 32) ∧
      (e.imm14 = 0x035 → v = c.g.trap.word.zeroExtend 64) ∧
      (e.imm14 = 0x036 → lo32 v = c.g.trap.addr)) ∧
    (let w := lo32 (c.sa e e.dst .n32)
     let ok := e.imm14 = 0x010 ∨ e.imm14 = 0x011 ∧ w.toNat % 8 < 6 ∨ e.imm14 = 0x031 ∧ c.g.handling = true
     (s.legal c (.wrsr e) → ok → ∃ t h, exec (.wrsr e) s = .next t ∧ s.wrote t c.cur.gid h ∧ c.g.ticked h c.own ∧
       h = { c.g with fl := h.fl, drm := h.drm, trap := h.trap, icnt := h.icnt, perf := h.perf } ∧
       (∀ j L, j < 5 → L < 96 → bitOf (h.fl.nth j) L = (bitOf (c.g.fl.nth j) L && (e.imm14 != 0x010 || w.getLsbD j))) ∧
       h.drm = (if e.imm14 = 0x011 then w.extractLsb' 0 3 else c.g.drm) ∧
       ∀ n, c.f.latch = [] → s.blockEnd c c.f = some n → c.f.pc + 4 * e.units < n → ∃ g, Map.find? t.groups c.cur.gid = some g ∧
         g.trap = if e.imm14 = 0x031 then { c.g.trap with pc := w.extractLsb' 0 27, written := true } else c.g.trap) ∧
     (s.legal c (.wrsr e) → ¬ ok → exec (.wrsr e) s = .next (s.illegal c (.wrsr e) 14)))

/-- R366, R367: LOCQ writes one word, all ones for a place out of its handle; LWAKE changes no more than links on their way to FULL; CLKRD
reads the clock, PERFRD a counter: cycles in flight, and those at less than full width, rise by amounts that are free (the model's
assumption 5), from what was read last; the others are counted. -/
def Obligations.LocationClockAndCounters : Prop :=
  ∀ (s : State) (c : Iss) (e : Enc),
    (s.legal c (.locq e) → ∃ t w, exec (.locq e) s = .next t ∧ s.scalarsSet t c e.units (fun n => scalarDest e.dst false w n (c.s n)) ∧
      (s.inBounds c (c.target e).h none (c.off e 0) 1 = false → lo32 w = 0xFFFFFFFF)) ∧
    (s.legal c (.lwake e) → ∃ t h, exec (.lwake e) s = .next t ∧ { s with links := t.links }.wrote t c.cur.gid h ∧ c.g.counted h ∧
      c.g.ticked h c.own ∧ ∀ n, Map.get .full t.links n = Map.get .full s.links n ∨
        Map.get .full s.links n = .narrow ∧ Map.get .full t.links n = .widening ∨
        Map.get .full s.links n = .sleep ∧ Map.get .full t.links n = .waking) ∧
    (s.legal c (.clkrd e) → ∃ t, exec (.clkrd e) s = .next t ∧
      s.scalarsSet t c e.units (fun n => scalarDest e.dst true (BitVec.ofNat 64 s.clk) n (c.s n))) ∧
    (s.legal c (.perfrd e) → ∃ t v, exec (.perfrd e) s = .next t ∧
      { s with fresh := t.fresh }.scalarsSet t c e.units (fun n => scalarDest e.dst true v n (c.s n)) ∧
      (e.imm14 ≠ 2 → e.imm14 ≠ 6 → v = BitVec.ofNat 64 (Map.get 0 c.g.perf e.imm14.toNat)) ∧
      (∃ x, v = BitVec.ofNat 64 x ∧ Map.get 0 c.g.perf e.imm14.toNat ≤ x ∧
        (e.imm14 = 6 → (s.core c.b.core).ret = 0 → x = Map.get 0 c.g.perf 6)))

/-! ## Control -/

namespace Sys2Proof.Machine

/-- The whole fragment has entered the block at an address of a handle: it stands at the first unit after the header (R88, R249). -/
def State.goesTo (s t : State) (c : Iss) (g : Group) (hnd addr : Nat) : Prop :=
  ∃ h f, s.wrote t c.cur.gid h ∧ g.counted h ∧ g.ticked h c.own ∧ t.fragAt c.cur = some f ∧ f.hnd = hnd ∧ f.pc = addr + 8 ∧
    f.blk = addr ∧ f.act = c.f.act

/-- A sound block entry that is not the fragment's own fusion point, in a table with no fusion to be made, by a fragment with a lane
that is no helper (R88, R249, R252). -/
def State.mayEnterBlock (s : State) (c : Iss) (hnd addr : Nat) : Prop :=
  (∃ h, s.header c hnd addr true = .ok h ∧ ¬ (h.fuse = true ∧ c.g.inner c.cur.ent c.f = some (hnd, addr))) ∧
    c.g.covered = none ∧ c.f.act &&& c.real ≠ 0

/-- The instruction passed on to the next unit, counted in the fragment's lanes (R63). -/
def State.passed (s t : State) (c : Iss) : Prop := ∃ h, s.wrote t c.cur.gid h ∧ c.g.counted h ∧ c.g.ticked h c.own

/-- The fragment goes on with the next unit: it stands there unless its block ends there (R88). -/
def State.onward (s t : State) (c : Iss) (e : Enc) : Prop :=
  s.passed t c ∧ ∀ n, c.f.latch = [] → s.blockEnd c c.f = some n → c.f.pc + 4 * e.units < n →
    ∃ f, t.fragAt c.cur = some f ∧ f.pc = c.f.pc + 4 * e.units ∧ f.act = c.f.act ∧ f.blk = c.f.blk ∧ f.hnd = c.f.hnd

end Sys2Proof.Machine

/-- R90, R256 to R258, R261, R262: BR moves the whole fragment to its target when its scalar is zero, or non-zero, and passes otherwise;
JMP goes to its target; CALL writes the return point's code address in its lanes first; RET goes where its lanes agree, and traps
when they do not. -/
def Obligations.TransfersMoveTheFragment : Prop :=
  ∀ (s : State) (c : Iss) (e : Enc) (hnd addr : Nat), s.mayEnterBlock c hnd addr →
    let near := hnd = c.f.hnd ∧ (addr : Int) = c.origin e + 4 * e.off14.toInt
    let lit := hnd = c.f.hnd ∧ (addr : Int) = c.origin e + 4 * (e.lit.getD 0).toInt ∧ e.b = 0x7F
    let w := lo32 (c.sa e e.b .n32)
    let far := e.b ≠ 0x7F ∧ hnd = codeHnd w ∧ addr = codeOff w
    let ret := (c.f.pc + 4 * e.units + 7) / 8 * 8
    let called := fun (g : Group) => g = { c.g with v := g.v } ∧ ∀ r L, L < 96 → g.vGet r L =
      if r = e.dst.toNat ∧ r < 0x40 ∧ bitOf c.own L then codeAddr c.f.hnd ret else c.g.vGet r L
    (s.legal c (.brZ e) → near → ∃ t, exec (.brZ e) s = .next t ∧ if w = 0 then s.goesTo t c c.g hnd addr else s.onward t c e) ∧
    (s.legal c (.brNz e) → near → ∃ t, exec (.brNz e) s = .next t ∧ if w ≠ 0 then s.goesTo t c c.g hnd addr else s.onward t c e) ∧
    (s.legal c (.jmp e) → lit → ∃ t, exec (.jmp e) s = .next t ∧ s.goesTo t c c.g hnd addr) ∧
    (s.legal c (.jmpIndirect e) → far → ∃ t, exec (.jmpIndirect e) s = .next t ∧ s.goesTo t c c.g hnd addr) ∧
    (s.legal c (.call e) → lit → ret < 2 ^ 27 → ∃ t g, exec (.call e) s = .next t ∧ called g ∧ s.goesTo t c g hnd addr) ∧
    (s.legal c (.callIndirect e) → far → ret < 2 ^ 27 →
      ∃ t g, exec (.callIndirect e) s = .next t ∧ called g ∧ s.goesTo t c g hnd addr) ∧
    (∀ v, s.legal c (.ret e) → (∀ L, L < 96 → bitOf (c.contrib c.own) L → c.g.vGet e.a.toNat L = v) → c.contrib c.own ≠ 0 →
      hnd = codeHnd v → addr = codeOff v → ∃ t, exec (.ret e) s = .next t ∧ s.goesTo t c c.g hnd addr) ∧
    (s.legal c (.ret e) → s.mayTrap c → ∀ L M, L < 96 → M < 96 → bitOf (c.contrib c.own) L → bitOf (c.contrib c.own) M →
      (∀ k, k < L → bitOf (c.contrib c.own) k = false) → c.g.vGet e.a.toNat L ≠ c.g.vGet e.a.toNat M →
      ∃ t r, exec (.ret e) s = .next t ∧ s.inHandler t c r ∧ r.cause = 5 ∧ r.pc = c.f.pc ∧
        ∀ k, k < 96 → bitOf r.lanes k = (bitOf (c.contrib c.own) k && c.g.vGet e.a.toNat k != c.g.vGet e.a.toNat L))

namespace Sys2Proof.Machine

/-- After a split the fragment at an entry has these lanes and this fusion record and stands at an address (R259). -/
def State.hasFrag (t : State) (c : Iss) (ent : Nat) (lanes : Mask) (pc : Nat) (fe : Option Nat) : Prop :=
  ∃ x, t.fragAt ⟨c.cur.gid, ent⟩ = some x ∧ x.act = lanes ∧ x.pc = pc ∧ x.fe = fe ∧ x.hnd = c.f.hnd

/-- The split has counted and left the group with this list of deferral records and with these entries other than fragments it moves
(R246, R247). -/
def State.splitTo (s t : State) (c : Iss) (moved : List Nat) (records : List Defer) (fixed : Nat → Entry) : Prop :=
  s.passed t c ∧ ∃ g, Map.find? t.groups c.cur.gid = some g ∧ g.defer = records ∧ ∀ n, n ∉ moved → g.entry n = fixed n

/-- The split finds neither entries nor records: with no fault-service duty at the host the block ends with cause DIVERGENCE (R259). -/
def State.diverges (s t : State) (c : Iss) : Prop :=
  s.assisted 3 = false → c.b.st = .running →
    ∃ b, Map.find? t.blocks c.bid = some b ∧ b.st = .ending ∧ b.cause = causeDivergence

end Sys2Proof.Machine

/-- R246, R247, R259, R260: BRV sends the fragment whole when its lanes agree; otherwise it reuses the enclosing record of the same fusion
point with one free entry, or with two makes its entry the fusion record of the fusion point; the lanes whose bit is set enter the
target and the rest stand after the branch; with too few entries a deferral record holds the rest; with no record either the block
ends with DIVERGENCE. BRX gives each way of its table an entry in the same manner, lanes out of range arrive at once, and one way for
all lanes is a plain transfer. A table whose first word names another fusion point than the block's raises FUSION. Which free entries a
split takes, the lowest, is the model's choice (assumption 24). -/
def Obligations.SplitsFillTheTable : Prop :=
  ∀ (s : State) (c : Iss) (e : Enc) (fp : Nat), s.fusionPoint c = some fp → c.g.covered = none → c.f.act &&& c.real ≠ 0 →
    (∀ n ∈ c.g.freeEntries, c.g.topDefer n = none) →
    let i := c.cur.ent
    let free := c.g.freeEntries
    let full := Entry.fusion ⟨c.f.hnd, fp, c.f.act, 0, c.f.fe⟩
    (∀ addr : Nat, s.legal c (.brv e) → (addr : Int) = c.origin e + 4 * e.off14.toInt →
      (∃ h, s.header c c.f.hnd addr true = .ok h) → addr ≠ fp →
      let T := c.f.act &&& c.k e.b.toNat
      let U := c.f.act &&& ~~~(c.k e.b.toNat)
      (U = 0 → s.mayEnterBlock c c.f.hnd addr → ∃ t, exec (.brv e) s = .next t ∧ s.goesTo t c c.g c.f.hnd addr) ∧
      (T = 0 → U ≠ 0 → ∃ t, exec (.brv e) s = .next t ∧ s.onward t c e) ∧
      (∀ e1 e2 more, T ≠ 0 → U ≠ 0 → c.reuse fp = none → free = e1 :: e2 :: more →
        s.blockEnd c c.f ≠ some (c.f.pc + 4 * e.units) →
        ∃ t, exec (.brv e) s = .next t ∧ t.hasFrag c e1 T (addr + 8) (some i) ∧ t.hasFrag c e2 U (c.f.pc + 4 * e.units) (some i) ∧
          s.splitTo t c [e1, e2] c.g.defer (fun n => if n = i then full else c.g.entry n)) ∧
      (∀ r e1 more, T ≠ 0 → U ≠ 0 → c.reuse fp = some r → free = e1 :: more → s.blockEnd c c.f ≠ some (c.f.pc + 4 * e.units) →
        ∃ t, exec (.brv e) s = .next t ∧ t.hasFrag c i T (addr + 8) (some r) ∧ t.hasFrag c e1 U (c.f.pc + 4 * e.units) (some r) ∧
          s.splitTo t c [i, e1] c.g.defer c.g.entry) ∧
      (T ≠ 0 → U ≠ 0 → free.length < (if (c.reuse fp).isSome then 1 else 2) →
        ∃ t, exec (.brv e) s = .next t ∧
          if c.g.defer.length < 16 then t.hasFrag c i T (addr + 8) c.f.fe ∧
            s.splitTo t c [i] (c.g.defer ++ [⟨i, c.f.hnd, fp, c.f.pc + 4 * e.units, c.f.blk, U, 0⟩]) c.g.entry
          else s.diverges t c)) ∧
    (s.legal c (.brx e) → e.lit.isSome = true → (∀ w ∈ (s.table c e).ways, ∃ h, s.header c c.f.hnd w.target true = .ok h) →
      ∀ x : Int, (s.table c e).fusion = some x → x ≠ fp → s.mayTrap c →
      ∃ t, exec (.brx e) s = .next t ∧ s.inHandler t c ⟨1, 11, c.f.hnd, c.f.pc, c.own, 0, 0, []⟩) ∧
    (s.legal c (.brx e) → e.lit.isSome = true → ∀ tb : Table, s.table c e = tb → tb.err = none → tb.fusion = some (fp : Int) →
      (∀ w ∈ tb.ways, (∃ h, s.header c c.f.hnd w.target true = .ok h) ∧ w.target ≠ fp ∧ w.lanes ≠ 0) →
      let k := tb.ways.length
      (k = 0 → s.mayEnterBlock c c.f.hnd fp → ∃ t, exec (.brx e) s = .next t ∧ s.goesTo t c c.g c.f.hnd fp) ∧
      (∀ w : Way, tb.ways = [w] → tb.out = 0 → s.mayEnterBlock c c.f.hnd w.target.toNat →
        ∃ t, exec (.brx e) s = .next t ∧ s.goesTo t c c.g c.f.hnd w.target.toNat) ∧
      (1 ≤ k → k ≠ 1 ∨ tb.out ≠ 0 → c.f.act &&& ~~~tb.out ≠ 0 →
        (c.reuse fp = none → k ≤ free.length →
          ∃ t, exec (.brx e) s = .next t ∧ (∀ p ∈ free.zip tb.ways, t.hasFrag c p.1 p.2.lanes (p.2.target.toNat + 8) (some i)) ∧
            s.splitTo t c (free.take k) c.g.defer
              (fun n => if n = i then .fusion ⟨c.f.hnd, fp, c.f.act, tb.out, c.f.fe⟩ else c.g.entry n)) ∧
        (∀ r x, c.reuse fp = some r → c.g.entry r = .fusion x → k - 1 ≤ free.length → x.exp &&& ~~~(x.arr ||| tb.out) ≠ 0 →
          ∃ t, exec (.brx e) s = .next t ∧
            (∀ p ∈ (i :: free).zip tb.ways, t.hasFrag c p.1 p.2.lanes (p.2.target.toNat + 8) (some r)) ∧
            s.splitTo t c (i :: free.take (k - 1)) c.g.defer
              (fun n => if n = r then .fusion { x with arr := x.arr ||| tb.out } else c.g.entry n)) ∧
        (∀ w more, tb.ways = w :: more → free.length < (if (c.reuse fp).isSome then k - 1 else k) →
          ∃ t, exec (.brx e) s = .next t ∧
            if c.g.defer.length + max (k - 1) 1 ≤ 16 then
              t.hasFrag c i w.lanes (w.target.toNat + 8) c.f.fe ∧ s.splitTo t c [i] (c.g.defer ++
                (if more = [] then [⟨i, c.f.hnd, fp, w.target.toNat, w.target.toNat, 0, tb.out⟩]
                 else more.reverse.mapIdx (fun j (v : Way) => ⟨i, c.f.hnd, fp, v.target.toNat, v.target.toNat, v.lanes,
                   if j = 0 then tb.out else 0⟩))) c.g.entry
            else s.diverges t c)))

namespace Sys2Proof.Machine

/-- The lanes parked at a fusion record have become one fragment in its entry, past the header of the fusion point; entry i is free, and
the other entries and the deferral records are as given (Fuse, R249). -/
def State.fusedAt (s t : State) (c : Iss) (r : Nat) (x : Fusion) (lanes : Mask) (entry : Nat → Entry) : Prop :=
  s.passed t c ∧ ∃ g f, Map.find? t.groups c.cur.gid = some g ∧ g.defer = c.g.defer ∧ g.entry r = .frag f ∧ f.act = lanes ∧ f.pc = x.fpc + 8 ∧
    f.blk = x.fpc ∧ f.hnd = x.hnd ∧ f.fe = x.fe ∧ g.entry c.cur.ent = .free ∧ ∀ n, n ≠ r → n ≠ c.cur.ent → g.entry n = entry n

/-- A fused fragment's own block entry, sound and not its next fusion point (R249). -/
def State.mayFuse (s : State) (c : Iss) (r : Nat) (x : Fusion) : Prop :=
  c.g.topDefer r = none ∧ (∃ h, s.header c x.hnd x.fpc true = .ok h) ∧ c.g.inner r { c.f with fe := x.fe } ≠ some (x.hnd, x.fpc)

/-- The deferred lanes of a record start in their owner's entry (R249): from their address, or past it where that is a header; the record
keeps the lanes that have arrived. -/
def State.deferredRun (s t : State) (c : Iss) (d : Defer) (arr : Mask) : Prop :=
  s.passed t c ∧ ∃ g f, Map.find? t.groups c.cur.gid = some g ∧ t.fragAt c.cur = some f ∧ f.act = d.nmask ∧ f.hnd = d.hnd ∧ f.blk = d.blk ∧
    f.pc = (if d.pcn = d.blk then d.pcn + 8 else d.pcn) ∧
    g.defer = (c.g.setTop c.cur.ent (some { d with arr := arr, nmask := 0 })).defer

end Sys2Proof.Machine

/-- R63, R249, R250, R263, R264, R268: a fragment that enters its own fusion point arrives there: its lanes join the record's, and when
they complete it all go on as one fragment in its entry; a deferral record starts its deferred lanes, or, with none left, goes and its
lanes go on. EXIT counts and takes the fragment's lanes out of every record that expects them, frees its entry, completes a record so
or starts deferred lanes, and a block all of whose lanes have exited ends. NOP and YIELD pass; EXLW and EXLW2 latch the distinct words
of their lanes, ascending, each with the lanes that hold it. -/
def Obligations.ExitPassAndLatch : Prop :=
  ∀ (s : State) (c : Iss) (e : Enc),
    (∀ (addr : Nat) (h : Header), s.legal c (.jmp e) → e.b = 0x7F → (addr : Int) = c.origin e + 4 * (e.lit.getD 0).toInt →
      s.header c c.f.hnd addr true = .ok h → h.fuse = true → c.g.inner c.cur.ent c.f = some (c.f.hnd, addr) → c.g.covered = none →
      c.f.act &&& c.real ≠ 0 →
      (∀ r x, c.g.topDefer c.cur.ent = none → c.f.fe = some r → c.g.entry r = .fusion x →
        let arr := x.arr ||| c.f.act
        (x.exp &&& ~~~arr ≠ 0 → ∃ t g, exec (.jmp e) s = .next t ∧ s.passed t c ∧ Map.find? t.groups c.cur.gid = some g ∧
          g.defer = c.g.defer ∧ g.entry c.cur.ent = .free ∧ g.entry r = .fusion { x with arr := arr } ∧
          ∀ n, n ≠ r → n ≠ c.cur.ent → g.entry n = c.g.entry n) ∧
        (x.exp &&& ~~~arr = 0 → s.mayFuse c r x → ∃ t, exec (.jmp e) s = .next t ∧ s.fusedAt t c r x arr c.g.entry)) ∧
      (∀ d, c.g.topDefer c.cur.ent = some d →
        let arr := d.arr ||| c.f.act
        (d.nmask ≠ 0 → (d.pcn = d.blk → ∃ h, s.header c d.hnd d.pcn true = .ok h ∧ h.fuse = false) →
          ∃ t, exec (.jmp e) s = .next t ∧ s.deferredRun t c d arr) ∧
        (d.nmask = 0 → (c.g.setTop c.cur.ent none).inner c.cur.ent c.f ≠ some (c.f.hnd, addr) →
          ∃ t g f, exec (.jmp e) s = .next t ∧ s.passed t c ∧ Map.find? t.groups c.cur.gid = some g ∧ t.fragAt c.cur = some f ∧
            f.act = arr ∧ f.pc = addr + 8 ∧ g.defer = (c.g.setTop c.cur.ent none).defer ∧
            ∀ n, n ≠ c.cur.ent → g.entry n = c.g.entry n))) ∧
    (s.legal c (.exit e) → ∃ t, exec (.exit e) s = .next t ∧ s.passed t c ∧
      let out := c.g.gone c.f.act
      (c.f.st ≠ .handler → out.covered = none → c.g.topDefer c.cur.ent = none →
        (c.f.fe = none → ∃ h, c.g.counted h ∧ c.g.ticked h c.own ∧
          t = (s.setGroup c.cur.gid { (h.gone c.f.act).setEntry c.cur.ent .free with exitAt := s.seq }).checkExit c.bid) ∧
        ((out.setEntry c.cur.ent .free).alive &&& c.real ≠ 0 → ∃ g, Map.find? t.groups c.cur.gid = some g ∧ g.defer = c.g.defer ∧
          g.entry c.cur.ent = .free ∧ ∀ n, n ≠ c.cur.ent → g.entry n = out.entry n)) ∧
      (∀ r x, c.f.st ≠ .handler → c.g.topDefer c.cur.ent = none → out.covered = some r → out.entry r = .fusion x →
        x.arr &&& c.real ≠ 0 → (∀ p ∈ out.table, ∀ y, p.1 ≠ r → p.2 = .fusion y → y.exp &&& ~~~y.arr ≠ 0) → s.mayFuse c r x →
        s.fusedAt t c r x x.arr out.entry) ∧
      (∀ d, c.f.st ≠ .handler → out.covered = none → c.g.topDefer c.cur.ent = some d → d.nmask ≠ 0 → d.nmask &&& c.real ≠ 0 →
        (d.pcn = d.blk → ∃ h, s.header c d.hnd d.pcn true = .ok h ∧ h.fuse = false) → s.deferredRun t c d d.arr)) ∧
    (s.legal c (.nop e) → ∃ t, exec (.nop e) s = .next t ∧ s.onward t c e) ∧
    (s.legal c (.yield e) → ∃ t, exec (.yield e) s = .next t ∧ s.onward t c e ∧ ∀ n, c.f.latch = [] → s.blockEnd c c.f = some n →
      c.f.pc + 4 * e.units < n → ∃ f, t.fragAt c.cur = some f ∧ f.yielded = true) ∧
    (∀ wide : Bool, s.legal c (if wide then .exlw2 e else .exlw e) → c.own ≠ 0 →
      let word := fun (L : Nat) => if wide then c.g.vGet (e.a.toNat + 1) L ++ c.g.vGet e.a.toNat L
        else ((c.g.vGet e.a.toNat L).zeroExtend 64 : DWord)
      (∀ L, L < 96 → bitOf c.own L → s.laneReason c (word L) wide = none) →
      ∃ t f, exec (if wide then .exlw2 e else .exlw e) s = .next t ∧ s.passed t c ∧ t.fragAt c.cur = some f ∧ f.latchAt = 0 ∧
        f.pc = c.f.pc ∧ (f.latch.map (fun x => x.value.toNat)).Pairwise (· < ·) ∧
        (∀ x ∈ f.latch, x.wide = wide ∧ x.lanes ≠ 0 ∧ ∀ L, L < 96 → (bitOf x.lanes L = (bitOf c.own L && word L == x.value))) ∧
        (∀ L, L < 96 → bitOf c.own L → ∃ x ∈ f.latch, x.value = word L))

/-! ## Events: power, heat, links and faults -/

/-- R289, R291 to R294, R302: links narrow, sleep and come back; a column takes its reading and moves when its threshold is passed and no
dwell runs, or when a written hysteresis makes it due; an epoch refills budgets and boost tokens; the issue stage's timers end a
fragment's YIELD period and promote one that is ready. -/
def Obligations.LinksColumnsAndTimersMove : Prop :=
  ∀ s : State,
    (∀ n, isLink n = true → s.linkState n = .full → exec (.linkNarrow n) s = .next { s with links := Map.put s.links n .narrow }) ∧
    (∀ n, s.linkState n = .narrow → s.assisted 6 = false → s.asked 6 n = false → exec (.linkSleep n) s = .next { s with links := Map.put s.links n .sleep }) ∧
    (∀ n, s.linkState n = .narrow → s.assisted 6 = true → s.asked 6 n = false →
      ∃ t, exec (.linkSleep n) s = .next t ∧ t.linkState n = .narrow ∧ ∃ d ∈ t.regs.duties, d.duty = 6 ∧ d.what = n) ∧
    (∀ n, s.linkState n = .widening ∨ s.linkState n = .waking →
      exec (.linkFull n) s = .next { s with links := Map.put s.links n .full }) ∧
    (let after := fun (r : Regs) (x : Column) =>
       if !x.dwell && (if x.throttled then decide (x.temp10 ≤ 10 * (r.tthrot - r.hyst)) else decide (10 * r.tthrot ≤ x.temp10)) then
         { x with throttled := !x.throttled, dwell := true }
       else x
     (∀ value : DWord, s.assisted 5 = false → (∀ col, col < 96 → s.asked 5 col = false) → ∃ t, exec (.registerWrite 0x1018 4 value) s = .next t ∧
      t = { s with columns := t.columns, regs := { s.regs with hyst := max 2 (min 15 (value.toNat % 2 ^ 16)) } } ∧
      ∀ col, col < 96 → t.column col = after t.regs (s.column col)) ∧
     ∀ col : Nat, s.assisted 5 = false → s.asked 5 col = false →
      (∀ temp10, col < 96 → ∃ t, exec (.columnTempChange col temp10) s = .next t ∧ t = { s with columns := t.columns } ∧
        t.column col = after s.regs { s.column col with temp10 := temp10 } ∧ ∀ k, k ≠ col → t.column k = s.column k) ∧
      ((s.column col).dwell = true → ∃ t, exec (.thmDwellExpire col) s = .next t ∧ t = { s with columns := t.columns } ∧
        t.column col = after s.regs { s.column col with dwell := false } ∧ ∀ k, k ≠ col → t.column k = s.column k)) ∧
    (∀ (col temp10 : Nat) (x : Column), s.assisted 5 = true → s.asked 5 col = false → col < 96 → s.column col = x → x.throttled = true →
      x.dwell = false → temp10 ≤ 10 * (s.regs.tthrot - s.regs.hyst) → ∃ t, exec (.columnTempChange col temp10) s = .next t ∧
      t.column col = { x with temp10 := temp10 } ∧ ∃ d ∈ t.regs.duties, d.duty = 5 ∧ d.what = col) ∧
    (∃ t, exec .budgetEpoch s = .next t ∧ t = { s with fresh := s.fresh + 1, budgets := t.budgets, ctxs := t.ctxs, regs := { s.regs with boost := t.regs.boost } } ∧
      (∀ c, c < 96 → Map.get 0 t.budgets c =
        max 4096 (if (s.column c).throttled then Config.baseBudget s.fresh c / 2 else Config.baseBudget s.fresh c)) ∧
      ∀ n, t.ctx n = if (s.ctx n).en then
        { s.ctx n with tokens := min ((s.ctx n).tokens + 1024 * (s.ctx n).weight) (65536 * (s.ctx n).weight) } else s.ctx n) ∧
    (∀ (cur : Cursor) (f : Frag), s.fragAt cur = some f →
      (∃ t, exec (.yieldPeriodEnd cur.gid cur.ent) s = .next t ∧ s.moved t ∧ t.fragAt cur = some { f with yielded := false }) ∧
      (∃ t, exec (.fragmentStarvePromote cur.gid cur.ent) s = .next t ∧ s.moved t ∧ t.fragAt cur =
        some (if s.readyAt cur then { f with starved := true } else f)))

namespace Sys2Proof.Machine

/-- A byte of memory that takes what the module writes: populated, under no enabled alias, and its home answers (R74, R350, R385). -/
def State.takes (s : State) (pa : Nat) : Prop :=
  s.populated pa 1 = true ∧ (s.aliasOf pa).isNone = true ∧ s.answers ⟨.glob, pa⟩ = true

/-- Every tile runs, and its log has room for n more messages (R384, R385). -/
def State.roomy (s : State) (n : Nat) : Prop := ∀ t, t < 8 → (s.tileRec t).st = .run ∧ (s.tileRec t).log.length + n < logRoom

/-- A bit of ERR.STAT has been set: one record more in the error log, its count, and vector 0 (R353, R389). -/
def State.logged (s t : State) (r : Regs) : Prop :=
  t.msix = s.msix ++ [0] ∧ t.regs = { r with elog := t.regs.elog, elogTail := (s.regs.elogTail + 1) % 2 ^ 32 }

end Sys2Proof.Machine

/-- R22, R23, R387, R388, R390: a repeated transfer is remembered for its half, a second mismatch of that half retires it, and blocks on
a core with both halves retired end with cause CORE_LOST; a sage mismatch halts scheduling, a restart resumes it; a lost phase derates
its rail and takes the module to its lowest operating point; a poisoned line is recorded. -/
def Obligations.HardwareFaultsAreRecorded : Prop :=
  ∀ s : State,
    (∀ core half second, core < 768 → half < 2 → (s.core core).ret < 3 → (s.core core).ret ≠ half + 1 →
      (second = false ∨ half ∉ (s.core core).crc → ∃ t, exec (.slotCrcMismatch core half second) s = .next t ∧
        t = { s with cores := t.cores } ∧ (∀ c, c ≠ core → t.core c = s.core c) ∧
        t.core core = { s.core core with crc := (t.core core).crc } ∧ ∀ h, h ∈ (t.core core).crc ↔ h = half ∨ h ∈ (s.core core).crc) ∧
      (second = true → half ∈ (s.core core).crc → ∃ t, exec (.slotCrcMismatch core half second) s = .next t ∧
        (t.core core).ret = (s.core core).ret + half + 1 ∧ half ∉ (t.core core).crc ∧ t.regs.coreErr = true ∧
        ((s.core core).ret = 0 → s.logged t { s.regs with coreErr := true }) ∧
        ((s.core core).ret ≠ 0 → ∀ bid b, Map.find? s.blocks bid = some b → b.core = core → b.st = .running →
          ∃ b', Map.find? t.blocks bid = some b' ∧ b'.st = .ending ∧ b'.cause = 28))) ∧
    (s.regs.sageRecent = false → ∃ t, exec .sageMismatch s = .next t ∧ t.scheduling = false ∧
      t = { s with fresh := s.fresh + 1, regs := t.regs, msix := t.msix } ∧
      s.logged t { s.regs with sageHalted := true, sageErr := true }) ∧
    (s.regs.sageHalted = true → ∃ t, exec .sageRestart s = .next t ∧
      t = { s with ctrls := t.ctrls, regs := { s.regs with sageHalted := false, sageRecent := true } } ∧
      ∀ n, n ≠ 0 → Map.find? t.ctrls n = Map.find? s.ctrls n) ∧
    (∀ line, line % 128 = 0 → s.populated line 128 = true → ∃ t, exec (.memUncorrectable line) s = .next t ∧
      t = { s with poison := t.poison, regs := { s.regs with elog := t.regs.elog, elogTail := (s.regs.elogTail + 1) % 2 ^ 32 } } ∧
      ∀ l, l ∈ t.poison ↔ l = line ∨ l ∈ s.poison) ∧
    (∀ n r, s.regs.rails[n]? = some r → r.good ≠ 0 → ∃ t, exec (.railPhaseFail n) s = .next t ∧
      t = { s with regs := t.regs, msix := t.msix } ∧ t.regs.derateErr = true ∧ t.regs.mhz = Config.lowestMhz ∧
      t.regs.rails = s.regs.rails.set n { r with good := r.good - 1, ilim := r.ilim * (r.good - 1) / r.total }) ∧
    (∀ mhz, 0 < mhz → mhz ≤ 1550 → exec (.operatingPointSet mhz) s = .next { s with regs := { s.regs with mhz := mhz } })

/-- R391: a cluster asked to power down drains its blocks, saves, and is gated with its scratchpads' contents gone, which read 0 from then
on as at a cold start (the model's choice, assumption 3); a wake takes it back. -/
def Obligations.ClustersGateAndWake : Prop :=
  ∀ (s : State) (n : Nat),
    (n < 96 → s.cluState n = .on → ∃ t, exec (.cluReq n) s = .next t ∧ t = { s with clusters := Map.put s.clusters n .drain, blocks := t.blocks } ∧
      ∀ bid b, Map.find? s.blocks bid = some b → ∃ b', Map.find? t.blocks bid = some b' ∧ b' = { b with st := b'.st } ∧
        (b.st = .running → b.core / 8 = n → b'.st = .stopping .preempt) ∧ (b.st ≠ .running → b'.st = b.st)) ∧
    (s.cluState n ≠ .on → exec (.cluReq n) s = .next s) ∧
    (s.cluState n = .on ∨ s.cluState n = .waking → exec (.cluWake n) s = .next s) ∧
    (s.cluState n = .drain ∨ s.cluState n = .save → exec (.cluWake n) s = .next { s with clusters := Map.put s.clusters n .on }) ∧
    (s.cluState n = .gated → exec (.cluWake n) s = .next { s with clusters := Map.put s.clusters n .waking }) ∧
    (s.cluState n = .waking → exec (.cluWakeDone n) s = .next { s with clusters := Map.put s.clusters n .on }) ∧
    (s.cluState n = .drain → (∀ p ∈ s.blocks, p.2.core / 8 ≠ n) →
      exec (.cluDrainDone n) s = .next { s with clusters := Map.put s.clusters n .save }) ∧
    (s.cluState n = .save → (∀ p ∈ s.engines, p.2.core / 8 ≠ n) → (∀ w ∈ s.cbuf, w.core / 8 ≠ n) →
      ∃ t, exec (.cluSaveDone n) s = .next t ∧ t.cluState n = .gated ∧ t.mem = s.mem ∧ t.tspad = s.tspad ∧ t.groups = s.groups ∧
        (∀ a, t.spad.read a = if a / 524288 / 8 = n then 0 else s.spad.read a) ∧ (∀ c ∈ t.l1, c.place / 8 ≠ n) ∧
        (∀ x ∈ t.icache, x.core / 8 ≠ n) ∧ (∀ x ∈ t.tlb1, x.place / 8 ≠ n))

/-- R383 to R386: a checkpoint holds the tile scratchpad, the tile's dirty guests, its cores' deques and its copy queues, empties the log,
and is written to the partner's area, at the length and with the bytes that the model gives it (assumptions 53 and 5); a fault takes the
tile's blocks, copies and engine threads away and leaves memory; the reset, whose states the model takes one at a time (assumption 27),
reloads the checkpoint with those of its guests that home has not passed, applies the logged messages, and starts the restartable blocks
again, or ends their launch with status TILE_RESET. -/
def Obligations.TilesResetAndReplay : Prop :=
  ∀ (s : State) (n : Nat), n < 8 →
    let lo := 33554432 * n
    let r := s.tileRec n
    (r.st = .run → (s.tileRec (n ^^^ 4)).st = .run → (∀ k, k < 2 ^ 29 → s.homeTile (s.checkpointArea n + k) = n ^^^ 4) → r.held = [] →
      ∃ t, exec (.tileCheckpoint n) s = .next t ∧ t.groups = s.groups ∧ t.blocks = s.blocks ∧ t.spad = s.spad ∧ t.tspad = s.tspad ∧
        t.cores = s.cores ∧ t.regs = s.regs ∧
        t.tileRec n = { r with log := [], pad := (t.tileRec n).pad
                               guests := s.guests.filter (fun g => g.dirty && g.place == n)
                               queues := s.engines.filter (fun x => x.2.tile == n)
                               deques := (s.cores.filter (fun x => x.1 / 96 == n && !x.2.deque.isEmpty)).map (fun x => (x.1, x.2.deque)) } ∧
        (∀ a, (t.tileRec n).pad.read a = if lo ≤ a ∧ a < lo + 33554432 then s.tspad.read a else 0) ∧
        (∀ k, k < s.checkpointLen n (t.tileRec n).guests (t.tileRec n).pad (t.tileRec n).queues → s.takes (s.checkpointArea n + k) →
          t.mem.read (s.checkpointArea n + k) = Config.checkpointByte s.fresh k)) ∧
    ((s.tileRec (n ^^^ 4)).st = .run → ∃ t, exec (.tileFault n) s = .next t ∧ (t.tileRec n).st = .halt ∧ t.mem = s.mem ∧
      t.spad = s.spad ∧ t.tspad = s.tspad ∧ t.regs.tileErr = true ∧ t.msix = s.msix ++ [0] ∧
      (∀ bid b, Map.find? t.blocks bid = some b → b.core / 96 ≠ n) ∧ (∀ c ∈ t.l1, c.place / 96 ≠ n) ∧ (∀ c ∈ t.guests, c.place ≠ n) ∧
      (∀ p ∈ t.engines, p.2.tile ≠ n) ∧
      (∀ g ∈ r.guests, g ∈ (t.tileRec n).guests ↔ ∃ x ∈ s.guests, x.dirty = true ∧ x.place = n ∧ x.line = g.line) ∧
      ∀ bid b, Map.find? s.blocks bid = some b → b.core / 96 = n → b.st ≠ .over → (b.lid, b.bidx, b.child) ∈ (t.tileRec n).lost) ∧
    ((s.tileRec (n ^^^ 4)).st ≠ .run → ∃ t, exec (.tileFault n) s = .next t ∧ t.scheduling = false ∧ t.regs.shut = true) ∧
    (r.st = .halt → exec (.tileResetDone n) s = .next { s with tiles := Map.put s.tiles n { r with st := .restore } }) ∧
    (r.st = .restore → ∃ t, exec (.tileRestoreDone n) s = .next t ∧ (t.tileRec n).st = .replay ∧ t.mem = s.mem ∧
      t.tspad = (s.tspad.zero lo 33554432).writeAll r.pad ∧
      (∀ g, g ∈ t.guests ↔ g ∈ s.guests ∨ g ∈ r.guests ∧ s.dirty? g.line = none ∧
        ∀ i, i < 128 → Map.get 0 s.ver (g.line + i) ≤ g.vers.getD i 0) ∧
      (∀ g, g ∈ (t.tileRec n).guests ↔ g ∈ r.guests ∧ s.dirty? g.line = none ∧
        ∀ i, i < 128 → Map.get 0 s.ver (g.line + i) ≤ g.vers.getD i 0) ∧
      (∀ c, (∀ x ∈ r.deques, x.1 ≠ c) → (t.core c).deque = (s.core c).deque) ∧
      ∀ c ds, r.deques = [(c, ds)] → (t.core c).deque = ds) ∧
    (r.st = .replay → ∃ t, exec (.tileReplayDone n) s = .next t ∧ (t.tileRec n).st = .run ∧ (t.tileRec n).lost = [] ∧
      (∀ c, c / 96 = n → (t.core c).deque = []) ∧
      (let again := r.log.foldl (fun u x => match x.msg with
          | .byte l b => u.putHome l b
          | _ => u) s
       r.lost = [] → r.held = [] → t.mem = again.mem ∧ t.tspad = again.tspad) ∧
      ∀ x ∈ r.lost, ∀ l, Map.find? s.launches x.1 = some l → l.phase = .admitted →
        ∃ l', Map.find? t.launches x.1 = some l' ∧
          if l.desc.restart ∧ l.live then ∃ k, (x.2.1, x.2.2, k) ∈ l'.redo else 7 ≤ l'.status)

/-! ## Events: contexts, decants and ownership -/

namespace Sys2Proof.Machine

/-- An operation of CTX.CTL left its STAT and CTX, and beyond them only the named context (R331, R333). -/
def State.ctxDone (s t : State) (n stat : Nat) (x : Ctx) : Prop :=
  t = { s with ctxs := t.ctxs, regs := { s.regs with ctxCtx := n, ctxStat := stat } } ∧ t.ctx n = x ∧ ∀ k, k ≠ n → t.ctx k = s.ctx k

/-- An operation of CTX.CTL may run: the module is owned and none runs (R331). -/
def State.ctxReady (s : State) : Prop := s.ctxBusy = false ∧ s.regs.own = .owned

end Sys2Proof.Machine

/-- R328, R331, R339: a sound entry enables its context, a reload takes its weight, a disable ends its launches and, when they have
ended, drops its translations, pins and decants; an operation out of place reports STAT 3. An invalidation drops a range's entries,
beside one that runs, and completes once no access still uses them; one that meets a running decant reports STAT 3. What STAT and CTX
hold meanwhile, and that one may start beside another, is the model's choice (assumption 39). -/
def Obligations.ContextsEnableAndLeave : Prop :=
  ∀ (s : State) (n : Nat),
    (s.ctxReady → s.entryOk (s.ctxEntry n) = true → (s.ctx n).en = false → n < 4096 → ∃ t, exec (.ctxEnable n) s = .next t ∧
      let e := s.ctxEntry n
      s.ctxDone t n 2 { Ctx.reset with en := true, root := 4096 * fld e 155 116, imgBase := 4096 * fld e 195 156,
                                       imgPg := fld e 223 196, tsOff := fld e 241 232, tsLen := fld e 251 242, weight := fld e 231 224 }) ∧
    (s.ctxReady → (s.ctx n).en = true → ∃ t, exec (.ctxReload n) s = .next t ∧
      s.ctxDone t n 2 { s.ctx n with weight := fld (s.ctxEntry n) 231 224 }) ∧
    (s.ctxReady → (s.ctx n).en = true → ∃ t, exec (.ctxDisable n) s = .next t ∧ (t.ctx n).going = true ∧ t.regs.ctxStat = 1 ∧
      t.regs.ctxCtx = n ∧ ∀ lid l, Map.find? s.launches lid = some l → l.ctx = n →
        ∃ l', Map.find? t.launches lid = some l' ∧ (l'.phase = .ended ∨ l'.phase = .closing ∨ 9 ≤ l'.status)) ∧
    (∀ i, (i = Instr.ctxEnable n ∧ (¬ s.ctxReady ∨ s.entryOk (s.ctxEntry n) = false ∨ (s.ctx n).en = true ∨ 4096 ≤ n)) ∨
        ((i = .ctxReload n ∨ i = .ctxDisable n) ∧ (¬ s.ctxReady ∨ (s.ctx n).en = false)) →
      exec i s = .next { s with regs := { s.regs with ctxCtx := n, ctxStat := 3 } }) ∧
    ((s.ctx n).going = true → (∀ p ∈ s.launches, p.2.ctx = n → p.2.phase = .ended) → ∃ t, exec (.ctxDisableDone n) s = .next t ∧
      t.ctx n = Ctx.reset ∧ (∀ k, k ≠ n → t.ctx k = s.ctx k) ∧ (∀ e ∈ t.tlb1 ++ t.tlb2, e.ctx ≠ n) ∧ (∀ p ∈ t.pins, p.ctx ≠ n) ∧
      (∀ p ∈ t.decants, p.2.ctx ≠ n) ∧ (s.regs.own = .owned → t.regs.ctxStat = 2)) ∧
    (let hit := fun (va m : Nat) => s.regs.invLen = 0 ∨ overlap va m s.regs.invVa (4096 * s.regs.invLen.toNat) = true
     ((∀ p ∈ s.decants, p.2.ctx = n → ¬ hit p.2.va p.2.size) → ∃ t, exec (.xlInv n) s = .next t ∧
      t = { s with tlb1 := t.tlb1, tlb2 := t.tlb2, regs := { s.regs with invStat := 1, invOn := true, invCtx := n, invSeq := s.seq
                                                                         invRanges := t.regs.invRanges } } ∧
      (∀ r, r ∈ t.regs.invRanges ↔ (s.regs.invOn = true ∧ r ∈ s.regs.invRanges) ∨
        ∃ e ∈ s.tlb1 ++ s.tlb2, e.ctx = n ∧ hit e.va e.size ∧ r = (e.pa, e.size)) ∧
      (∀ e, e ∈ t.tlb1 ↔ e ∈ s.tlb1 ∧ ¬ (e.ctx = n ∧ hit e.va e.size)) ∧ (∀ e, e ∈ t.tlb2 ↔ e ∈ s.tlb2 ∧ ¬ (e.ctx = n ∧ hit e.va e.size))) ∧
     ((∃ p ∈ s.decants, p.2.ctx = n ∧ hit p.2.va p.2.size) →
      exec (.xlInv n) s = .next { s with regs := { s.regs with invCtx := n, invStat := 3 } })) ∧
    (s.regs.invOn = true → s.pendingIn s.regs.invRanges s.regs.invSeq = false →
      exec .xlInvDone s = .next { s with regs := { s.regs with invStat := 2, invOn := false, invRanges := [] } }) ∧
    (s.regs.invOn = false ∨ s.pendingIn s.regs.invRanges s.regs.invSeq = true → exec .xlInvDone s = .next s)

/-- R344 to R348: a decant of a movable page starts with round 0, which copies the whole page from its lines' owners; a round with fewer
than 64 lines written since freezes the page; the freeze's end moves the page, rewrites its entries and drops its translations. The
decant's tile, that of the old frame's first byte, is the model's choice (assumption 54), as is what DEC.CTL's CTX and STAT hold
(assumption 39). -/
def Obligations.DecantsCopyAndMove : Prop :=
  ∀ s : State,
    (∀ n l, s.decantable n s.regs.decVa s.regs.decDst = .ok l → ∃ t, exec (.decantStart n) s = .next t ∧
      t = { s with nextId := s.nextId + 1, decants := t.decants, regs := { s.regs with decCtx := n, decStat := 1 } } ∧
      Map.find? t.decants s.nextId = some ⟨n, l.va, l.size, l.pa, s.regs.decDst, [], [], 0, false, true, s.homeTile l.pa⟩) ∧
    (∀ n stat, s.decantable n s.regs.decVa s.regs.decDst = .error stat →
      exec (.decantStart n) s = .next { s with regs := { s.regs with decCtx := n, decStat := stat } }) ∧
    (∀ n va dst l, s.decantable n va dst = .ok l → s.regs.sageHalted = false → s.partOf dst = s.partOf l.pa →
      s.partOf (dst + l.size - 1) = s.partOf l.pa → s.asked 2 (pageOf n l.va) = false →
      (s.assisted 2 = false → ∃ t, exec (.decantAutoStart n va dst) s = .next t ∧
        t = { s with nextId := s.nextId + 1, decants := t.decants } ∧
        Map.find? t.decants s.nextId = some ⟨n, l.va, l.size, l.pa, dst, [], [], 0, false, false, s.homeTile l.pa⟩) ∧
      (s.assisted 2 = true → ∃ t, exec (.decantAutoStart n va dst) s = .next t ∧
        t.decants.map Prod.fst = s.decants.map Prod.fst ∧ ∃ d ∈ t.regs.duties, d.duty = 2 ∧ d.what = pageOf n l.va)) ∧
    (∀ id d, Map.find? s.decants id = some d → d.frozen = false → s.frameUp d.dst d.size = true →
      ∃ t, exec (.decantRound id) s = .next t ∧
        (d.marked.length < 64 ∨ (8 ≤ d.round ∧ d.marked.length ≤ 512) → Map.find? t.decants id = some { d with frozen := true, todo := [] }) ∧
        (64 ≤ d.marked.length → d.round < 8 →
          Map.find? t.decants id = some { d with todo := d.marked, marked := [], round := d.round + 1 }) ∧
        (512 < d.marked.length → 8 ≤ d.round → Map.find? t.decants id = none) ∧
        (d.round = 0 → d.old % 128 = 0 → d.dst % 128 = 0 → d.size % 128 = 0 → s.populated d.dst d.size = true →
          overlap d.old d.size d.dst d.size = false → s.inWindow d.old d.size = false → s.inWindow d.dst d.size = false →
          s.roomy (d.size + 128 * s.guests.length) → ∀ k, k < d.size → t.mem.read (d.dst + k) = s.ownerByte (d.old + k))) ∧
    (∀ id d level a e, Map.find? s.decants id = some d → d.frozen = true → d.host = true →
      { s with guests := [] }.pendingIn [(d.old, d.size)] s.seq = false →
      s.roomy (128 * s.guests.length) → s.entryOf d.ctx d.va = some (level, a, e) → ∃ t, exec (.decantFreezeDone id) s = .next t ∧
        Map.find? t.decants id = none ∧ t.regs.decStat = 2 ∧
        (∀ x ∈ t.tlb1 ++ t.tlb2, x.ctx = d.ctx → overlap x.va x.size d.va d.size = false) ∧
        let m := d.size / 2 ^ (12 + 9 * level)
        let first := a - a % (8 * m)
        (s.populated first (8 * m) = true → s.inWindow first (8 * m) = false →
          ∀ i k, i < m → k < 8 → t.mem.read (first + 8 * i + k) = BitVec.ofNat 8 (validEntry e d.dst / 2 ^ (8 * k))))

/-- R72, R73, R208, R325 to R327, R353, R359 to R362: reset and release scrub, a scrub's end zeroes every byte and leaves the module
unowned, enrolment takes the keys; windows, firmware, reports and collective sets take their requests or refuse them. The byte order of
keys, the bytes that digests and signatures cover and the form of a signature are the model's (assumption 52), a load that begins while
one runs is its choice (assumption 39), and the attestation key and its randomness are free (assumption 5). -/
def Obligations.OwnershipAndUnitsTakeRequests : Prop :=
  ∀ s : State,
    (∃ t, exec .coldReset s = .next t ∧ t.regs.own = .scrubbing ∧ t.regs.ownerKey = none ∧ t.groups = [] ∧ t.blocks = [] ∧
      t.launches = [] ∧ t.ctxs = [] ∧ t.queues = []) ∧
    (s.regs.own = .owned → ∃ t, exec .ownRel s = .next t ∧ t.regs.own = .scrubbing ∧
      ∀ n, (s.ctx n).en = true → (t.ctx n).going = true) ∧
    (s.regs.own = .unowned → exec .ownEnrol s =
      .next { s with regs := { s.regs with ownerKey := some s.regs.keys, own := .owned, enrolStat := 2 } }) ∧
    (s.regs.own ≠ .unowned → exec .ownEnrol s = .next { s with regs := { s.regs with enrolStat := 3 } }) ∧
    (s.regs.own = .scrubbing → (∀ p ∈ s.ctxs, p.2.en = false) → ∃ t, exec .scrubDone s = .next t ∧ t.regs.own = .unowned ∧
      (∀ l, t.homeByte l = 0) ∧ t.groups = [] ∧ t.launches = [] ∧ t.l1 = [] ∧ t.guests = [] ∧ t.icache = []) ∧
    (∀ head, ∃ t, exec (.evHeadWrite head) s = .next t ∧ t.regs.evHead = head ∧ (t.regs.evWait = [] ∨ t.ringReady = false) ∧
      (s.regs.evWait = [] → t = { s with regs := { s.regs with evHead := head } })) ∧
    (∀ n fmt, n < s.regs.windows.length →
      let w := s.window n
      (s.windowBad n w fmt.toNat = true → ∃ t, exec (.fwEnable n fmt) s = .next t ∧ t = { s with regs := t.regs } ∧
        t.window n = { w with fmt := fmt.toNat, en := false, err := true }) ∧
      (s.windowBad n w fmt.toNat = false → ∃ t, exec (.fwEnable n fmt) s = .next t ∧
        t.window n = { w with fmt := fmt.toNat, en := true, err := false } ∧ ∀ c ∈ t.l1, c.line + 128 ≤ w.abase ∨ w.abase + w.alen ≤ c.line) ∧
      (∃ t, exec (.fwDisable n) s = .next t ∧ t.window n = { w with en := false } ∧
        ∀ c ∈ t.l1, c.line + 128 ≤ w.abase ∨ w.abase + w.alen ≤ c.line)) ∧
    (∀ kind,
      let ok := s.regs.own = .owned ∧ (∀ p ∈ s.ctxs, p.2.en = false) ∧ kind ≤ 2 ∧
        s.regs.bootLen.toNat = 64 + s.ownerNum (s.regs.bootSrc + 8) 4 + 29792
      (ok → exec (.bootLoad kind) s = .next { s with regs := { s.regs with
        bootKind := kind, bootStat := 1, bootRun := (s.regs.bootSrc, s.regs.bootLen.toNat, kind) } }) ∧
      (¬ ok → exec (.bootLoad kind) s = .next { s with regs := { s.regs with bootKind := kind, bootStat := 3 } })) ∧
    (let (src, len, kind) := s.regs.bootRun
     let img := tab len (fun i => s.ownerByte (src + i))
     let signs := fun (key : List Byte) => slhValid key (img.take (img.length - 29792)) (img.drop (img.length - 29792)) = true
     let signed := (∃ ks, s.regs.ownerKey = some ks ∧ signs (ks.flatMap (fun x => toBytes 8 x.toNat))) ∨ signs (tab 64 Config.vendorKey)
     s.regs.bootStat = 1 →
      (signed → ∃ t, exec .bootLoadDone s = .next t ∧ t = { s with ctrls := t.ctrls, regs := { s.regs with
          bootStat := 2, firmware := s.regs.firmware.set kind (some img) } } ∧
        ∀ p, p ∈ t.ctrls ↔ p ∈ s.ctrls ∧ (if p.1 = 0 then 0 else if p.1 < 9 then 1 else 2) ≠ kind) ∧
      (¬ signed → exec .bootLoadDone s = .next { s with regs := { s.regs with bootStat := 4 } })) ∧
    (∃ t, exec .attReport s = .next t ∧ t.regs = { s.regs with attStat := 2 } ∧
      let at_ := fun (k : Nat) => t.mem.read (s.regs.attDst + k)
      (s.regs.nonce.length = 4 → (∀ k, k < 30048 → s.takes (s.regs.attDst + k)) →
        (∀ i k, i < 4 → k < 8 → at_ (8 * i + k) = ((s.regs.nonce.getD i 0).extractLsb' (8 * k) 8)) ∧
        (∀ kind img k, kind < 3 → s.regs.firmware[kind]? = some (some img) → k < 32 →
          at_ (32 + 32 * kind + k) = (shake256 img 32).getD k 0) ∧
        (∀ ks k, s.regs.ownerKey = some ks → k < 32 → at_ (128 + k) = (shake256 (ks.flatMap (fun x => toBytes 8 x.toNat)) 32).getD k 0) ∧
        (∀ k, s.regs.ownerKey = none → k < 32 → at_ (128 + k) = 0) ∧
        (∀ k, k < 8 → at_ (160 + k) = BitVec.ofNat 8 (s.regs.accept.toNat / 2 ^ (8 * k))) ∧
        (∀ k, k < 64 → at_ (176 + k) = attestation.public.getD k 0) ∧
        (∀ k, k < 29792 → at_ (256 + k) = (attestation.sign (tab 32 (Config.attestRandom s.fresh)) (tab 256 at_)).getD k 0) ∧
        slhValid (tab 64 (fun k => at_ (176 + k))) (tab 256 at_) (tab 29792 (fun k => at_ (256 + k))) = true)) ∧
    (∀ set,
      let x := s.ownerNum (s.regs.collBase + 16 * set) 16
      let n := fld x 63 48 + 1
      let member := fun (i : Nat) => BitVec.ofNat 32 (s.ownerNum (fld x 127 64 + 4 * i) 4)
      let ok := s.feat 0 = true ∧ s.collBusy set = false ∧ x % 2 = 1 ∧ fld x 15 1 = 0 ∧ fld x 47 32 < n ∧ member (fld x 47 32) = s.regs.linkId
      (ok → exec (.collLoad set) s = .next { s with
        regs := { s.regs with collSet := set, collStat := 2 }
        collSets := Map.put s.collSets set ⟨tab n member, fld x 47 32, if fld x 31 16 = 0 then 1000 else fld x 31 16, 0⟩ }) ∧
      (¬ ok → exec (.collLoad set) s = .next { s with regs := { s.regs with collSet := set, collStat := 3 } }))

namespace Sys2Proof.Machine

/-- A queue, otherwise as `x`, records a code in WQ.ERR: a record in the error log, and vector 0 (R353, R389). -/
def State.queueFails (s : State) (q code : Nat) (x : Queue) : State :=
  let l := s.regs.elog ++ [toBytes 8 s.clk ++ toBytes 4 8 ++ toBytes 4 1 ++ toBytes 16 q]
  { s with queues := Map.put s.queues q { x with errSet := true, errCode := code }
           regs := { s.regs with elog := l.drop (l.length - 256), elogTail := (s.regs.elogTail + 1) % 2 ^ 32 }
           msix := s.msix ++ [0] }

end Sys2Proof.Machine

/-- R208, R350 to R353: host reads take their bytes at home, none of a lane slice, and change nothing else; host writes land at home where
memory is populated and no enabled alias and no lane slice lies, and are recorded when a byte is discarded; both wait for homes that
do not answer; register writes of the wrong size or alignment reach nothing; a key half, a clamped parameter, an error
bit and a doorbell. Discarding byte by byte, and free bytes for a read of a lane slice, are the model's choice (assumption 55), and so is
vector 0 when the host clears an error bit (assumption 32). -/
def Obligations.HostReadsAndWrites : Prop :=
  ∀ s : State,
    (∀ pa n, (s.hostReach pa n = true → exec (.hostR pa n) s = .next { s with fresh := s.fresh + 1, hostLog := s.hostLog ++ [tab n (fun i =>
        if s.inSlice (pa + i) then Config.sliceByte s.fresh i else if s.populated (pa + i) 1 then s.readHome ⟨.glob, pa + i⟩ else 0)] }) ∧
      (s.hostReach pa n = false → exec (.hostR pa n) s = .next s)) ∧
    (∀ pa (bytes : List Byte), s.hostReach pa bytes.length = false → exec (.hostW pa bytes) s = .next s) ∧
    (∀ pa (bytes : List Byte), s.hostReach pa bytes.length = true → ∃ t, exec (.hostW pa bytes) s = .next t ∧
      (∀ k, k < bytes.length → s.takes (pa + k) → s.inSlice (pa + k) = false → t.mem.read (pa + k) = bytes.getD k 0) ∧
      (∀ k, k < bytes.length → s.inSlice (pa + k) = true → (∀ g ∈ s.guests, g.dirty = false) → t.mem.read (pa + k) = s.mem.read (pa + k)) ∧
      (∀ a, (∀ k, k < bytes.length → lineOf (pa + k) ≠ lineOf a) → t.mem.read a = s.mem.read a) ∧ t.spad = s.spad ∧ t.tspad = s.tspad ∧
      t.groups = s.groups ∧
      (∀ k, k < bytes.length → s.populated (pa + k) 1 = true → (s.aliasOf (pa + k)).isNone = true →
        s.answers ⟨.glob, lineOf (pa + k)⟩ = true →
        (∀ g ∈ s.guests, ∀ g' ∈ s.guests, g.dirty → g'.dirty → g.line = g'.line → g.place = g'.place) →
        ∀ g ∈ t.guests, g.dirty → g.line ≠ lineOf (pa + k)) ∧
      ((∃ k, k < bytes.length ∧ (s.populated (pa + k) 1 = false ∨ (s.aliasOf (pa + k)).isSome = true ∨ s.inSlice (pa + k) = true)) →
        t.regs.hostwErr = true ∧ t.msix = s.msix ++ [0])) ∧
    (∀ off bytes value, (bytes ≠ 4 ∧ bytes ≠ 8) ∨ off % 4 ≠ 0 ∨ (bytes = 8 ∧ off % 8 ≠ 0) → exec (.registerWrite off bytes value) s = .next s) ∧
    (∀ k (value : DWord), k < 8 →
      let half := value.extractLsb' 0 32 ++ (s.regs.keys.getD k 0).extractLsb' 0 32
      exec (.registerWrite (0x140 + 8 * k) 8 value) s = .next { s with regs := { s.regs with keys := s.regs.keys.set k value } } ∧
      exec (.registerWrite (0x144 + 8 * k) 4 value) s = .next { s with regs := { s.regs with keys := s.regs.keys.set k half } }) ∧
    (∀ value : DWord, exec (.registerWrite 0x1030 4 value) s =
      .next { s with regs := { s.regs with rho := max 768 (value.toNat % 2 ^ 20) } }) ∧
    (∀ value : DWord, exec (.registerWrite 0x5000 4 value) s = .next { s with
      regs := { s.regs with hostwErr := s.regs.hostwErr && !value.getLsbD 5, coreErr := s.regs.coreErr && !value.getLsbD 4
                            tileErr := s.regs.tileErr && !value.getLsbD 3, derateErr := s.regs.derateErr && !value.getLsbD 2
                            sageErr := s.regs.sageErr && !value.getLsbD 0 }
      msix := s.msix ++ if [0, 2, 3, 4, 5].any (fun i => value.getLsbD i) then [0] else [] }) ∧
    (∀ q (tail : Word), let x := s.queue q
      (x.en = true → s.accepts x.ctx = true → (tail - x.head).toNat ≤ 2 ^ x.log2 →
        exec (.wqDoorbell q tail) s = .next { s with queues := Map.put s.queues q { x with tail := tail } }) ∧
      (x.en = true → s.accepts x.ctx = false → exec (.wqDoorbell q tail) s = .next (s.queueFails q 1 x)) ∧
      (x.en = false ∨ (s.accepts x.ctx = true ∧ 2 ^ x.log2 < (tail - x.head).toNat) → exec (.wqDoorbell q tail) s =
        .next (s.queueFails q 2 x)))

/-! ## Events: packets and launches -/

namespace Sys2Proof.Machine

/-- The packet at the head of a queue has been parsed and discarded with a code in WQ.ERR (R353, R355). -/
def State.discarded (s : State) (q code : Nat) : State :=
  s.queueFails q code { s.queue q with head := (s.queue q).head + 1 }

/-- The packet has been parsed, and the queue is otherwise as `f` makes it. -/
def State.parsed (s t : State) (q : Nat) (f : Queue → Queue) : Prop := t.queue q = f { s.queue q with head := (s.queue q).head + 1 }

/-- A word of n bytes stands in memory at an aligned virtual address of a context, as far as memory took it where the context's
translations of `s` put it. -/
def State.holdsVa (t s : State) (ctx va n x : Nat) : Prop :=
  ∀ i pa, i < n → s.physOf ctx (va + i) = some pa → s.takes pa → t.mem.read pa = BitVec.ofNat 8 (x >>> (8 * i))

end Sys2Proof.Machine

/-- R209, R274, R275, R277, R280, R328, R355, R357, R358: what each packet does when it is parsed: a launch enters its queue or is
rejected, an image joins its launch or, when it is that of a block that waits, makes it ready (assumption 38), an edge waits for its
consumer, a signal and a mark write when the packets before them have acted and their homes answer, a wait holds the queue until its word
is reached, a reply answers its duty; a packet out of place records its code, and one whose address is misaligned or unmapped CODE 7
(assumption 36). -/
def Obligations.PacketsAct : Prop :=
  ∀ (s : State) (q x : Nat),
    let ctx := (s.queue q).ctx
    let value : Word := BitVec.ofNat 32 (fld x 63 32)
    let va := fld x 127 64
    (∀ i ty, (i, ty) ∈ [(Instr.launch q, 1), (.resume q, 2), (.edge q, 3), (.wait q, 5)] → s.packet q = some x → x % 256 = ty →
      s.accepts ctx = false → exec i s = .next (s.discarded q 1)) ∧
    (s.packet q = some x → x % 256 = 0 ∨ 6 < x % 256 → s.accepts ctx = true → exec (.unknownPacketType q) s = .next (s.discarded q 3)) ∧
    (s.packet q = some x → x % 256 = 1 → s.accepts ctx = true → ∃ t l, exec (.launch q) s = .next t ∧
      Map.find? t.launches s.nextId = some l ∧ l.tag = value ∧ l.ctx = ctx ∧ l.queue = q ∧
      if s.goodAddr ctx (fld x 319 256) 32 32 = false then
        l.phase = .ended ∧ l.status = 2 ∧ s.parsed t q (fun y => { y with errSet := true, errCode := 7 })
      else if s.badPacket ctx x = true then l.status = 2 ∧ l.phase = if s.vaUp ctx (fld x 319 256) 32 then .ended else .closing
      else l.phase = .parsed ∧ l.nblk = fld x 255 208 ∧ l.clw = fld x 207 204 ∧ l.hcnt = fld x 200 192 ∧ l.htab = fld x 191 128 ∧
        l.daddr = va ∧ l.cmpl = fld x 319 256 ∧ s.parsed t q (fun y => { y with acts := y.acts ++ [.launch s.nextId] })) ∧
    (s.packet q = some x → x % 256 = 2 → s.accepts ctx = true →
      let latest := s.latestLaunch ctx value (fun l => l.phase == .admitted && decide (l.status < 6))
      (latest = none ∨ fld x 511 128 ≠ 0 ∨ fld x 31 8 ≠ 0 ∨ va % 4096 ≠ 0 ∨ 2 ^ 57 ≤ va → exec (.resume q) s = .next (s.discarded q 4)) ∧
      (∀ lid l, latest = some (lid, l) → Map.find? s.launches lid = some l → fld x 511 128 = 0 → fld x 31 8 = 0 → va % 4096 = 0 → va < 2 ^ 57 →
        let bidx := s.numVa ctx (va + 0x18) 8
        let child := s.numVa ctx (va + 0x38) 4 % 2 == 1
        let mine := fun (i : Img) => !i.ready && i.bidx == bidx && i.child == child
        ∃ t, exec (.resume q) s = .next t ∧ s.parsed t q id ∧
          (l.images.find? mine = none → ∃ i, Map.find? t.launches lid = some { l with images := l.images ++ [i] } ∧ i.virt = true ∧
            i.pa = va ∧ i.ready = true ∧ i.bidx = bidx ∧ i.child = child ∧ i.order = s.nextId ∧ i.late = [] ∧ i.passed = l.passed) ∧
          (∀ j, l.images.find? mine = some j → Map.find? t.launches lid = some { l with images := l.images.map (fun i =>
            if i.order = j.order then
              if s.physOf ctx va = some j.pa then { i with ready := true, order := s.nextId, passed := l.passed }
              else { i with pa := va, virt := true, ready := true, order := s.nextId, passed := l.passed }
            else i) }))) ∧
    (s.packet q = some x → x % 256 = 3 → s.accepts ctx = true → fld x 31 8 = 0 → fld x 127 100 = 0 → fld x 511 192 = 0 →
      let n := fld x 99 96 + 1
      let at_ := fld x 191 128
      (s.goodAddr ctx at_ 16 (16 * n) = false → exec (.edge q) s = .next (s.discarded q 7)) ∧
      (s.goodAddr ctx at_ 16 (16 * n) = true → s.latestLaunch ctx value (fun _ => true) = none →
        exec (.edge q) s = .next (s.discarded q 5)) ∧
      (∀ lid l, s.goodAddr ctx at_ 16 (16 * n) = true → s.latestLaunch ctx value (fun _ => true) = some (lid, l) →
        ∃ t r, exec (.edge q) s = .next t ∧ s.parsed t q id ∧ (t.ctx ctx).edges = (s.ctx ctx).edges ++ [r] ∧ r.producer = lid ∧
          r.tag = BitVec.ofNat 32 (fld x 95 64) ∧ r.ranges.length = n)) ∧
    (s.packet q = some x → x % 256 = 4 → fld x 159 128 = 0 → s.accepts ctx = true → s.dueSignal q = none → fld x 31 8 = 0 →
      fld x 511 168 = 0 →
      let due := (∀ p ∈ s.launches, p.2.queue = q → p.2.phase = .ended) ∧ s.vaUp ctx va 4 = true
      (due → s.goodAddr ctx va 4 4 = true → ∃ t, exec (.signal q) s = .next t ∧
        s.parsed t q id ∧ t.holdsVa s ctx va 4 value.toNat) ∧
      (¬ due → ∃ t ids, exec (.signal q) s = .next t ∧ (∀ p ∈ s.launches, p.2.queue = q → p.2.phase ≠ .ended → p.1 ∈ ids) ∧
        s.parsed t q (fun y => { y with acts := y.acts ++ [.signal va value ids] }) ∧ t.mem = s.mem)) ∧
    (∀ a v ids, s.dueSignal q = some (.signal a v ids) → s.goodAddr ctx a 4 4 = true → ∃ t, exec (.signal q) s = .next t ∧
      t.queue q = { s.queue q with acts := (s.queue q).acts.erase (.signal a v ids) } ∧ t.holdsVa s ctx a 4 v.toNat) ∧
    (s.packet q = some x → x % 256 = 6 → s.accepts ctx = true → (s.queue q).acts = [] → fld x 31 8 = 0 → fld x 511 128 = 0 →
      s.goodAddr ctx va 16 16 = true → s.vaUp ctx va 16 = true → ∃ t, exec (.mark q) s = .next t ∧ s.parsed t q id ∧
        t.holdsVa s ctx va 16 (s.clk % 2 ^ 64 + value.toNat * 2 ^ 64 + 2 ^ 96)) ∧
    (∀ a tag rest, (s.queue q).acts = .mark a tag :: rest → s.goodAddr ctx a 16 16 = true → s.vaUp ctx a 16 = true → ∃ t, exec (.mark q) s = .next t ∧
      t.queue q = { s.queue q with acts := rest } ∧ t.holdsVa s ctx a 16 (s.clk % 2 ^ 64 + tag.toNat * 2 ^ 64 + 2 ^ 96)) ∧
    (s.packet q = some x → x % 256 = 5 → s.accepts ctx = true → fld x 31 8 = 0 → fld x 511 128 = 0 →
      (s.goodAddr ctx va 4 4 = true → ∃ t, exec (.wait q) s = .next t ∧ t = { s with queues := t.queues } ∧
        s.parsed t q (fun y => { y with wait := some (va, value) })) ∧
      (s.goodAddr ctx va 4 4 = false → exec (.wait q) s = .next (s.discarded q 7))) ∧
    (∀ a v, (s.queue q).wait = some (a, v) → s.scheduling = true → s.vaUp ctx a 4 = true → s.goodAddr ctx a 4 4 = true →
      v.toNat ≤ ofBytes (tab 4 (fun i => match s.physOf ctx (a + i) with | some pa => s.hostByte pa | none => 0)) →
      exec (.waitSatisfied q) s = .next { s with queues := Map.put s.queues q { s.queue q with wait := none } }) ∧
    (s.packet q = some x → x % 256 = 4 → fld x 159 128 ≠ 0 → s.accepts ctx = true → fld x 31 8 = 0 → fld x 511 168 = 0 →
      let evt : Word := BitVec.ofNat 32 (fld x 159 128)
      let code := fld x 167 160
      (∀ d, s.regs.duties.find? (fun d => d.seq == evt) = some d → s.regs.unposted evt = false → (s.queue q).drv = true →
        code < (if d.duty = 1 ∨ d.duty = 2 then 1 else 2) → ∃ t, exec (.dutyReply q) s = .next t ∧
          (t.queue q).head = (s.queue q).head + 1 ∧ (d.duty ≠ 4 → t.regs.duties = s.regs.duties.filter (fun k => k.seq != evt)) ∧
          (d.duty ≤ 1 → code = 0 → ∀ l, Map.find? s.launches d.what = some l →
            Map.find? t.launches d.what = some { l with answered := d.duty :: l.answered }) ∧
          (d.duty = 0 → code = 1 → ∀ l, Map.find? s.launches d.what = some l → l.phase = .parsed →
            ∃ l', Map.find? t.launches d.what = some l' ∧ l'.status = max l.status 9 ∧
              l'.phase = if s.recordUp l then .ended else .closing) ∧
          (d.duty = 5 → t.column d.what = { s.column d.what with throttled := code == 1, dwell := true }) ∧
          (d.duty = 6 → s.linkState d.what = .narrow → t.linkState d.what = if code = 0 then .sleep else .narrow)) ∧
      (∀ d, s.regs.duties.find? (fun d => d.seq == evt) = some d → (if d.duty = 1 ∨ d.duty = 2 then 1 else 2) ≤ code →
        exec (.dutyReply q) s = .next (s.discarded q 6)) ∧
      ((∀ d ∈ s.regs.duties, d.seq ≠ evt) ∨ s.regs.unposted evt = true ∨ (s.queue q).drv = false →
        exec (.dutyReply q) s = .next (s.discarded q 6)))

namespace Sys2Proof.Machine

/-- A launch that is the first of its queue, whose edges are met, and that has not been read (R274, R282). -/
def State.admissible (s : State) (lid : Nat) (l : Launch) : Prop :=
  Map.find? s.launches lid = some l ∧ l.phase = .parsed ∧ l.read = false ∧ s.firstInQueue lid l = true ∧ s.edgesMet l = true ∧
    s.scheduling = true ∧ (s.ctx l.ctx).en = true ∧ (s.ctx l.ctx).going = false

/-- An item's block has started on a core: the block, and its groups, with no register, mask, tile or count written, each as one fragment
of every lane of the group past the header at its entry (R242, R299). -/
def State.started (s t : State) (x : Item) (l : Launch) (core : Nat) (r : Room) : Prop :=
  ∃ b, Map.find? t.blocks s.nextId = some b ∧ b.lid = x.lid ∧ b.bidx = x.bidx ∧ b.core = core ∧ b.child = x.child ∧ b.lanes = l.desc.lanes ∧
    b.hot = (decide (l.prio = 3) && decide (10 * s.regs.tdisp ≤ (s.column (core / 8)).temp10)) ∧ b.spbase = r.spbase ∧ b.slbase = r.slbase ∧ ∀ i, i < r.places.length → i < 32 → ∃ g, Map.find? t.groups (32 * s.nextId + i) = some g ∧
      g.lanes = (groupLanes l.desc.lanes i).1 ∧ g.helpers = (groupLanes l.desc.lanes i).2 ∧ g.fpe = l.desc.fpe ∧
      (∀ n L, g.vGet n L = 0) ∧ (∀ n, g.kGet n = 0) ∧ (∀ m w, g.tileWord m w = 0) ∧ (∀ L, laneGet g.icnt L = 0) ∧ g.lastb = 0 ∧
      (let entry := match x.child with
         | some y => y.entry
         | none => l.desc.entry
       ∀ c h, t.issOf (32 * s.nextId + i) 0 = some c → t.header c (codeHnd entry) (codeOff entry) true = .ok h →
         g.lanes &&& ~~~g.helpers ≠ 0 → (∀ n, n ≠ 0 → g.entry n = .free) ∧ ∃ f, g.entry 0 = .frag f ∧ f.act = g.lanes ∧ f.fe = none ∧
           f.st = .ready ∧ f.hnd = codeHnd entry ∧ f.pc = codeOff entry + 8 ∧ f.blk = codeOff entry) ∧
      ∀ n, g.sGet n = match x.child with
        | some y => if n = 0 then y.arg else if n = 1 then y.join else 0
        | none => 0

/-- A launch ended with at least a status, its reason the highest found (R277, R279), or is closing until its record's home answers. -/
def State.rejected (t : State) (lid : Nat) (l : Launch) (status : Nat) : Prop :=
  ∃ l', Map.find? t.launches lid = some l' ∧ (l'.phase = .ended ∨ l'.phase = .closing) ∧ l'.status = max l.status status

end Sys2Proof.Machine

/-- R242, R251, R277 to R279, R282, R283, R287, R295, R299, R301: a launch is admitted with its lease, or rejected; a chosen item
starts on its core, a child from its deque's head, or by theft from another's tail; a drained block counts in its launch's record, a
child at its join object; a finished launch gets its record and masks return; pre-emption takes a core from its victim and stops the
blocks there; a stopped block becomes an image. That masks return at a launch's end and blocks that have not stopped stay is the model's
choice (assumption 38), and STATUS after a cause below 16 its reading (assumption 29). -/
def Obligations.LaunchesStartAndEnd : Prop :=
  ∀ s : State,
    (∀ lid l, s.admissible lid l → s.assisted 0 = false → s.assisted 1 = false → l.asked = [] → l.answered = [] →
      (∀ p ∈ s.pools, p.2.lid ≠ lid) → (∀ k, k < 8 → s.tileUp k = true) →
      let r := s.readLaunch l
      let m := { r.2.2 with answered := [0] }
      let g := (s.setLaunch lid m).lease lid m
      ∃ t, exec (.launchAdmit lid) s = .next t ∧
        if r.2.2.badDesc r.1 = true then t.rejected lid l 3
        else if s.tableBreaks r.2.2 r.2.1 = true then t.rejected lid l 4
        else if g.2.1 = false then t.rejected lid l 5
        else t.pins = g.2.2 ++ g.1.pins ∧ ∃ l', Map.find? t.launches lid = some l' ∧ l' = { m with phase := .admitted, order := l'.order }) ∧
    (∀ core x r l, s.scheduling = true → x.img = none → Map.find? s.launches x.lid = some l → l.live = true →
      (s.firstFor core = some (.sage, [(x, core, r)]) → ∃ t, exec (.blockPlace core) s = .next t ∧ s.started t x l core r ∧
        (t.core core).deque = (s.core core).deque) ∧
      (s.firstFor core = some (.head core, [(x, core, r)]) → ∃ t, exec (.blockPlace core) s = .next t ∧ s.started t x l core r ∧
        (t.core core).deque = (s.core core).deque.tail) ∧
      (∀ v, s.firstFor core = some (.tail core v, [(x, core, r)]) → ∃ t, exec (.dequeSteal core) s = .next t ∧ s.started t x l core r ∧
        (t.core v).deque = (s.core v).deque.dropLast ∧ ∀ y, (s.core v).deque.getLast? = some y → v / 96 ≠ core / 96 →
          ∃ k, (t.tileRec (v / 96)).log = (s.tileRec (v / 96)).log ++ [⟨core / 96, k, false, .steal v y⟩])) ∧
    (∀ core, s.scheduling = false ∨ s.firstFor core = none →
      exec (.blockPlace core) s = .next s ∧ exec (.dequeSteal core) s = .next s) ∧
    (∀ bid b l u, Map.find? s.blocks bid = some b → Map.find? s.launches b.lid = some l → b.st = .ending → s.busy bid = false →
      b.child = none → s.forked bid = false → s.reached bid b = false → s.cleanAll (s.dirtyOf bid) = some u →
      ∃ t l', exec (.blockEnded bid) s = .next t ∧ Map.find? t.blocks bid = none ∧ (∀ p ∈ t.groups, p.1 / 32 ≠ bid) ∧
        Map.find? t.launches b.lid = some l' ∧
        if b.cause = 28 ∧ l.desc.restart = true ∧ l.live = true then l' = { l with redo := l.redo ++ [(b.bidx, none, l.passed)] }
        else if b.cause = 0 then l' = l
        else if b.cause < 16 then l' = { l with status := max l.status 1 }
        else l'.nfail = min (l.nfail + 1) 0xFFFFFFFF ∧ l'.fblk = some (l.fblk.getD b.bidx) ∧ l'.status = max l.status 1 ∧
          l'.cause = if l.fblk = none then 256 * b.detail + b.cause else l.cause) ∧
    (∀ bid b l u x k, Map.find? s.blocks bid = some b → Map.find? s.launches b.lid = some l → b.st = .ending → s.busy bid = false →
      b.child = some x → s.forked bid = false → s.reached bid b = false → s.cleanAll (s.dirtyOf bid) = some u → b.cause ≠ 28 →
      s.joinLoc l x.join = some k → k.sp = .tpad → s.answers k = true → ∃ t, exec (.blockEnded bid) s = .next t ∧
        Map.find? t.blocks bid = none ∧ t.numAt k 8 = (u.numAt k 8 % 2 ^ 32 + (2 ^ 32 - 1)) % 2 ^ 32 +
          2 ^ 32 * ((u.numAt k 8 / 2 ^ 32 + if 16 ≤ b.cause then 1 else 0) % 2 ^ 32)) ∧
    (∀ lid l u, Map.find? s.launches lid = some l → l.phase = .admitted → s.unfinished lid l = false → l.cmpl % 32 = 0 →
      s.regs.sageHalted = false → s.recordUp l = true → u.recordUp l = true →
      s.cleanAll ((s.guests.filter (fun g => g.dirty && g.writers.any (fun p => decide (2 ^ 40 ≤ p.1)))).map Copy.line) = some u →
      ∃ t, exec (.launchEnd lid) s = .next t ∧ Map.find? t.launches lid = some { l with phase := .ended } ∧ (∀ p ∈ t.pools, p.2.lid ≠ lid) ∧
        (∀ p ∈ t.pins, p.lid ≠ lid) ∧ (∀ c, (t.ctx c).mask = BitVec.allOnes 768) ∧
        (∀ bid, Map.find? t.blocks bid = (Map.find? s.blocks bid).map (fun b => if s.cancellable bid then { b with st := .running } else b)) ∧
        t.holdsVa u l.ctx l.cmpl 32 (1 + l.tag.toNat * 2 ^ 32 + l.status * 2 ^ 64 +
          l.cause % 2 ^ 16 * 2 ^ 80 + l.nfail * 2 ^ 96 + l.fblk.getD (2 ^ 64 - 1) % 2 ^ 64 * 2 ^ 128)) ∧
    (∀ ctx core p v, s.scheduling = true → ((s.launches.filter (fun q => q.2.waiting)).map (fun q => q.2.prio)).max? = some p →
      List.find? (fun v => v.1 == ctx) (s.victimsOf p) = some v → (∀ w ∈ s.victimsOf p, v.2 ≤ w.2) →
      (let peers := ((s.victimsOf p).filter (fun w => w.2 == v.2)).map Prod.fst
       ∀ w ∈ peers, s.exceeds peers ctx w = true) → core ∈ s.coresOf ctx →
      ∃ t, exec (.preempt ctx core) s = .next t ∧ (t.ctx ctx).mask.getLsbD core = false ∧ t.groups = s.groups ∧
        ∀ bid b l, Map.find? s.blocks bid = some b → Map.find? s.launches b.lid = some l → l.ctx = ctx → b.core = core → b.st = .running →
          ∃ b', Map.find? t.blocks bid = some b' ∧ b'.st = .stopping .preempt) ∧
    (∀ bid b0 b l u pa, Map.find? s.blocks bid = some b0 → Map.find? s.launches b0.lid = some l → b0.st = .stopping .preempt →
      s.atBoundary bid = true → s.regs.sageHalted = false →
      let s' := s.passParked bid
      Map.find? s'.blocks bid = some b → s'.forked bid = false → s'.reached bid b = false → s'.busy bid = false →
      (∀ w ∈ s'.cbuf, w.core ≠ b.core) → (∀ w ∈ s'.unjoined, ∀ g ∈ w.obs, g / 32 ≠ bid) → s'.atBoundary bid = true →
      s'.cleanAll (s'.dirtyOf bid ++ s'.seenDirty bid) = some u →
      firstFit (u.ctx l.ctx).imgBase ((u.ctx l.ctx).imgBase + 4096 * (u.ctx l.ctx).imgPg) 16384 (imageLen l.desc) (u.ctx l.ctx).runs = some pa →
      let v := u.putBackLate bid
      ∀ x, Map.find? v.blocks bid = some x →
      let bytes := v.imageOf bid x l (if x.child.isSome then 1 else 0)
      let mate := l.images.any (fun j => j.ready && !j.child && x.child.isNone && j.bidx / l.clw == x.cluster)
      ∃ t l' i, exec (.blockImageWrite bid) s = .next t ∧ Map.find? t.blocks bid = none ∧ (∀ p ∈ t.groups, p.1 / 32 ≠ bid) ∧
        Map.find? t.launches b.lid = some l' ∧ l' = { l with images := l.images ++ [i] } ∧
        i = ⟨pa, false, imageLen l.desc, x.bidx, x.child.isSome, !s.assisted 1 || mate, i.order, x.cause, x.detail,
          (x.slbase, l.desc.sliceBytes), x.late, l.passed⟩ ∧
        ∀ k, k < bytes.length → u.takes (pa + k) → t.mem.read (pa + k) = bytes.getD k 0)

/-! ## Operands -/

/-- R80 to R82, R87: what an operand code reads: a register or pair of the source lane, zero when that lane does not exist; a scalar or
pair, s29 to s31 being the activity mask; zero, the lane's own numbers, the constants in the type read, and the literal. -/
def Obligations.OperandCodesRead : Prop :=
  ∀ (c : Iss) (e : Enc) (code : Code) (L : Nat) (src : Option Nat),
    let n := code.toNat
    let rd := c.read e code L src
    (n < 0x40 → rd .n32 = match src with | some k => (c.g.vGet n k).zeroExtend 64 | none => 0) ∧
    (n < 0x40 → rd .i64 = match src with | some k => c.g.vGet (n + 1) k ++ c.g.vGet n k | none => 0) ∧
    (0x40 ≤ n → n < 0x5D → rd .n32 = (c.g.sGet (n - 0x40)).zeroExtend 64) ∧
    (0x40 ≤ n → n < 0x5C → rd .i64 = c.g.sGet (n - 0x3F) ++ c.g.sGet (n - 0x40)) ∧
    (∀ b, b < 3 → n = 0x5D + b → rd .n32 = (c.f.act.extractLsb' (32 * b) 32).zeroExtend 64) ∧
    (∀ ty, n = 0x60 → rd ty = 0) ∧
    (n = 0x61 → rd .n32 = BitVec.ofNat 64 (L % 2 ^ 32)) ∧ (n = 0x62 → rd .n32 = BitVec.ofNat 64 ((96 * (c.cur.gid % 32) + L) % 2 ^ 32)) ∧
    (n = 0x67 → rd .n32 = BitVec.ofNat 64 (c.b.lanes % 2 ^ 32)) ∧
    (n = 0x6A → rd .f32 = 0x3F800000 ∧ rd .f16x2 = 0x3C003C00 ∧ rd .bf16x2 = 0x3F803F80 ∧ rd .f64 = 0x3FF0000000000000) ∧
    (n = 0x6B → rd .f32 = 0xBF800000 ∧ rd .f16x2 = 0xBC00BC00) ∧ (n = 0x6C → rd .f32 = 0x3F000000 ∧ rd .f64 = 0x3FE0000000000000) ∧
    (n = 0x6E → rd .f32 = 0x7F800000 ∧ rd .f16x2 = 0x7C007C00) ∧ (n = 0x6F → rd .f32 = 0x7FC00000) ∧
    (n = 0x77 → rd .n32 = 96 ∧ rd .i64 = 96 ∧ rd .i16x2 = 0x00600060 ∧ rd .f32 = 0x42C00000) ∧
    (n = 0x70 → rd .n32 = 1 ∧ rd .f32 = 0x3F800000) ∧
    (n = 0x7F → ∀ w, e.lit = some w → rd .n32 = w.zeroExtend 64 ∧ rd .i64 = w.signExtend 64 ∧ rd .f32 = w.zeroExtend 64) ∧
    (∀ k, e.p.xl.toNat = k →
      let at_ := fun (j : Nat) => if bitOf c.g.lanes j then some j else none
      (k = 0 → c.source e L = some L) ∧ (L < 96 → k = 1 ∨ k = 2 ∨ k = 3 → c.source e L = at_ (L ^^^ k)) ∧
      (L < 96 → 4 ≤ k → k < 8 → c.source e L = at_ (4 * (L / 4) + (k - 4))) ∧
      (k = 8 → c.source e L = at_ ((L + 1) % 96)) ∧ (k = 9 → c.source e L = at_ ((L + 95) % 96)) ∧
      (L < 96 → k = 12 → c.source e L = at_ (4 * (L / 4) + (3 - L % 4))))
end

