-- ==== Sys2Proof/Laws/Containers.lean ====
section
/-! SUPPORT. Laws of the two containers: tables keyed by numbers, and lane lists. -/

namespace Sys2Proof

variable {α β : Type}

@[simp] theorem Map.find?_nil (k : Nat) : Map.find? ([] : Map α) k = none := rfl

theorem Map.find?_cons (j k : Nat) (x : α) (m : Map α) :
    Map.find? ((j, x) :: m) k = if k = j then some x else Map.find? m k := rfl

@[simp] theorem Map.find?_put_self (m : Map α) (k : Nat) (x : α) : Map.find? (Map.put m k x) k = some x := by
  induction m with
  | nil => simp [Map.put, Map.find?_cons]
  | cons p m ih =>
    obtain ⟨j, y⟩ := p
    simp only [Map.put]
    split
    · simp [Map.find?_cons]
    · split
      · simp [Map.find?_cons]
      · rename_i h1 h2
        simp [Map.find?_cons, h2, ih]

theorem Map.find?_put_ne (m : Map α) {k j : Nat} (x : α) (h : j ≠ k) :
    Map.find? (Map.put m k x) j = Map.find? m j := by
  induction m with
  | nil => simp [Map.put, Map.find?_cons, h]
  | cons p m ih =>
    obtain ⟨i, y⟩ := p
    simp only [Map.put]
    split
    · simp [Map.find?_cons, h]
    · split
      · rename_i h2
        simp [Map.find?_cons, h, ← h2]
      · simp [Map.find?_cons, ih]

theorem Map.find?_put (m : Map α) (k j : Nat) (x : α) :
    Map.find? (Map.put m k x) j = if j = k then some x else Map.find? m j := by
  split
  · next h => subst h; simp
  · next h => exact Map.find?_put_ne m x h

@[simp] theorem Map.get_put_self (d : α) (m : Map α) (k : Nat) (x : α) : Map.get d (Map.put m k x) k = x := by
  simp [Map.get]

theorem Map.get_put_ne (d : α) (m : Map α) {k j : Nat} (x : α) (h : j ≠ k) :
    Map.get d (Map.put m k x) j = Map.get d m j := by
  simp [Map.get, Map.find?_put_ne m x h]

/-- A table whose values are rewritten by key. -/
theorem Map.find?_map (m : Map α) (f : Nat → α → β) (k : Nat) :
    Map.find? (m.map (fun p => (p.1, f p.1 p.2))) k = (Map.find? m k).map (f k) := by
  induction m with
  | nil => rfl
  | cons p m ih =>
    obtain ⟨j, y⟩ := p
    simp only [List.map_cons, Map.find?_cons, ih]
    split
    · next h => subst h; rfl
    · rfl

@[simp] theorem tab_length (n : Nat) (f : Nat → α) : (tab n f).length = n := by simp [tab]

theorem tab_getD (n : Nat) (f : Nat → α) (i : Nat) (d : α) (h : i < n) : (tab n f).getD i d = f i := by
  simp [tab, List.getD, h]

theorem laneGet_tab (f : Nat → Word) {n L : Nat} (h : L < n) : laneGet (tab n f) L = f L := tab_getD n f L 0 h

/-! Bytes of a number (R10) -/

theorem ofBytes_lt (bs : List Byte) : ofBytes bs < 2 ^ (8 * bs.length) := by
  induction bs with
  | nil => simp [ofBytes]
  | cons b bs ih =>
    have := b.isLt
    rw [ofBytes, List.length_cons, Nat.mul_succ, Nat.pow_add]; omega

theorem toBytes_ofBytes (bs : List Byte) : toBytes bs.length (ofBytes bs) = bs := by
  induction bs with
  | nil => rfl
  | cons b bs ih =>
    have h8 : ofBytes (b :: bs) = b.toNat + 256 * ofBytes bs := rfl
    have hb := b.isLt
    refine List.ext_getElem (by simp [toBytes]) (fun i h1 h2 => ?_)
    cases i with
    | zero =>
      simp only [toBytes, tab, List.getElem_map, List.getElem_range, List.getElem_cons_zero, h8]
      apply BitVec.eq_of_toNat_eq
      simp [Nat.add_mul_mod_self_left]
      omega
    | succ i =>
      have := congrArg (fun l => l[i]?) ih
      have hi : i < bs.length := by simpa using h2
      simp only [toBytes, tab, List.getElem?_map, List.getElem?_range hi, List.getElem?_eq_getElem hi, Option.map_some, Option.some.injEq] at this
      simp only [toBytes, tab, List.getElem_map, List.getElem_range, List.getElem_cons_succ, h8]
      rw [← this]
      congr 1
      rw [Nat.shiftRight_eq_div_pow, Nat.shiftRight_eq_div_pow, Nat.mul_succ, Nat.add_comm (8 * i), Nat.pow_add, ← Nat.div_div_eq_div_mul]
      congr 1
      omega

end Sys2Proof
end

