-- ==== Sys2Proof/Laws/Hash.lean ====
section
/-! SUPPORT. Laws of SHAKE256's and the signatures' lengths, and that what a key signs is valid under its public key (R360, R361). -/

namespace Sys2Proof.Machine

/-! Lengths -/

theorem keccakWalk_length (a : List (BitVec 64)) (n t p : Nat) (out : List (BitVec 64)) : (keccakWalk a n t p out).length = out.length := by
  induction n generalizing t p out with
  | zero => rfl
  | succ n ih => rw [keccakWalk, ih, List.length_set]

theorem keccakRound_length (a : List (BitVec 64)) (r : Nat) : (keccakRound a r).length = a.length := by
  simp [keccakRound, keccakWalk_length]

theorem foldl_length {α β : Type} (f : List α → β → List α) (h : ∀ a b, (f a b).length = a.length) (bs : List β) (a : List α) :
    (bs.foldl f a).length = a.length := by
  induction bs generalizing a with
  | nil => rfl
  | cons b bs ih => rw [List.foldl_cons, ih, h]

theorem keccak_length (a : List (BitVec 64)) : (keccak a).length = a.length := foldl_length _ keccakRound_length _ a

theorem absorb_length (a : List (BitVec 64)) (b : List Byte) : (absorb a b).length = a.length := by simp [absorb, keccak_length]

theorem flatten_length {α : Type} (n : Nat) (xs : List (List α)) (h : ∀ x ∈ xs, x.length = n) : xs.flatten.length = n * xs.length := by
  induction xs with
  | nil => rfl
  | cons x xs ih =>
    rw [List.flatten_cons, List.length_append, ih (fun y hy => h y (List.mem_cons_of_mem _ hy)), h x (List.mem_cons_self ..), List.length_cons,
      Nat.mul_succ, Nat.add_comm]

theorem squeeze_length (n : Nat) (a : List (BitVec 64)) (h : 17 ≤ a.length) : (squeeze n a).length = 136 * n := by
  induction n generalizing a with
  | zero => rfl
  | succ n ih =>
    have e : ((a.take 17).flatMap (fun x => toBytes 8 x.toNat)).length = 8 * 17 := by
      rw [List.flatMap_def, flatten_length 8 _ (by
        intro x hx
        obtain ⟨y, -, rfl⟩ := List.mem_map.1 hx
        simp [toBytes])]
      simp [h]
    rw [squeeze, List.length_append, ih _ (by rwa [keccak_length]), e]; omega

theorem shake256_length (msg : List Byte) (n : Nat) : (shake256 msg n).length = n := by
  unfold shake256
  extract_lets pad tail bs a
  have e : 17 ≤ a.length := by
    have := foldl_length (fun a i => absorb a ((bs.drop (136 * i)).take 136)) (fun a b => absorb_length a _) (List.range (bs.length / 136))
      (List.replicate 25 0)
    simp only [a, this, List.length_replicate]; decide
  rw [List.length_take, squeeze_length _ _ e]
  omega

@[simp] theorem slhHash_length (seed : List Byte) (x : Adrs) (m : List Byte) : (slhHash seed x m).length = 32 := shake256_length _ _
@[simp] theorem SlhKey.secret_length (k : SlhKey) (x : Adrs) : (k.secret x).length = 32 := shake256_length _ _

theorem slhChain_length (seed : List Byte) (x : Adrs) (s i : Nat) (v : List Byte) (h : v.length = 32) : (slhChain seed x s i v).length = 32 := by
  induction s generalizing i v with
  | zero => exact h
  | succ s ih => exact ih _ _ (slhHash_length ..)

@[simp] theorem SlhKey.chain_length (k : SlhKey) (x : Adrs) (i v : Nat) : (k.chain x i v).length = 32 := slhChain_length _ _ _ _ _ (by simp)
@[simp] theorem SlhKey.leaf_length (k : SlhKey) (layer tree i : Nat) : (k.leaf layer tree i).length = 32 := slhHash_length ..

theorem slhNode_length (seed : List Byte) (x : Adrs) (leaf : Nat → List Byte) (h : ∀ i, (leaf i).length = 32) (n i : Nat) :
    (slhNode seed x leaf n i).length = 32 := by
  cases n with
  | zero => exact h i
  | succ n => exact slhHash_length ..

theorem digits_length (bs : List Byte) (bits n : Nat) : (digits bs bits n).length = n := by simp [digits]
theorem slhDigits_length (m : List Byte) : (slhDigits m).length = 67 := by simp [slhDigits, digits_length]
theorem slhDigits_lt (m : List Byte) : ∀ v ∈ slhDigits m, v < 16 := by
  intro v hv
  have : ∀ bs n, v ∈ digits bs 4 n → v < 16 := by
    intro bs n h
    simp only [digits, tab, List.mem_map] at h
    obtain ⟨i, -, rfl⟩ := h
    exact Nat.mod_lt _ (by decide)
  rcases List.mem_append.1 hv with h | h <;> exact this _ _ h

/-! Elements of a signature -/

theorem elem32_flatten (xs : List (List Byte)) (rest : List Byte) (h : ∀ x ∈ xs, x.length = 32) (i : Nat) (hi : i < xs.length) :
    elem32 (xs.flatten ++ rest) i = xs[i] := by
  induction xs generalizing i with
  | nil => simp at hi
  | cons x xs ih =>
    have hx := h x (List.mem_cons_self ..)
    cases i with
    | zero =>
      rw [elem32, Nat.mul_zero, List.drop_zero, List.flatten_cons, List.append_assoc, ← hx, List.take_left]; rfl
    | succ i =>
      have e : elem32 ((x :: xs).flatten ++ rest) (i + 1) = elem32 (xs.flatten ++ rest) i := by
        rw [elem32, List.flatten_cons, List.append_assoc, Nat.mul_succ, Nat.add_comm, ← List.drop_drop, ← hx, List.drop_left, elem32, hx]
      rw [e, ih (fun y hy => h y (List.mem_cons_of_mem _ hy)) i (by simpa using hi)]; rfl

theorem slhChain_add (seed : List Byte) (x : Adrs) (a b i : Nat) (v : List Byte) :
    slhChain seed x (a + b) i v = slhChain seed x b (i + a) (slhChain seed x a i v) := by
  induction a generalizing i v with
  | zero => simp [slhChain]
  | succ a ih => rw [Nat.succ_add, slhChain, ih, slhChain, Nat.add_assoc, Nat.add_comm 1 a]

/-- A chain goes on from where the signature left it. -/
theorem SlhKey.chain_end (k : SlhKey) (x : Adrs) (i v : Nat) (h : v ≤ 15) :
    slhChain k.seed { x with w2 := i } (15 - v) v (k.chain x i v) = k.chain x i 15 := by
  have := slhChain_add k.seed { x with w2 := i } v (15 - v) 0 (k.secret { x with kind := 5, w2 := i, w3 := 0 })
  rw [Nat.add_sub_cancel' h, Nat.zero_add] at this
  exact this.symm

/-- A WOTS+ signature gives the leaf, its public key. -/
theorem SlhKey.wots_leaf (k : SlhKey) (layer tree i : Nat) (m rest : List Byte) :
    slhWots k.seed ⟨layer, tree, 0, i, 0, 0⟩
      (((slhDigits m).mapIdx (fun c v => k.chain ⟨layer, tree, 0, i, 0, 0⟩ c v)).flatten ++ rest) m = k.leaf layer tree i := by
  have e : ∀ (ds : List Nat) (x : Adrs), ds.length = 67 → (∀ v ∈ ds, v < 16) →
      ds.mapIdx (fun c v => slhChain k.seed { x with w2 := c } (15 - v) v
        (elem32 ((ds.mapIdx (fun c v => k.chain x c v)).flatten ++ rest) c)) = tab 67 (fun c => k.chain x c 15) := by
    intro ds x hn hd
    refine List.ext_getElem (by simp [hn]) (fun c hc _ => ?_)
    have hc1 : c < ds.length := by simpa using hc
    have hv : ds[c] < 16 := hd _ (List.getElem_mem hc1)
    rw [List.getElem_mapIdx, elem32_flatten _ _ (by
      intro x hx
      obtain ⟨j, hj, rfl⟩ := List.mem_iff_getElem.1 hx
      simp) c (by simpa using hc1), List.getElem_mapIdx, k.chain_end x c _ (by omega)]
    simp [tab]
  rw [slhWots, SlhKey.leaf, e _ ⟨layer, tree, 0, i, 0, 0⟩ (slhDigits_length m) (slhDigits_lt m)]
/-! Trees -/

/-- An authentication path gives the root over its leaf. -/
theorem slhRoot_node (seed : List Byte) (x : Adrs) (leaf : Nat → List Byte) (hl : ∀ i, (leaf i).length = 32) (n t idx : Nat)
    (h : idx < 2 ^ n) (rest : List Byte) :
    slhRoot seed x idx (2 ^ n * t) (slhAuth seed x leaf (2 ^ n * t + idx) n ++ rest) n (leaf (2 ^ n * t + idx)) = slhNode seed x leaf n t := by
  have e : ∀ j, j < n → elem32 (slhAuth seed x leaf (2 ^ n * t + idx) n ++ rest) j =
      slhNode seed x leaf j ((2 ^ n * t + idx) / 2 ^ j ^^^ 1) := by
    intro j hj
    rw [slhAuth, elem32_flatten _ _ (by
      intro y hy
      obtain ⟨i, -, rfl⟩ := List.mem_map.1 hy
      exact slhNode_length seed x leaf hl _ _) j (by simpa using hj)]
    simp [tab]
  have step : ∀ j, j ≤ n → (List.range j).foldl (fun v j =>
      let at_ := { x with w2 := j + 1, w3 := (2 ^ n * t + idx) / 2 ^ (j + 1) }
      if idx / 2 ^ j % 2 = 0 then slhHash seed at_ (v ++ elem32 (slhAuth seed x leaf (2 ^ n * t + idx) n ++ rest) j)
      else slhHash seed at_ (elem32 (slhAuth seed x leaf (2 ^ n * t + idx) n ++ rest) j ++ v)) (leaf (2 ^ n * t + idx))
      = slhNode seed x leaf j ((2 ^ n * t + idx) / 2 ^ j) := by
    intro j
    induction j with
    | zero => intro _; simp [slhNode]
    | succ j ih =>
      intro hj
      rw [List.range_succ, List.foldl_append, ih (by omega)]
      simp only [List.foldl_cons, List.foldl_nil, e j (by omega)]
      generalize hq : (2 ^ n * t + idx) / 2 ^ j = q
      have hp : idx / 2 ^ j % 2 = q % 2 := by
        obtain ⟨d, rfl⟩ : ∃ d, n = j + 1 + d := ⟨n - (j + 1), by omega⟩
        have : 2 ^ (j + 1 + d) * t + idx = idx + 2 ^ j * (2 * (2 ^ d * t)) := by rw [Nat.pow_add, Nat.pow_succ]; ring
        rw [← hq, this, Nat.add_mul_div_left _ _ (Nat.two_pow_pos j), Nat.add_mul_mod_self_left]
      have hs : (2 ^ n * t + idx) / 2 ^ (j + 1) = q / 2 := by rw [Nat.pow_succ, ← Nat.div_div_eq_div_mul, hq]
      rw [hs, hp, slhNode]
      rcases Nat.mod_two_eq_zero_or_one q with h0 | h1
      · have : q ^^^ 1 = q + 1 := Nat.xor_one_of_even (Nat.even_iff.2 h0)
        rw [if_pos h0, this, show 2 * (q / 2) = q by omega]
      · have : q ^^^ 1 = q - 1 := Nat.xor_one_of_odd (Nat.odd_iff.2 h1)
        rw [if_neg (by omega), this, show 2 * (q / 2) = q - 1 by omega, show q - 1 + 1 = q by omega]
  have := step n (Nat.le_refl n)
  rw [Nat.mul_add_div (Nat.two_pow_pos n), Nat.div_eq_of_lt h, Nat.add_zero] at this
  exact this

theorem mapIdx_length {α : Type} (xs : List α) (f : Nat → α → List Byte) (n : Nat) (h : ∀ i v, (f i v).length = n) :
    (xs.mapIdx f).flatten.length = n * xs.length := by
  rw [flatten_length n _ (by
    intro x hx
    obtain ⟨j, hj, rfl⟩ := List.mem_iff_getElem.1 hx
    rw [List.getElem_mapIdx, h]), List.length_mapIdx]

theorem slhAuth_length (seed : List Byte) (x : Adrs) (leaf : Nat → List Byte) (h : ∀ i, (leaf i).length = 32) (i n : Nat) :
    (slhAuth seed x leaf i n).length = 32 * n := by
  rw [slhAuth, flatten_length 32 _ (by
    intro y hy
    obtain ⟨j, -, rfl⟩ := List.mem_map.1 hy
    exact slhNode_length seed x leaf h _ _), tab_length]

theorem SlhKey.xmss_length (k : SlhKey) (layer tree i : Nat) (m : List Byte) : (k.xmss layer tree i m).length = 2400 := by
  rw [SlhKey.xmss, List.length_append, mapIdx_length _ _ 32 (by simp), slhAuth_length _ _ _ (by simp), slhDigits_length]

theorem SlhKey.fors_length (k : SlhKey) (tree leaf : Nat) (md : List Byte) : (k.fors tree leaf md).length = 10560 := by
  rw [SlhKey.fors, mapIdx_length _ _ 480 (fun i v => by rw [List.length_append, slhAuth_length _ _ _ (by simp), SlhKey.secret_length]),
    digits_length]

/-- A leaf's signature gives the root of its tree. -/
theorem SlhKey.xmss_root (k : SlhKey) (layer tree i : Nat) (m rest : List Byte) (h : i < 256) :
    slhXmss k.seed layer tree i (k.xmss layer tree i m ++ rest) m = slhNode k.seed ⟨layer, tree, 2, 0, 0, 0⟩ (k.leaf layer tree) 8 0 := by
  have hd : (k.xmss layer tree i m ++ rest).drop 2144 = slhAuth k.seed ⟨layer, tree, 2, 0, 0, 0⟩ (k.leaf layer tree) i 8 ++ rest := by
    rw [SlhKey.xmss, List.append_assoc, List.drop_left' (by rw [mapIdx_length _ _ 32 (by simp), slhDigits_length])]
  have := slhRoot_node k.seed ⟨layer, tree, 2, 0, 0, 0⟩ (k.leaf layer tree) (by simp) 8 0 i h rest
  rw [Nat.mul_zero, Nat.zero_add] at this
  rw [slhXmss, hd, SlhKey.xmss, List.append_assoc, k.wots_leaf, this]

/-! A signature is valid -/

theorem ofBig_lt (bs : List Byte) (n : Nat) (h : bs.length ≤ n) : ofBig bs < 2 ^ (8 * n) :=
  Nat.lt_of_lt_of_le (ofBytes_lt _) (Nat.pow_le_pow_right (by decide) (by simpa using Nat.mul_le_mul_left 8 h))

theorem slhDigest_lt (key rand msg : List Byte) : (slhDigest key rand msg).2.1 < 2 ^ 56 ∧ (slhDigest key rand msg).2.2 < 256 :=
  ⟨ofBig_lt _ 7 (List.length_take_le ..), ofBig_lt _ 1 (List.length_take_le ..)⟩

/-- The signatures of the layers below n, and the root that the last one gives. -/
def SlhKey.layers (k : SlhKey) (tree leaf n : Nat) (v : List Byte) : List Byte × List Byte :=
  (List.range n).foldl (fun (out : List Byte × List Byte) j =>
    let sig := k.xmss j (slhAbove tree leaf j).1 (slhAbove tree leaf j).2 out.2
    (out.1 ++ sig, slhXmss k.seed j (slhAbove tree leaf j).1 (slhAbove tree leaf j).2 sig out.2)) ([], v)

theorem SlhKey.layers_succ (k : SlhKey) (tree leaf n : Nat) (v : List Byte) :
    k.layers tree leaf (n + 1) v =
      ((k.layers tree leaf n v).1 ++ k.xmss n (slhAbove tree leaf n).1 (slhAbove tree leaf n).2 (k.layers tree leaf n v).2,
        slhXmss k.seed n (slhAbove tree leaf n).1 (slhAbove tree leaf n).2
          (k.xmss n (slhAbove tree leaf n).1 (slhAbove tree leaf n).2 (k.layers tree leaf n v).2) (k.layers tree leaf n v).2) := by
  rw [SlhKey.layers, List.range_succ, List.foldl_append]; rfl

theorem SlhKey.layers_length (k : SlhKey) (tree leaf n : Nat) (v : List Byte) : (k.layers tree leaf n v).1.length = 2400 * n := by
  induction n with
  | zero => rfl
  | succ n ih => rw [k.layers_succ, List.length_append, ih, k.xmss_length]; omega

theorem slhAbove_lt (tree leaf j : Nat) (h : leaf < 256) : (slhAbove tree leaf j).2 < 256 := by
  unfold slhAbove
  split
  · exact h
  · exact Nat.mod_lt _ (by decide)

/-- Reading the layers' signatures one after another, behind 10,592 other bytes, gives the same roots. -/
theorem SlhKey.layers_read (k : SlhKey) (tree leaf n : Nat) (v pre rest : List Byte) (hp : pre.length = 10592) (h : leaf < 256) :
    (List.range n).foldl (fun w j => slhXmss k.seed j (slhAbove tree leaf j).1 (slhAbove tree leaf j).2
      ((pre ++ ((k.layers tree leaf n v).1 ++ rest)).drop (10592 + 2400 * j)) w) v = (k.layers tree leaf n v).2 := by
  induction n generalizing rest with
  | zero => rfl
  | succ n ih =>
    rw [List.range_succ, List.foldl_append, k.layers_succ]
    simp only [List.append_assoc, ih, List.foldl_cons, List.foldl_nil]
    rw [← List.drop_drop, ← hp, List.drop_left, ← k.layers_length tree leaf n v, List.drop_left,
      k.xmss_root _ _ _ _ _ (slhAbove_lt tree leaf n h)]
    have := k.xmss_root n (slhAbove tree leaf n).1 (slhAbove tree leaf n).2 (k.layers tree leaf n v).2 [] (slhAbove_lt tree leaf n h)
    rw [List.append_nil] at this
    exact this.symm

theorem SlhKey.public_length (k : SlhKey) (h : k.seed.length = 32) : k.public.length = 64 := by
  rw [SlhKey.public, List.length_append, h, slhNode_length _ _ _ (by simp)]

/-- What a key signs is valid under its public key (R361). -/
theorem SlhKey.sign_valid (k : SlhKey) (rand msg : List Byte) (h : k.seed.length = 32) : slhValid k.public msg (k.sign rand msg) = true := by
  have hseed : k.public.take 32 = k.seed := by rw [SlhKey.public, ← h, List.take_left]
  have hroot : k.public.drop 32 = slhNode k.seed ⟨7, 0, 2, 0, 0, 0⟩ (k.leaf 7 0) 8 0 := by rw [SlhKey.public, ← h, List.drop_left]
  have hlen := k.public_length h
  have hsign : k.sign rand msg =
      let r := shake256 (k.prf ++ rand ++ [0, 0] ++ msg) 32
      let x := slhDigest k.public r msg
      r ++ k.fors x.2.1 x.2.2 x.1 ++ (k.layers x.2.1 x.2.2 8 (slhFors k.seed x.2.1 x.2.2 (k.fors x.2.1 x.2.2 x.1) x.1)).1 := rfl
  have hr := shake256_length (k.prf ++ rand ++ [0, 0] ++ msg) 32
  generalize shake256 (k.prf ++ rand ++ [0, 0] ++ msg) 32 = r at hsign hr
  obtain ⟨ht, hl⟩ := slhDigest_lt k.public r msg
  simp only at hsign
  generalize hx : slhDigest k.public r msg = x at hsign ht hl
  obtain ⟨md, tree, leaf⟩ := x
  have hf := k.fors_length tree leaf md
  simp only at hsign ht hl
  generalize k.fors tree leaf md = f at hsign hf
  have hlay := k.layers_length tree leaf 8 (slhFors k.seed tree leaf f md)
  have hread := k.layers_read tree leaf 8 (slhFors k.seed tree leaf f md) (r ++ f) [] (by rw [List.length_append, hr, hf]) hl
  have htop := k.layers_succ tree leaf 7 (slhFors k.seed tree leaf f md)
  have h7 := k.xmss_root 7 (slhAbove tree leaf 7).1 (slhAbove tree leaf 7).2 (k.layers tree leaf 7 (slhFors k.seed tree leaf f md)).2 []
    (slhAbove_lt tree leaf 7 hl)
  have ht0 : (slhAbove tree leaf 7).1 = 0 := Nat.div_eq_of_lt ht
  rw [List.append_nil] at h7 hread
  have h1 : (k.sign rand msg).take 32 = r := by rw [hsign, List.append_assoc, ← hr, List.take_left]
  have h2 : ((k.sign rand msg).drop 32).take 10560 = f := by rw [hsign, List.append_assoc, ← hr, List.drop_left, ← hf, List.take_left]
  have h3 : (k.sign rand msg).length = 29792 := by rw [hsign, List.length_append, List.length_append, hr, hf, hlay]
  unfold slhValid
  simp only [hseed, h1, h2, h3, hlen, hx, hroot, beq_self_eq_true, Bool.true_and]
  rw [hsign, hread, htop, h7, ht0]
  exact beq_self_eq_true _

theorem SlhKey.sign_length (k : SlhKey) (rand msg : List Byte) (h : k.seed.length = 32) : (k.sign rand msg).length = 29792 := by
  have := k.sign_valid rand msg h
  simp only [slhValid, Bool.and_eq_true, beq_iff_eq] at this
  exact this.1.1

/-- Bytes of a key's length fill key registers (R353). -/
theorem keyBytes_surj (n : Nat) (bs : List Byte) (h : bs.length = 8 * n) : ∃ ks, keyBytes ks = bs := by
  induction n generalizing bs with
  | zero => exact ⟨[], (List.length_eq_zero_iff.1 h).symm⟩
  | succ n ih =>
    obtain ⟨ks, hk⟩ := ih (bs.drop 8) (by simp [h]; omega)
    have h8 : (bs.take 8).length = 8 := by simp [h]
    refine ⟨BitVec.ofNat 64 (ofBytes (bs.take 8)) :: ks, ?_⟩
    have e := toBytes_ofBytes (bs.take 8)
    have hlt := ofBytes_lt (bs.take 8)
    rw [h8] at e hlt
    have : keyBytes (BitVec.ofNat 64 (ofBytes (bs.take 8)) :: ks) = toBytes 8 (BitVec.ofNat 64 (ofBytes (bs.take 8))).toNat ++ keyBytes ks := rfl
    rw [this, BitVec.toNat_ofNat, Nat.mod_eq_of_lt hlt, e, hk, List.take_append_drop]

/-- An image that an owner has signed is accepted (R360). -/
theorem State.signed_sign (s : State) (k : SlhKey) (ks : List DWord) (rand payload : List Byte) (h : k.seed.length = 32)
    (hk : s.regs.ownerKey = some ks) (hp : keyBytes ks = k.public) : s.signed (payload ++ k.sign rand payload) = true := by
  have hn : (payload ++ k.sign rand payload).length - 29792 = payload.length := by rw [List.length_append, k.sign_length _ _ h]; omega
  simp only [State.signed, hk, hp, hn, List.take_left, List.drop_left, k.sign_valid _ _ h, Bool.true_or]

end Sys2Proof.Machine
end

