-- ==== Sys2Proof/Laws/Mem.lean ====
section
/-! SUPPORT. Laws of memory: every operation keeps the canonical form, and a read after a write gives the value written. -/

namespace Sys2Proof.Machine

theorem Mem.wfFrom_cons (lo k : Nat) (c : Byte) (m : Mem) :
    Mem.wfFrom lo ((k, c) :: m) = true ↔ lo ≤ k ∧ c ≠ memDefault ∧ Mem.wfFrom (k + 1) m = true := by
  simp [Mem.wfFrom, and_assoc]

theorem Mem.wfFrom_mono {lo lo' : Nat} (h : lo' ≤ lo) : ∀ {m : Mem}, Mem.wfFrom lo m = true → Mem.wfFrom lo' m = true
  | [], _ => rfl
  | (k, c) :: m, hm => by
    rw [Mem.wfFrom_cons] at *
    exact ⟨h.trans hm.1, hm.2⟩

theorem Mem.wfFrom_write {lo a : Nat} {b : Byte} (h : lo ≤ a) : ∀ {m : Mem}, Mem.wfFrom lo m = true →
    Mem.wfFrom lo (Mem.write m a b) = true
  | [], _ => by
    simp only [Mem.write]
    split
    · rfl
    · next hb => rw [Mem.wfFrom_cons]; exact ⟨h, hb, rfl⟩
  | (k, c) :: m, hm => by
    rw [Mem.wfFrom_cons] at hm
    simp only [Mem.write]
    split
    · next hk =>
      split
      · rw [Mem.wfFrom_cons]; exact hm
      · next hb =>
        rw [Mem.wfFrom_cons, Mem.wfFrom_cons]
        exact ⟨h, hb, hk, hm.2⟩
    · next hk =>
      split
      · next e =>
        subst e
        split
        · exact Mem.wfFrom_mono (by omega) hm.2.2
        · next hb => rw [Mem.wfFrom_cons]; exact ⟨h, hb, hm.2.2⟩
      · next e =>
        rw [Mem.wfFrom_cons]
        exact ⟨hm.1, hm.2.1, Mem.wfFrom_write (by omega) hm.2.2⟩

/-- A write keeps the canonical form. -/
theorem Mem.wf_write {m : Mem} (h : m.wf) (a : Nat) (b : Byte) : (m.write a b).wf := Mem.wfFrom_write (Nat.zero_le a) h

theorem Mem.wf_writeAll (bs : List (Nat × Byte)) : ∀ {m : Mem}, m.wf → (m.writeAll bs).wf := by
  unfold Mem.writeAll
  induction bs with
  | nil => exact id
  | cons p bs ih => exact fun h => ih (Mem.wf_write h p.1 p.2)

theorem Mem.wfFrom_filter (f : Nat × Byte → Bool) {lo : Nat} : ∀ {m : Mem}, Mem.wfFrom lo m = true →
    Mem.wfFrom lo (m.filter f) = true
  | [], _ => rfl
  | (k, c) :: m, hm => by
    rw [Mem.wfFrom_cons] at hm
    simp only [List.filter_cons]
    split
    · rw [Mem.wfFrom_cons]; exact ⟨hm.1, hm.2.1, Mem.wfFrom_filter f hm.2.2⟩
    · exact Mem.wfFrom_mono (by omega) (Mem.wfFrom_filter f hm.2.2)

/-- Zeroing a range keeps the canonical form. -/
theorem Mem.wf_zero {m : Mem} (h : m.wf) (a n : Nat) : (m.zero a n).wf := Mem.wfFrom_filter _ h

/-! Reading -/

theorem Mem.read_cons (k a : Nat) (c : Byte) (m : Mem) :
    Mem.read ((k, c) :: m) a = if a = k then c else Mem.read m a := by
  simp only [Mem.read, Map.get, Map.find?_cons]
  split <;> rfl

/-- Below the first address a canonical memory lists, every byte is the default. -/
theorem Mem.read_below {a lo : Nat} (h : a < lo) : ∀ {m : Mem}, Mem.wfFrom lo m = true → Mem.read m a = memDefault
  | [], _ => rfl
  | (k, c) :: m, hm => by
    rw [Mem.wfFrom_cons] at hm
    rw [Mem.read_cons, if_neg (by omega)]
    exact Mem.read_below (by omega) hm.2.2

theorem Mem.read_write_from {lo : Nat} (a x : Nat) (b : Byte) : ∀ {m : Mem}, Mem.wfFrom lo m = true →
    Mem.read (Mem.write m a b) x = if x = a then b else Mem.read m x
  | [], _ => by
    simp only [Mem.write]
    split
    · next hb => subst hb; split <;> rfl
    · rw [Mem.read_cons]
  | (k, c) :: m, hm => by
    rw [Mem.wfFrom_cons] at hm
    simp only [Mem.write]
    split
    · next hk =>
      split
      · next hb =>
        subst hb
        split
        · next e =>
          subst e
          rw [Mem.read_cons, if_neg (by omega)]
          exact Mem.read_below (by omega) hm.2.2
        · rfl
      · rw [Mem.read_cons]
    · next hk =>
      split
      · next e =>
        subst e
        split
        · next hb =>
          subst hb
          split
          · next e => subst e; exact Mem.read_below (by omega) hm.2.2
          · next e => rw [Mem.read_cons, if_neg e]
        · rw [Mem.read_cons, Mem.read_cons]
          split <;> rfl
      · next e =>
        rw [Mem.read_cons, Mem.read_cons, Mem.read_write_from a x b hm.2.2]
        by_cases h1 : x = k
        · rw [if_pos h1, if_pos h1, if_neg (by omega)]
        · rw [if_neg h1, if_neg h1]

/-- A read after a write: the byte written at its address, every other byte as before. -/
theorem Mem.read_write {m : Mem} (h : m.wf) (a x : Nat) (b : Byte) :
    Mem.read (m.write a b) x = if x = a then b else Mem.read m x := Mem.read_write_from a x b h

@[simp] theorem Mem.read_write_self {m : Mem} (h : m.wf) (a : Nat) (b : Byte) : Mem.read (m.write a b) a = b := by
  rw [Mem.read_write h, if_pos rfl]

theorem Mem.read_write_ne {m : Mem} (h : m.wf) {a x : Nat} (b : Byte) (hx : x ≠ a) :
    Mem.read (m.write a b) x = Mem.read m x := by rw [Mem.read_write h, if_neg hx]

/-- Reading a byte after a run of bytes has been written. -/
theorem Mem.read_writeAll_from (bs : List Byte) (a x : Nat) : ∀ {m : Mem}, m.wf →
    Mem.read (m.writeAll (bytesFrom a bs)) x = if a ≤ x ∧ x < a + bs.length then bs.getD (x - a) 0 else Mem.read m x := by
  induction bs generalizing a with
  | nil => intro m _; rw [if_neg (by simp)]; rfl
  | cons b bs ih =>
    intro m h
    have e : bytesFrom a (b :: bs) = (a, b) :: bytesFrom (a + 1) bs := by
      simp [bytesFrom, List.mapIdx_cons, Nat.add_assoc, Nat.add_comm 1]
    have e' : m.writeAll ((a, b) :: bytesFrom (a + 1) bs) = (m.write a b).writeAll (bytesFrom (a + 1) bs) := rfl
    rw [e, e', ih _ (Mem.wf_write h a b), Mem.read_write h]
    by_cases h1 : x = a
    · subst h1; simp
    · by_cases h2 : a + 1 ≤ x ∧ x < a + 1 + bs.length
      · rw [if_pos h2, if_pos (by simp; omega), show x - a = x - (a + 1) + 1 by omega]; rfl
      · rw [if_neg h2, if_neg h1, if_neg (by simp; omega)]

/-- A zeroed byte reads as zero; every byte outside the range as before. -/
theorem Mem.read_zero (m : Mem) (a n x : Nat) :
    Mem.read (m.zero a n) x = if a ≤ x ∧ x < a + n then memDefault else Mem.read m x := by
  unfold Mem.zero
  induction m with
  | nil => simp [Mem.read, Map.get]
  | cons p m ih =>
    obtain ⟨k, c⟩ := p
    simp only [List.filter_cons]
    split
    · next hk =>
      rw [Mem.read_cons, ih, Mem.read_cons]
      by_cases h1 : x = k
      · subst h1
        have : ¬ (a ≤ x ∧ x < a + n) := by simp only [Bool.or_eq_true, decide_eq_true_eq] at hk; omega
        simp [this]
      · simp [h1]
    · next hk =>
      rw [ih, Mem.read_cons]
      by_cases h1 : x = k
      · subst h1
        have : a ≤ x ∧ x < a + n := by simp only [Bool.or_eq_true, decide_eq_true_eq] at hk; omega
        simp [this]
      · simp [h1]

/-! The spaces of the machine -/

/-- Writing one location leaves every other as it was. -/
theorem State.homeByte_putHome_ne (s : State) (hm : s.mem.wf ∧ s.spad.wf ∧ s.tspad.wf) (l x : Loc) (b : Byte)
    (h : x.addr ≠ l.addr) : (s.putHome l b).homeByte x = s.homeByte x := by
  unfold State.putHome State.homeByte
  cases l.sp <;> cases x.sp <;> dsimp only <;> (try split) <;> try rfl
  all_goals simp only [Mem.read_write_ne hm.1 b h, Mem.read_write_ne hm.2.1 b h, Mem.read_write_ne hm.2.2 b h]

/-- The byte written is the byte read, but that memory under an enabled alias is not written (R74). -/
theorem State.homeByte_putHome_self (s : State) (hm : s.mem.wf ∧ s.spad.wf ∧ s.tspad.wf) (l : Loc) (b : Byte) :
    (s.putHome l b).homeByte l = if s.inAlias l then s.homeByte l else b := by
  unfold State.putHome State.homeByte
  obtain ⟨sp, a⟩ := l
  cases sp
  iterate 2
    by_cases h : (s.aliasOf a).isSome = true
    · simp [State.inAlias, h]
    · simp [State.inAlias, h, Mem.read_write_self hm.1]
  · simp [State.inAlias, Mem.read_write_self hm.2.1]
  · simp [State.inAlias, Mem.read_write_self hm.2.2]

/-- Writing a byte keeps the canonical form of every memory. -/
theorem State.memOk_putHome (s : State) (hm : s.mem.wf ∧ s.spad.wf ∧ s.tspad.wf) (l : Loc) (b : Byte) :
    (s.putHome l b).mem.wf ∧ (s.putHome l b).spad.wf ∧ (s.putHome l b).tspad.wf := by
  unfold State.putHome
  cases l.sp
  iterate 2
    dsimp only
    split
    · exact hm
    · exact ⟨Mem.wf_write hm.1 _ _, hm.2.1, hm.2.2⟩
  · exact ⟨hm.1, Mem.wf_write hm.2.1 _ _, hm.2.2⟩
  · exact ⟨hm.1, hm.2.1, Mem.wf_write hm.2.2 _ _⟩

/-- Memory at reset is in canonical form. -/
theorem State.reset_mem_wf : State.reset.mem.wf ∧ State.reset.spad.wf ∧ State.reset.tspad.wf := ⟨rfl, rfl, rfl⟩

end Sys2Proof.Machine
end

