-- ==== Sys2Proof/Laws/State.lean ====
section
/-! SUPPORT. One lemma per field per update, of the state and of a group: no later proof unfolds a record update. -/

namespace Sys2Proof.Machine

@[simp] theorem State.setGroup_agenda (s : State) (gid : Nat) (g : Group) : (s.setGroup gid g).agenda = s.agenda := rfl
@[simp] theorem State.setGroup_cur (s : State) (gid : Nat) (g : Group) : (s.setGroup gid g).cur = s.cur := rfl
@[simp] theorem State.setGroup_fresh (s : State) (gid : Nat) (g : Group) : (s.setGroup gid g).fresh = s.fresh := rfl
@[simp] theorem State.setGroup_clk (s : State) (gid : Nat) (g : Group) : (s.setGroup gid g).clk = s.clk := rfl
@[simp] theorem State.setGroup_seq (s : State) (gid : Nat) (g : Group) : (s.setGroup gid g).seq = s.seq := rfl
@[simp] theorem State.setGroup_nextId (s : State) (gid : Nat) (g : Group) : (s.setGroup gid g).nextId = s.nextId := rfl
@[simp] theorem State.setGroup_groups (s : State) (gid : Nat) (g : Group) : (s.setGroup gid g).groups = Map.put s.groups gid g := rfl
@[simp] theorem State.setGroup_blocks (s : State) (gid : Nat) (g : Group) : (s.setGroup gid g).blocks = s.blocks := rfl
@[simp] theorem State.setGroup_launches (s : State) (gid : Nat) (g : Group) : (s.setGroup gid g).launches = s.launches := rfl
@[simp] theorem State.setGroup_mem (s : State) (gid : Nat) (g : Group) : (s.setGroup gid g).mem = s.mem := rfl
@[simp] theorem State.setGroup_spad (s : State) (gid : Nat) (g : Group) : (s.setGroup gid g).spad = s.spad := rfl
@[simp] theorem State.setGroup_tspad (s : State) (gid : Nat) (g : Group) : (s.setGroup gid g).tspad = s.tspad := rfl
@[simp] theorem State.setGroup_poison (s : State) (gid : Nat) (g : Group) : (s.setGroup gid g).poison = s.poison := rfl
@[simp] theorem State.setGroup_iq (s : State) (gid : Nat) (g : Group) : (s.setGroup gid g).iq = s.iq := rfl
@[simp] theorem State.setGroup_sq (s : State) (gid : Nat) (g : Group) : (s.setGroup gid g).sq = s.sq := rfl
@[simp] theorem State.setGroup_clv (s : State) (gid : Nat) (g : Group) : (s.setGroup gid g).clv = s.clv := rfl
@[simp] theorem State.setGroup_cbuf (s : State) (gid : Nat) (g : Group) : (s.setGroup gid g).cbuf = s.cbuf := rfl
@[simp] theorem State.setGroup_parts (s : State) (gid : Nat) (g : Group) : (s.setGroup gid g).parts = s.parts := rfl
@[simp] theorem State.setGroup_added (s : State) (gid : Nat) (g : Group) : (s.setGroup gid g).added = s.added := rfl
@[simp] theorem State.setGroup_l1 (s : State) (gid : Nat) (g : Group) : (s.setGroup gid g).l1 = s.l1 := rfl
@[simp] theorem State.setGroup_guests (s : State) (gid : Nat) (g : Group) : (s.setGroup gid g).guests = s.guests := rfl
@[simp] theorem State.setGroup_ver (s : State) (gid : Nat) (g : Group) : (s.setGroup gid g).ver = s.ver := rfl
@[simp] theorem State.setGroup_co (s : State) (gid : Nat) (g : Group) : (s.setGroup gid g).co = s.co := rfl
@[simp] theorem State.setGroup_icache (s : State) (gid : Nat) (g : Group) : (s.setGroup gid g).icache = s.icache := rfl
@[simp] theorem State.setGroup_tlb1 (s : State) (gid : Nat) (g : Group) : (s.setGroup gid g).tlb1 = s.tlb1 := rfl
@[simp] theorem State.setGroup_tlb2 (s : State) (gid : Nat) (g : Group) : (s.setGroup gid g).tlb2 = s.tlb2 := rfl
@[simp] theorem State.setGroup_engines (s : State) (gid : Nat) (g : Group) : (s.setGroup gid g).engines = s.engines := rfl
@[simp] theorem State.setGroup_pools (s : State) (gid : Nat) (g : Group) : (s.setGroup gid g).pools = s.pools := rfl
@[simp] theorem State.setGroup_ctxs (s : State) (gid : Nat) (g : Group) : (s.setGroup gid g).ctxs = s.ctxs := rfl
@[simp] theorem State.setGroup_pins (s : State) (gid : Nat) (g : Group) : (s.setGroup gid g).pins = s.pins := rfl
@[simp] theorem State.setGroup_decants (s : State) (gid : Nat) (g : Group) : (s.setGroup gid g).decants = s.decants := rfl
@[simp] theorem State.setGroup_queues (s : State) (gid : Nat) (g : Group) : (s.setGroup gid g).queues = s.queues := rfl
@[simp] theorem State.setGroup_collSets (s : State) (gid : Nat) (g : Group) : (s.setGroup gid g).collSets = s.collSets := rfl
@[simp] theorem State.setGroup_regs (s : State) (gid : Nat) (g : Group) : (s.setGroup gid g).regs = s.regs := rfl
@[simp] theorem State.setGroup_cores (s : State) (gid : Nat) (g : Group) : (s.setGroup gid g).cores = s.cores := rfl
@[simp] theorem State.setGroup_tiles (s : State) (gid : Nat) (g : Group) : (s.setGroup gid g).tiles = s.tiles := rfl
@[simp] theorem State.setGroup_columns (s : State) (gid : Nat) (g : Group) : (s.setGroup gid g).columns = s.columns := rfl
@[simp] theorem State.setGroup_budgets (s : State) (gid : Nat) (g : Group) : (s.setGroup gid g).budgets = s.budgets := rfl
@[simp] theorem State.setGroup_links (s : State) (gid : Nat) (g : Group) : (s.setGroup gid g).links = s.links := rfl
@[simp] theorem State.setGroup_clusters (s : State) (gid : Nat) (g : Group) : (s.setGroup gid g).clusters = s.clusters := rfl
@[simp] theorem State.setGroup_ctrls (s : State) (gid : Nat) (g : Group) : (s.setGroup gid g).ctrls = s.ctrls := rfl
@[simp] theorem State.setGroup_hostLog (s : State) (gid : Nat) (g : Group) : (s.setGroup gid g).hostLog = s.hostLog := rfl
@[simp] theorem State.setGroup_msix (s : State) (gid : Nat) (g : Group) : (s.setGroup gid g).msix = s.msix := rfl

@[simp] theorem State.setBlock_agenda (s : State) (bid : Nat) (b : Block) : (s.setBlock bid b).agenda = s.agenda := rfl
@[simp] theorem State.setBlock_cur (s : State) (bid : Nat) (b : Block) : (s.setBlock bid b).cur = s.cur := rfl
@[simp] theorem State.setBlock_fresh (s : State) (bid : Nat) (b : Block) : (s.setBlock bid b).fresh = s.fresh := rfl
@[simp] theorem State.setBlock_clk (s : State) (bid : Nat) (b : Block) : (s.setBlock bid b).clk = s.clk := rfl
@[simp] theorem State.setBlock_seq (s : State) (bid : Nat) (b : Block) : (s.setBlock bid b).seq = s.seq := rfl
@[simp] theorem State.setBlock_nextId (s : State) (bid : Nat) (b : Block) : (s.setBlock bid b).nextId = s.nextId := rfl
@[simp] theorem State.setBlock_groups (s : State) (bid : Nat) (b : Block) : (s.setBlock bid b).groups = s.groups := rfl
@[simp] theorem State.setBlock_blocks (s : State) (bid : Nat) (b : Block) : (s.setBlock bid b).blocks = Map.put s.blocks bid b := rfl
@[simp] theorem State.setBlock_launches (s : State) (bid : Nat) (b : Block) : (s.setBlock bid b).launches = s.launches := rfl
@[simp] theorem State.setBlock_mem (s : State) (bid : Nat) (b : Block) : (s.setBlock bid b).mem = s.mem := rfl
@[simp] theorem State.setBlock_spad (s : State) (bid : Nat) (b : Block) : (s.setBlock bid b).spad = s.spad := rfl
@[simp] theorem State.setBlock_tspad (s : State) (bid : Nat) (b : Block) : (s.setBlock bid b).tspad = s.tspad := rfl
@[simp] theorem State.setBlock_poison (s : State) (bid : Nat) (b : Block) : (s.setBlock bid b).poison = s.poison := rfl
@[simp] theorem State.setBlock_iq (s : State) (bid : Nat) (b : Block) : (s.setBlock bid b).iq = s.iq := rfl
@[simp] theorem State.setBlock_sq (s : State) (bid : Nat) (b : Block) : (s.setBlock bid b).sq = s.sq := rfl
@[simp] theorem State.setBlock_clv (s : State) (bid : Nat) (b : Block) : (s.setBlock bid b).clv = s.clv := rfl
@[simp] theorem State.setBlock_cbuf (s : State) (bid : Nat) (b : Block) : (s.setBlock bid b).cbuf = s.cbuf := rfl
@[simp] theorem State.setBlock_parts (s : State) (bid : Nat) (b : Block) : (s.setBlock bid b).parts = s.parts := rfl
@[simp] theorem State.setBlock_added (s : State) (bid : Nat) (b : Block) : (s.setBlock bid b).added = s.added := rfl
@[simp] theorem State.setBlock_l1 (s : State) (bid : Nat) (b : Block) : (s.setBlock bid b).l1 = s.l1 := rfl
@[simp] theorem State.setBlock_guests (s : State) (bid : Nat) (b : Block) : (s.setBlock bid b).guests = s.guests := rfl
@[simp] theorem State.setBlock_ver (s : State) (bid : Nat) (b : Block) : (s.setBlock bid b).ver = s.ver := rfl
@[simp] theorem State.setBlock_co (s : State) (bid : Nat) (b : Block) : (s.setBlock bid b).co = s.co := rfl
@[simp] theorem State.setBlock_icache (s : State) (bid : Nat) (b : Block) : (s.setBlock bid b).icache = s.icache := rfl
@[simp] theorem State.setBlock_tlb1 (s : State) (bid : Nat) (b : Block) : (s.setBlock bid b).tlb1 = s.tlb1 := rfl
@[simp] theorem State.setBlock_tlb2 (s : State) (bid : Nat) (b : Block) : (s.setBlock bid b).tlb2 = s.tlb2 := rfl
@[simp] theorem State.setBlock_engines (s : State) (bid : Nat) (b : Block) : (s.setBlock bid b).engines = s.engines := rfl
@[simp] theorem State.setBlock_pools (s : State) (bid : Nat) (b : Block) : (s.setBlock bid b).pools = s.pools := rfl
@[simp] theorem State.setBlock_ctxs (s : State) (bid : Nat) (b : Block) : (s.setBlock bid b).ctxs = s.ctxs := rfl
@[simp] theorem State.setBlock_pins (s : State) (bid : Nat) (b : Block) : (s.setBlock bid b).pins = s.pins := rfl
@[simp] theorem State.setBlock_decants (s : State) (bid : Nat) (b : Block) : (s.setBlock bid b).decants = s.decants := rfl
@[simp] theorem State.setBlock_queues (s : State) (bid : Nat) (b : Block) : (s.setBlock bid b).queues = s.queues := rfl
@[simp] theorem State.setBlock_collSets (s : State) (bid : Nat) (b : Block) : (s.setBlock bid b).collSets = s.collSets := rfl
@[simp] theorem State.setBlock_regs (s : State) (bid : Nat) (b : Block) : (s.setBlock bid b).regs = s.regs := rfl
@[simp] theorem State.setBlock_cores (s : State) (bid : Nat) (b : Block) : (s.setBlock bid b).cores = s.cores := rfl
@[simp] theorem State.setBlock_tiles (s : State) (bid : Nat) (b : Block) : (s.setBlock bid b).tiles = s.tiles := rfl
@[simp] theorem State.setBlock_columns (s : State) (bid : Nat) (b : Block) : (s.setBlock bid b).columns = s.columns := rfl
@[simp] theorem State.setBlock_budgets (s : State) (bid : Nat) (b : Block) : (s.setBlock bid b).budgets = s.budgets := rfl
@[simp] theorem State.setBlock_links (s : State) (bid : Nat) (b : Block) : (s.setBlock bid b).links = s.links := rfl
@[simp] theorem State.setBlock_clusters (s : State) (bid : Nat) (b : Block) : (s.setBlock bid b).clusters = s.clusters := rfl
@[simp] theorem State.setBlock_ctrls (s : State) (bid : Nat) (b : Block) : (s.setBlock bid b).ctrls = s.ctrls := rfl
@[simp] theorem State.setBlock_hostLog (s : State) (bid : Nat) (b : Block) : (s.setBlock bid b).hostLog = s.hostLog := rfl
@[simp] theorem State.setBlock_msix (s : State) (bid : Nat) (b : Block) : (s.setBlock bid b).msix = s.msix := rfl

@[simp] theorem State.setLaunch_agenda (s : State) (lid : Nat) (l : Launch) : (s.setLaunch lid l).agenda = s.agenda := rfl
@[simp] theorem State.setLaunch_cur (s : State) (lid : Nat) (l : Launch) : (s.setLaunch lid l).cur = s.cur := rfl
@[simp] theorem State.setLaunch_fresh (s : State) (lid : Nat) (l : Launch) : (s.setLaunch lid l).fresh = s.fresh := rfl
@[simp] theorem State.setLaunch_clk (s : State) (lid : Nat) (l : Launch) : (s.setLaunch lid l).clk = s.clk := rfl
@[simp] theorem State.setLaunch_seq (s : State) (lid : Nat) (l : Launch) : (s.setLaunch lid l).seq = s.seq := rfl
@[simp] theorem State.setLaunch_nextId (s : State) (lid : Nat) (l : Launch) : (s.setLaunch lid l).nextId = s.nextId := rfl
@[simp] theorem State.setLaunch_groups (s : State) (lid : Nat) (l : Launch) : (s.setLaunch lid l).groups = s.groups := rfl
@[simp] theorem State.setLaunch_blocks (s : State) (lid : Nat) (l : Launch) : (s.setLaunch lid l).blocks = s.blocks := rfl
@[simp] theorem State.setLaunch_launches (s : State) (lid : Nat) (l : Launch) : (s.setLaunch lid l).launches = Map.put s.launches lid l := rfl
@[simp] theorem State.setLaunch_mem (s : State) (lid : Nat) (l : Launch) : (s.setLaunch lid l).mem = s.mem := rfl
@[simp] theorem State.setLaunch_spad (s : State) (lid : Nat) (l : Launch) : (s.setLaunch lid l).spad = s.spad := rfl
@[simp] theorem State.setLaunch_tspad (s : State) (lid : Nat) (l : Launch) : (s.setLaunch lid l).tspad = s.tspad := rfl
@[simp] theorem State.setLaunch_poison (s : State) (lid : Nat) (l : Launch) : (s.setLaunch lid l).poison = s.poison := rfl
@[simp] theorem State.setLaunch_iq (s : State) (lid : Nat) (l : Launch) : (s.setLaunch lid l).iq = s.iq := rfl
@[simp] theorem State.setLaunch_sq (s : State) (lid : Nat) (l : Launch) : (s.setLaunch lid l).sq = s.sq := rfl
@[simp] theorem State.setLaunch_clv (s : State) (lid : Nat) (l : Launch) : (s.setLaunch lid l).clv = s.clv := rfl
@[simp] theorem State.setLaunch_cbuf (s : State) (lid : Nat) (l : Launch) : (s.setLaunch lid l).cbuf = s.cbuf := rfl
@[simp] theorem State.setLaunch_parts (s : State) (lid : Nat) (l : Launch) : (s.setLaunch lid l).parts = s.parts := rfl
@[simp] theorem State.setLaunch_added (s : State) (lid : Nat) (l : Launch) : (s.setLaunch lid l).added = s.added := rfl
@[simp] theorem State.setLaunch_l1 (s : State) (lid : Nat) (l : Launch) : (s.setLaunch lid l).l1 = s.l1 := rfl
@[simp] theorem State.setLaunch_guests (s : State) (lid : Nat) (l : Launch) : (s.setLaunch lid l).guests = s.guests := rfl
@[simp] theorem State.setLaunch_ver (s : State) (lid : Nat) (l : Launch) : (s.setLaunch lid l).ver = s.ver := rfl
@[simp] theorem State.setLaunch_co (s : State) (lid : Nat) (l : Launch) : (s.setLaunch lid l).co = s.co := rfl
@[simp] theorem State.setLaunch_icache (s : State) (lid : Nat) (l : Launch) : (s.setLaunch lid l).icache = s.icache := rfl
@[simp] theorem State.setLaunch_tlb1 (s : State) (lid : Nat) (l : Launch) : (s.setLaunch lid l).tlb1 = s.tlb1 := rfl
@[simp] theorem State.setLaunch_tlb2 (s : State) (lid : Nat) (l : Launch) : (s.setLaunch lid l).tlb2 = s.tlb2 := rfl
@[simp] theorem State.setLaunch_engines (s : State) (lid : Nat) (l : Launch) : (s.setLaunch lid l).engines = s.engines := rfl
@[simp] theorem State.setLaunch_pools (s : State) (lid : Nat) (l : Launch) : (s.setLaunch lid l).pools = s.pools := rfl
@[simp] theorem State.setLaunch_ctxs (s : State) (lid : Nat) (l : Launch) : (s.setLaunch lid l).ctxs = s.ctxs := rfl
@[simp] theorem State.setLaunch_pins (s : State) (lid : Nat) (l : Launch) : (s.setLaunch lid l).pins = s.pins := rfl
@[simp] theorem State.setLaunch_decants (s : State) (lid : Nat) (l : Launch) : (s.setLaunch lid l).decants = s.decants := rfl
@[simp] theorem State.setLaunch_queues (s : State) (lid : Nat) (l : Launch) : (s.setLaunch lid l).queues = s.queues := rfl
@[simp] theorem State.setLaunch_collSets (s : State) (lid : Nat) (l : Launch) : (s.setLaunch lid l).collSets = s.collSets := rfl
@[simp] theorem State.setLaunch_regs (s : State) (lid : Nat) (l : Launch) : (s.setLaunch lid l).regs = s.regs := rfl
@[simp] theorem State.setLaunch_cores (s : State) (lid : Nat) (l : Launch) : (s.setLaunch lid l).cores = s.cores := rfl
@[simp] theorem State.setLaunch_tiles (s : State) (lid : Nat) (l : Launch) : (s.setLaunch lid l).tiles = s.tiles := rfl
@[simp] theorem State.setLaunch_columns (s : State) (lid : Nat) (l : Launch) : (s.setLaunch lid l).columns = s.columns := rfl
@[simp] theorem State.setLaunch_budgets (s : State) (lid : Nat) (l : Launch) : (s.setLaunch lid l).budgets = s.budgets := rfl
@[simp] theorem State.setLaunch_links (s : State) (lid : Nat) (l : Launch) : (s.setLaunch lid l).links = s.links := rfl
@[simp] theorem State.setLaunch_clusters (s : State) (lid : Nat) (l : Launch) : (s.setLaunch lid l).clusters = s.clusters := rfl
@[simp] theorem State.setLaunch_ctrls (s : State) (lid : Nat) (l : Launch) : (s.setLaunch lid l).ctrls = s.ctrls := rfl
@[simp] theorem State.setLaunch_hostLog (s : State) (lid : Nat) (l : Launch) : (s.setLaunch lid l).hostLog = s.hostLog := rfl
@[simp] theorem State.setLaunch_msix (s : State) (lid : Nat) (l : Launch) : (s.setLaunch lid l).msix = s.msix := rfl

@[simp] theorem State.setEngine_agenda (s : State) (id : Nat) (e : Engine) : (s.setEngine id e).agenda = s.agenda := rfl
@[simp] theorem State.setEngine_cur (s : State) (id : Nat) (e : Engine) : (s.setEngine id e).cur = s.cur := rfl
@[simp] theorem State.setEngine_fresh (s : State) (id : Nat) (e : Engine) : (s.setEngine id e).fresh = s.fresh := rfl
@[simp] theorem State.setEngine_clk (s : State) (id : Nat) (e : Engine) : (s.setEngine id e).clk = s.clk := rfl
@[simp] theorem State.setEngine_seq (s : State) (id : Nat) (e : Engine) : (s.setEngine id e).seq = s.seq := rfl
@[simp] theorem State.setEngine_nextId (s : State) (id : Nat) (e : Engine) : (s.setEngine id e).nextId = s.nextId := rfl
@[simp] theorem State.setEngine_groups (s : State) (id : Nat) (e : Engine) : (s.setEngine id e).groups = s.groups := rfl
@[simp] theorem State.setEngine_blocks (s : State) (id : Nat) (e : Engine) : (s.setEngine id e).blocks = s.blocks := rfl
@[simp] theorem State.setEngine_launches (s : State) (id : Nat) (e : Engine) : (s.setEngine id e).launches = s.launches := rfl
@[simp] theorem State.setEngine_mem (s : State) (id : Nat) (e : Engine) : (s.setEngine id e).mem = s.mem := rfl
@[simp] theorem State.setEngine_spad (s : State) (id : Nat) (e : Engine) : (s.setEngine id e).spad = s.spad := rfl
@[simp] theorem State.setEngine_tspad (s : State) (id : Nat) (e : Engine) : (s.setEngine id e).tspad = s.tspad := rfl
@[simp] theorem State.setEngine_poison (s : State) (id : Nat) (e : Engine) : (s.setEngine id e).poison = s.poison := rfl
@[simp] theorem State.setEngine_iq (s : State) (id : Nat) (e : Engine) : (s.setEngine id e).iq = s.iq := rfl
@[simp] theorem State.setEngine_sq (s : State) (id : Nat) (e : Engine) : (s.setEngine id e).sq = s.sq := rfl
@[simp] theorem State.setEngine_clv (s : State) (id : Nat) (e : Engine) : (s.setEngine id e).clv = s.clv := rfl
@[simp] theorem State.setEngine_cbuf (s : State) (id : Nat) (e : Engine) : (s.setEngine id e).cbuf = s.cbuf := rfl
@[simp] theorem State.setEngine_parts (s : State) (id : Nat) (e : Engine) : (s.setEngine id e).parts = s.parts := rfl
@[simp] theorem State.setEngine_added (s : State) (id : Nat) (e : Engine) : (s.setEngine id e).added = s.added := rfl
@[simp] theorem State.setEngine_l1 (s : State) (id : Nat) (e : Engine) : (s.setEngine id e).l1 = s.l1 := rfl
@[simp] theorem State.setEngine_guests (s : State) (id : Nat) (e : Engine) : (s.setEngine id e).guests = s.guests := rfl
@[simp] theorem State.setEngine_ver (s : State) (id : Nat) (e : Engine) : (s.setEngine id e).ver = s.ver := rfl
@[simp] theorem State.setEngine_co (s : State) (id : Nat) (e : Engine) : (s.setEngine id e).co = s.co := rfl
@[simp] theorem State.setEngine_icache (s : State) (id : Nat) (e : Engine) : (s.setEngine id e).icache = s.icache := rfl
@[simp] theorem State.setEngine_tlb1 (s : State) (id : Nat) (e : Engine) : (s.setEngine id e).tlb1 = s.tlb1 := rfl
@[simp] theorem State.setEngine_tlb2 (s : State) (id : Nat) (e : Engine) : (s.setEngine id e).tlb2 = s.tlb2 := rfl
@[simp] theorem State.setEngine_engines (s : State) (id : Nat) (e : Engine) : (s.setEngine id e).engines = Map.put s.engines id e := rfl
@[simp] theorem State.setEngine_pools (s : State) (id : Nat) (e : Engine) : (s.setEngine id e).pools = s.pools := rfl
@[simp] theorem State.setEngine_ctxs (s : State) (id : Nat) (e : Engine) : (s.setEngine id e).ctxs = s.ctxs := rfl
@[simp] theorem State.setEngine_pins (s : State) (id : Nat) (e : Engine) : (s.setEngine id e).pins = s.pins := rfl
@[simp] theorem State.setEngine_decants (s : State) (id : Nat) (e : Engine) : (s.setEngine id e).decants = s.decants := rfl
@[simp] theorem State.setEngine_queues (s : State) (id : Nat) (e : Engine) : (s.setEngine id e).queues = s.queues := rfl
@[simp] theorem State.setEngine_collSets (s : State) (id : Nat) (e : Engine) : (s.setEngine id e).collSets = s.collSets := rfl
@[simp] theorem State.setEngine_regs (s : State) (id : Nat) (e : Engine) : (s.setEngine id e).regs = s.regs := rfl
@[simp] theorem State.setEngine_cores (s : State) (id : Nat) (e : Engine) : (s.setEngine id e).cores = s.cores := rfl
@[simp] theorem State.setEngine_tiles (s : State) (id : Nat) (e : Engine) : (s.setEngine id e).tiles = s.tiles := rfl
@[simp] theorem State.setEngine_columns (s : State) (id : Nat) (e : Engine) : (s.setEngine id e).columns = s.columns := rfl
@[simp] theorem State.setEngine_budgets (s : State) (id : Nat) (e : Engine) : (s.setEngine id e).budgets = s.budgets := rfl
@[simp] theorem State.setEngine_links (s : State) (id : Nat) (e : Engine) : (s.setEngine id e).links = s.links := rfl
@[simp] theorem State.setEngine_clusters (s : State) (id : Nat) (e : Engine) : (s.setEngine id e).clusters = s.clusters := rfl
@[simp] theorem State.setEngine_ctrls (s : State) (id : Nat) (e : Engine) : (s.setEngine id e).ctrls = s.ctrls := rfl
@[simp] theorem State.setEngine_hostLog (s : State) (id : Nat) (e : Engine) : (s.setEngine id e).hostLog = s.hostLog := rfl
@[simp] theorem State.setEngine_msix (s : State) (id : Nat) (e : Engine) : (s.setEngine id e).msix = s.msix := rfl

@[simp] theorem State.setPool_agenda (s : State) (pid : Nat) (p : Pool) : (s.setPool pid p).agenda = s.agenda := rfl
@[simp] theorem State.setPool_cur (s : State) (pid : Nat) (p : Pool) : (s.setPool pid p).cur = s.cur := rfl
@[simp] theorem State.setPool_fresh (s : State) (pid : Nat) (p : Pool) : (s.setPool pid p).fresh = s.fresh := rfl
@[simp] theorem State.setPool_clk (s : State) (pid : Nat) (p : Pool) : (s.setPool pid p).clk = s.clk := rfl
@[simp] theorem State.setPool_seq (s : State) (pid : Nat) (p : Pool) : (s.setPool pid p).seq = s.seq := rfl
@[simp] theorem State.setPool_nextId (s : State) (pid : Nat) (p : Pool) : (s.setPool pid p).nextId = s.nextId := rfl
@[simp] theorem State.setPool_groups (s : State) (pid : Nat) (p : Pool) : (s.setPool pid p).groups = s.groups := rfl
@[simp] theorem State.setPool_blocks (s : State) (pid : Nat) (p : Pool) : (s.setPool pid p).blocks = s.blocks := rfl
@[simp] theorem State.setPool_launches (s : State) (pid : Nat) (p : Pool) : (s.setPool pid p).launches = s.launches := rfl
@[simp] theorem State.setPool_mem (s : State) (pid : Nat) (p : Pool) : (s.setPool pid p).mem = s.mem := rfl
@[simp] theorem State.setPool_spad (s : State) (pid : Nat) (p : Pool) : (s.setPool pid p).spad = s.spad := rfl
@[simp] theorem State.setPool_tspad (s : State) (pid : Nat) (p : Pool) : (s.setPool pid p).tspad = s.tspad := rfl
@[simp] theorem State.setPool_poison (s : State) (pid : Nat) (p : Pool) : (s.setPool pid p).poison = s.poison := rfl
@[simp] theorem State.setPool_iq (s : State) (pid : Nat) (p : Pool) : (s.setPool pid p).iq = s.iq := rfl
@[simp] theorem State.setPool_sq (s : State) (pid : Nat) (p : Pool) : (s.setPool pid p).sq = s.sq := rfl
@[simp] theorem State.setPool_clv (s : State) (pid : Nat) (p : Pool) : (s.setPool pid p).clv = s.clv := rfl
@[simp] theorem State.setPool_cbuf (s : State) (pid : Nat) (p : Pool) : (s.setPool pid p).cbuf = s.cbuf := rfl
@[simp] theorem State.setPool_parts (s : State) (pid : Nat) (p : Pool) : (s.setPool pid p).parts = s.parts := rfl
@[simp] theorem State.setPool_added (s : State) (pid : Nat) (p : Pool) : (s.setPool pid p).added = s.added := rfl
@[simp] theorem State.setPool_l1 (s : State) (pid : Nat) (p : Pool) : (s.setPool pid p).l1 = s.l1 := rfl
@[simp] theorem State.setPool_guests (s : State) (pid : Nat) (p : Pool) : (s.setPool pid p).guests = s.guests := rfl
@[simp] theorem State.setPool_ver (s : State) (pid : Nat) (p : Pool) : (s.setPool pid p).ver = s.ver := rfl
@[simp] theorem State.setPool_co (s : State) (pid : Nat) (p : Pool) : (s.setPool pid p).co = s.co := rfl
@[simp] theorem State.setPool_icache (s : State) (pid : Nat) (p : Pool) : (s.setPool pid p).icache = s.icache := rfl
@[simp] theorem State.setPool_tlb1 (s : State) (pid : Nat) (p : Pool) : (s.setPool pid p).tlb1 = s.tlb1 := rfl
@[simp] theorem State.setPool_tlb2 (s : State) (pid : Nat) (p : Pool) : (s.setPool pid p).tlb2 = s.tlb2 := rfl
@[simp] theorem State.setPool_engines (s : State) (pid : Nat) (p : Pool) : (s.setPool pid p).engines = s.engines := rfl
@[simp] theorem State.setPool_pools (s : State) (pid : Nat) (p : Pool) : (s.setPool pid p).pools = Map.put s.pools pid p := rfl
@[simp] theorem State.setPool_ctxs (s : State) (pid : Nat) (p : Pool) : (s.setPool pid p).ctxs = s.ctxs := rfl
@[simp] theorem State.setPool_pins (s : State) (pid : Nat) (p : Pool) : (s.setPool pid p).pins = s.pins := rfl
@[simp] theorem State.setPool_decants (s : State) (pid : Nat) (p : Pool) : (s.setPool pid p).decants = s.decants := rfl
@[simp] theorem State.setPool_queues (s : State) (pid : Nat) (p : Pool) : (s.setPool pid p).queues = s.queues := rfl
@[simp] theorem State.setPool_collSets (s : State) (pid : Nat) (p : Pool) : (s.setPool pid p).collSets = s.collSets := rfl
@[simp] theorem State.setPool_regs (s : State) (pid : Nat) (p : Pool) : (s.setPool pid p).regs = s.regs := rfl
@[simp] theorem State.setPool_cores (s : State) (pid : Nat) (p : Pool) : (s.setPool pid p).cores = s.cores := rfl
@[simp] theorem State.setPool_tiles (s : State) (pid : Nat) (p : Pool) : (s.setPool pid p).tiles = s.tiles := rfl
@[simp] theorem State.setPool_columns (s : State) (pid : Nat) (p : Pool) : (s.setPool pid p).columns = s.columns := rfl
@[simp] theorem State.setPool_budgets (s : State) (pid : Nat) (p : Pool) : (s.setPool pid p).budgets = s.budgets := rfl
@[simp] theorem State.setPool_links (s : State) (pid : Nat) (p : Pool) : (s.setPool pid p).links = s.links := rfl
@[simp] theorem State.setPool_clusters (s : State) (pid : Nat) (p : Pool) : (s.setPool pid p).clusters = s.clusters := rfl
@[simp] theorem State.setPool_ctrls (s : State) (pid : Nat) (p : Pool) : (s.setPool pid p).ctrls = s.ctrls := rfl
@[simp] theorem State.setPool_hostLog (s : State) (pid : Nat) (p : Pool) : (s.setPool pid p).hostLog = s.hostLog := rfl
@[simp] theorem State.setPool_msix (s : State) (pid : Nat) (p : Pool) : (s.setPool pid p).msix = s.msix := rfl

@[simp] theorem State.setCore_agenda (s : State) (n : Nat) (x : Core) : (s.setCore n x).agenda = s.agenda := rfl
@[simp] theorem State.setCore_cur (s : State) (n : Nat) (x : Core) : (s.setCore n x).cur = s.cur := rfl
@[simp] theorem State.setCore_fresh (s : State) (n : Nat) (x : Core) : (s.setCore n x).fresh = s.fresh := rfl
@[simp] theorem State.setCore_clk (s : State) (n : Nat) (x : Core) : (s.setCore n x).clk = s.clk := rfl
@[simp] theorem State.setCore_seq (s : State) (n : Nat) (x : Core) : (s.setCore n x).seq = s.seq := rfl
@[simp] theorem State.setCore_nextId (s : State) (n : Nat) (x : Core) : (s.setCore n x).nextId = s.nextId := rfl
@[simp] theorem State.setCore_groups (s : State) (n : Nat) (x : Core) : (s.setCore n x).groups = s.groups := rfl
@[simp] theorem State.setCore_blocks (s : State) (n : Nat) (x : Core) : (s.setCore n x).blocks = s.blocks := rfl
@[simp] theorem State.setCore_launches (s : State) (n : Nat) (x : Core) : (s.setCore n x).launches = s.launches := rfl
@[simp] theorem State.setCore_mem (s : State) (n : Nat) (x : Core) : (s.setCore n x).mem = s.mem := rfl
@[simp] theorem State.setCore_spad (s : State) (n : Nat) (x : Core) : (s.setCore n x).spad = s.spad := rfl
@[simp] theorem State.setCore_tspad (s : State) (n : Nat) (x : Core) : (s.setCore n x).tspad = s.tspad := rfl
@[simp] theorem State.setCore_poison (s : State) (n : Nat) (x : Core) : (s.setCore n x).poison = s.poison := rfl
@[simp] theorem State.setCore_iq (s : State) (n : Nat) (x : Core) : (s.setCore n x).iq = s.iq := rfl
@[simp] theorem State.setCore_sq (s : State) (n : Nat) (x : Core) : (s.setCore n x).sq = s.sq := rfl
@[simp] theorem State.setCore_clv (s : State) (n : Nat) (x : Core) : (s.setCore n x).clv = s.clv := rfl
@[simp] theorem State.setCore_cbuf (s : State) (n : Nat) (x : Core) : (s.setCore n x).cbuf = s.cbuf := rfl
@[simp] theorem State.setCore_parts (s : State) (n : Nat) (x : Core) : (s.setCore n x).parts = s.parts := rfl
@[simp] theorem State.setCore_added (s : State) (n : Nat) (x : Core) : (s.setCore n x).added = s.added := rfl
@[simp] theorem State.setCore_l1 (s : State) (n : Nat) (x : Core) : (s.setCore n x).l1 = s.l1 := rfl
@[simp] theorem State.setCore_guests (s : State) (n : Nat) (x : Core) : (s.setCore n x).guests = s.guests := rfl
@[simp] theorem State.setCore_ver (s : State) (n : Nat) (x : Core) : (s.setCore n x).ver = s.ver := rfl
@[simp] theorem State.setCore_co (s : State) (n : Nat) (x : Core) : (s.setCore n x).co = s.co := rfl
@[simp] theorem State.setCore_icache (s : State) (n : Nat) (x : Core) : (s.setCore n x).icache = s.icache := rfl
@[simp] theorem State.setCore_tlb1 (s : State) (n : Nat) (x : Core) : (s.setCore n x).tlb1 = s.tlb1 := rfl
@[simp] theorem State.setCore_tlb2 (s : State) (n : Nat) (x : Core) : (s.setCore n x).tlb2 = s.tlb2 := rfl
@[simp] theorem State.setCore_engines (s : State) (n : Nat) (x : Core) : (s.setCore n x).engines = s.engines := rfl
@[simp] theorem State.setCore_pools (s : State) (n : Nat) (x : Core) : (s.setCore n x).pools = s.pools := rfl
@[simp] theorem State.setCore_ctxs (s : State) (n : Nat) (x : Core) : (s.setCore n x).ctxs = s.ctxs := rfl
@[simp] theorem State.setCore_pins (s : State) (n : Nat) (x : Core) : (s.setCore n x).pins = s.pins := rfl
@[simp] theorem State.setCore_decants (s : State) (n : Nat) (x : Core) : (s.setCore n x).decants = s.decants := rfl
@[simp] theorem State.setCore_queues (s : State) (n : Nat) (x : Core) : (s.setCore n x).queues = s.queues := rfl
@[simp] theorem State.setCore_collSets (s : State) (n : Nat) (x : Core) : (s.setCore n x).collSets = s.collSets := rfl
@[simp] theorem State.setCore_regs (s : State) (n : Nat) (x : Core) : (s.setCore n x).regs = s.regs := rfl
@[simp] theorem State.setCore_cores (s : State) (n : Nat) (x : Core) : (s.setCore n x).cores = Map.put s.cores n x := rfl
@[simp] theorem State.setCore_tiles (s : State) (n : Nat) (x : Core) : (s.setCore n x).tiles = s.tiles := rfl
@[simp] theorem State.setCore_columns (s : State) (n : Nat) (x : Core) : (s.setCore n x).columns = s.columns := rfl
@[simp] theorem State.setCore_budgets (s : State) (n : Nat) (x : Core) : (s.setCore n x).budgets = s.budgets := rfl
@[simp] theorem State.setCore_links (s : State) (n : Nat) (x : Core) : (s.setCore n x).links = s.links := rfl
@[simp] theorem State.setCore_clusters (s : State) (n : Nat) (x : Core) : (s.setCore n x).clusters = s.clusters := rfl
@[simp] theorem State.setCore_ctrls (s : State) (n : Nat) (x : Core) : (s.setCore n x).ctrls = s.ctrls := rfl
@[simp] theorem State.setCore_hostLog (s : State) (n : Nat) (x : Core) : (s.setCore n x).hostLog = s.hostLog := rfl
@[simp] theorem State.setCore_msix (s : State) (n : Nat) (x : Core) : (s.setCore n x).msix = s.msix := rfl

@[simp] theorem State.setTile_agenda (s : State) (t : Nat) (x : Tile) : (s.setTile t x).agenda = s.agenda := rfl
@[simp] theorem State.setTile_cur (s : State) (t : Nat) (x : Tile) : (s.setTile t x).cur = s.cur := rfl
@[simp] theorem State.setTile_fresh (s : State) (t : Nat) (x : Tile) : (s.setTile t x).fresh = s.fresh := rfl
@[simp] theorem State.setTile_clk (s : State) (t : Nat) (x : Tile) : (s.setTile t x).clk = s.clk := rfl
@[simp] theorem State.setTile_seq (s : State) (t : Nat) (x : Tile) : (s.setTile t x).seq = s.seq := rfl
@[simp] theorem State.setTile_nextId (s : State) (t : Nat) (x : Tile) : (s.setTile t x).nextId = s.nextId := rfl
@[simp] theorem State.setTile_groups (s : State) (t : Nat) (x : Tile) : (s.setTile t x).groups = s.groups := rfl
@[simp] theorem State.setTile_blocks (s : State) (t : Nat) (x : Tile) : (s.setTile t x).blocks = s.blocks := rfl
@[simp] theorem State.setTile_launches (s : State) (t : Nat) (x : Tile) : (s.setTile t x).launches = s.launches := rfl
@[simp] theorem State.setTile_mem (s : State) (t : Nat) (x : Tile) : (s.setTile t x).mem = s.mem := rfl
@[simp] theorem State.setTile_spad (s : State) (t : Nat) (x : Tile) : (s.setTile t x).spad = s.spad := rfl
@[simp] theorem State.setTile_tspad (s : State) (t : Nat) (x : Tile) : (s.setTile t x).tspad = s.tspad := rfl
@[simp] theorem State.setTile_poison (s : State) (t : Nat) (x : Tile) : (s.setTile t x).poison = s.poison := rfl
@[simp] theorem State.setTile_iq (s : State) (t : Nat) (x : Tile) : (s.setTile t x).iq = s.iq := rfl
@[simp] theorem State.setTile_sq (s : State) (t : Nat) (x : Tile) : (s.setTile t x).sq = s.sq := rfl
@[simp] theorem State.setTile_clv (s : State) (t : Nat) (x : Tile) : (s.setTile t x).clv = s.clv := rfl
@[simp] theorem State.setTile_cbuf (s : State) (t : Nat) (x : Tile) : (s.setTile t x).cbuf = s.cbuf := rfl
@[simp] theorem State.setTile_parts (s : State) (t : Nat) (x : Tile) : (s.setTile t x).parts = s.parts := rfl
@[simp] theorem State.setTile_added (s : State) (t : Nat) (x : Tile) : (s.setTile t x).added = s.added := rfl
@[simp] theorem State.setTile_l1 (s : State) (t : Nat) (x : Tile) : (s.setTile t x).l1 = s.l1 := rfl
@[simp] theorem State.setTile_guests (s : State) (t : Nat) (x : Tile) : (s.setTile t x).guests = s.guests := rfl
@[simp] theorem State.setTile_ver (s : State) (t : Nat) (x : Tile) : (s.setTile t x).ver = s.ver := rfl
@[simp] theorem State.setTile_co (s : State) (t : Nat) (x : Tile) : (s.setTile t x).co = s.co := rfl
@[simp] theorem State.setTile_icache (s : State) (t : Nat) (x : Tile) : (s.setTile t x).icache = s.icache := rfl
@[simp] theorem State.setTile_tlb1 (s : State) (t : Nat) (x : Tile) : (s.setTile t x).tlb1 = s.tlb1 := rfl
@[simp] theorem State.setTile_tlb2 (s : State) (t : Nat) (x : Tile) : (s.setTile t x).tlb2 = s.tlb2 := rfl
@[simp] theorem State.setTile_engines (s : State) (t : Nat) (x : Tile) : (s.setTile t x).engines = s.engines := rfl
@[simp] theorem State.setTile_pools (s : State) (t : Nat) (x : Tile) : (s.setTile t x).pools = s.pools := rfl
@[simp] theorem State.setTile_ctxs (s : State) (t : Nat) (x : Tile) : (s.setTile t x).ctxs = s.ctxs := rfl
@[simp] theorem State.setTile_pins (s : State) (t : Nat) (x : Tile) : (s.setTile t x).pins = s.pins := rfl
@[simp] theorem State.setTile_decants (s : State) (t : Nat) (x : Tile) : (s.setTile t x).decants = s.decants := rfl
@[simp] theorem State.setTile_queues (s : State) (t : Nat) (x : Tile) : (s.setTile t x).queues = s.queues := rfl
@[simp] theorem State.setTile_collSets (s : State) (t : Nat) (x : Tile) : (s.setTile t x).collSets = s.collSets := rfl
@[simp] theorem State.setTile_regs (s : State) (t : Nat) (x : Tile) : (s.setTile t x).regs = s.regs := rfl
@[simp] theorem State.setTile_cores (s : State) (t : Nat) (x : Tile) : (s.setTile t x).cores = s.cores := rfl
@[simp] theorem State.setTile_tiles (s : State) (t : Nat) (x : Tile) : (s.setTile t x).tiles = Map.put s.tiles t x := rfl
@[simp] theorem State.setTile_columns (s : State) (t : Nat) (x : Tile) : (s.setTile t x).columns = s.columns := rfl
@[simp] theorem State.setTile_budgets (s : State) (t : Nat) (x : Tile) : (s.setTile t x).budgets = s.budgets := rfl
@[simp] theorem State.setTile_links (s : State) (t : Nat) (x : Tile) : (s.setTile t x).links = s.links := rfl
@[simp] theorem State.setTile_clusters (s : State) (t : Nat) (x : Tile) : (s.setTile t x).clusters = s.clusters := rfl
@[simp] theorem State.setTile_ctrls (s : State) (t : Nat) (x : Tile) : (s.setTile t x).ctrls = s.ctrls := rfl
@[simp] theorem State.setTile_hostLog (s : State) (t : Nat) (x : Tile) : (s.setTile t x).hostLog = s.hostLog := rfl
@[simp] theorem State.setTile_msix (s : State) (t : Nat) (x : Tile) : (s.setTile t x).msix = s.msix := rfl

@[simp] theorem State.setCtx_agenda (s : State) (n : Nat) (x : Ctx) : (s.setCtx n x).agenda = s.agenda := rfl
@[simp] theorem State.setCtx_cur (s : State) (n : Nat) (x : Ctx) : (s.setCtx n x).cur = s.cur := rfl
@[simp] theorem State.setCtx_fresh (s : State) (n : Nat) (x : Ctx) : (s.setCtx n x).fresh = s.fresh := rfl
@[simp] theorem State.setCtx_clk (s : State) (n : Nat) (x : Ctx) : (s.setCtx n x).clk = s.clk := rfl
@[simp] theorem State.setCtx_seq (s : State) (n : Nat) (x : Ctx) : (s.setCtx n x).seq = s.seq := rfl
@[simp] theorem State.setCtx_nextId (s : State) (n : Nat) (x : Ctx) : (s.setCtx n x).nextId = s.nextId := rfl
@[simp] theorem State.setCtx_groups (s : State) (n : Nat) (x : Ctx) : (s.setCtx n x).groups = s.groups := rfl
@[simp] theorem State.setCtx_blocks (s : State) (n : Nat) (x : Ctx) : (s.setCtx n x).blocks = s.blocks := rfl
@[simp] theorem State.setCtx_launches (s : State) (n : Nat) (x : Ctx) : (s.setCtx n x).launches = s.launches := rfl
@[simp] theorem State.setCtx_mem (s : State) (n : Nat) (x : Ctx) : (s.setCtx n x).mem = s.mem := rfl
@[simp] theorem State.setCtx_spad (s : State) (n : Nat) (x : Ctx) : (s.setCtx n x).spad = s.spad := rfl
@[simp] theorem State.setCtx_tspad (s : State) (n : Nat) (x : Ctx) : (s.setCtx n x).tspad = s.tspad := rfl
@[simp] theorem State.setCtx_poison (s : State) (n : Nat) (x : Ctx) : (s.setCtx n x).poison = s.poison := rfl
@[simp] theorem State.setCtx_iq (s : State) (n : Nat) (x : Ctx) : (s.setCtx n x).iq = s.iq := rfl
@[simp] theorem State.setCtx_sq (s : State) (n : Nat) (x : Ctx) : (s.setCtx n x).sq = s.sq := rfl
@[simp] theorem State.setCtx_clv (s : State) (n : Nat) (x : Ctx) : (s.setCtx n x).clv = s.clv := rfl
@[simp] theorem State.setCtx_cbuf (s : State) (n : Nat) (x : Ctx) : (s.setCtx n x).cbuf = s.cbuf := rfl
@[simp] theorem State.setCtx_parts (s : State) (n : Nat) (x : Ctx) : (s.setCtx n x).parts = s.parts := rfl
@[simp] theorem State.setCtx_added (s : State) (n : Nat) (x : Ctx) : (s.setCtx n x).added = s.added := rfl
@[simp] theorem State.setCtx_l1 (s : State) (n : Nat) (x : Ctx) : (s.setCtx n x).l1 = s.l1 := rfl
@[simp] theorem State.setCtx_guests (s : State) (n : Nat) (x : Ctx) : (s.setCtx n x).guests = s.guests := rfl
@[simp] theorem State.setCtx_ver (s : State) (n : Nat) (x : Ctx) : (s.setCtx n x).ver = s.ver := rfl
@[simp] theorem State.setCtx_co (s : State) (n : Nat) (x : Ctx) : (s.setCtx n x).co = s.co := rfl
@[simp] theorem State.setCtx_icache (s : State) (n : Nat) (x : Ctx) : (s.setCtx n x).icache = s.icache := rfl
@[simp] theorem State.setCtx_tlb1 (s : State) (n : Nat) (x : Ctx) : (s.setCtx n x).tlb1 = s.tlb1 := rfl
@[simp] theorem State.setCtx_tlb2 (s : State) (n : Nat) (x : Ctx) : (s.setCtx n x).tlb2 = s.tlb2 := rfl
@[simp] theorem State.setCtx_engines (s : State) (n : Nat) (x : Ctx) : (s.setCtx n x).engines = s.engines := rfl
@[simp] theorem State.setCtx_pools (s : State) (n : Nat) (x : Ctx) : (s.setCtx n x).pools = s.pools := rfl
@[simp] theorem State.setCtx_ctxs (s : State) (n : Nat) (x : Ctx) : (s.setCtx n x).ctxs = Map.put s.ctxs n x := rfl
@[simp] theorem State.setCtx_pins (s : State) (n : Nat) (x : Ctx) : (s.setCtx n x).pins = s.pins := rfl
@[simp] theorem State.setCtx_decants (s : State) (n : Nat) (x : Ctx) : (s.setCtx n x).decants = s.decants := rfl
@[simp] theorem State.setCtx_queues (s : State) (n : Nat) (x : Ctx) : (s.setCtx n x).queues = s.queues := rfl
@[simp] theorem State.setCtx_collSets (s : State) (n : Nat) (x : Ctx) : (s.setCtx n x).collSets = s.collSets := rfl
@[simp] theorem State.setCtx_regs (s : State) (n : Nat) (x : Ctx) : (s.setCtx n x).regs = s.regs := rfl
@[simp] theorem State.setCtx_cores (s : State) (n : Nat) (x : Ctx) : (s.setCtx n x).cores = s.cores := rfl
@[simp] theorem State.setCtx_tiles (s : State) (n : Nat) (x : Ctx) : (s.setCtx n x).tiles = s.tiles := rfl
@[simp] theorem State.setCtx_columns (s : State) (n : Nat) (x : Ctx) : (s.setCtx n x).columns = s.columns := rfl
@[simp] theorem State.setCtx_budgets (s : State) (n : Nat) (x : Ctx) : (s.setCtx n x).budgets = s.budgets := rfl
@[simp] theorem State.setCtx_links (s : State) (n : Nat) (x : Ctx) : (s.setCtx n x).links = s.links := rfl
@[simp] theorem State.setCtx_clusters (s : State) (n : Nat) (x : Ctx) : (s.setCtx n x).clusters = s.clusters := rfl
@[simp] theorem State.setCtx_ctrls (s : State) (n : Nat) (x : Ctx) : (s.setCtx n x).ctrls = s.ctrls := rfl
@[simp] theorem State.setCtx_hostLog (s : State) (n : Nat) (x : Ctx) : (s.setCtx n x).hostLog = s.hostLog := rfl
@[simp] theorem State.setCtx_msix (s : State) (n : Nat) (x : Ctx) : (s.setCtx n x).msix = s.msix := rfl

@[simp] theorem State.setQueue_agenda (s : State) (q : Nat) (x : Queue) : (s.setQueue q x).agenda = s.agenda := rfl
@[simp] theorem State.setQueue_cur (s : State) (q : Nat) (x : Queue) : (s.setQueue q x).cur = s.cur := rfl
@[simp] theorem State.setQueue_fresh (s : State) (q : Nat) (x : Queue) : (s.setQueue q x).fresh = s.fresh := rfl
@[simp] theorem State.setQueue_clk (s : State) (q : Nat) (x : Queue) : (s.setQueue q x).clk = s.clk := rfl
@[simp] theorem State.setQueue_seq (s : State) (q : Nat) (x : Queue) : (s.setQueue q x).seq = s.seq := rfl
@[simp] theorem State.setQueue_nextId (s : State) (q : Nat) (x : Queue) : (s.setQueue q x).nextId = s.nextId := rfl
@[simp] theorem State.setQueue_groups (s : State) (q : Nat) (x : Queue) : (s.setQueue q x).groups = s.groups := rfl
@[simp] theorem State.setQueue_blocks (s : State) (q : Nat) (x : Queue) : (s.setQueue q x).blocks = s.blocks := rfl
@[simp] theorem State.setQueue_launches (s : State) (q : Nat) (x : Queue) : (s.setQueue q x).launches = s.launches := rfl
@[simp] theorem State.setQueue_mem (s : State) (q : Nat) (x : Queue) : (s.setQueue q x).mem = s.mem := rfl
@[simp] theorem State.setQueue_spad (s : State) (q : Nat) (x : Queue) : (s.setQueue q x).spad = s.spad := rfl
@[simp] theorem State.setQueue_tspad (s : State) (q : Nat) (x : Queue) : (s.setQueue q x).tspad = s.tspad := rfl
@[simp] theorem State.setQueue_poison (s : State) (q : Nat) (x : Queue) : (s.setQueue q x).poison = s.poison := rfl
@[simp] theorem State.setQueue_iq (s : State) (q : Nat) (x : Queue) : (s.setQueue q x).iq = s.iq := rfl
@[simp] theorem State.setQueue_sq (s : State) (q : Nat) (x : Queue) : (s.setQueue q x).sq = s.sq := rfl
@[simp] theorem State.setQueue_clv (s : State) (q : Nat) (x : Queue) : (s.setQueue q x).clv = s.clv := rfl
@[simp] theorem State.setQueue_cbuf (s : State) (q : Nat) (x : Queue) : (s.setQueue q x).cbuf = s.cbuf := rfl
@[simp] theorem State.setQueue_parts (s : State) (q : Nat) (x : Queue) : (s.setQueue q x).parts = s.parts := rfl
@[simp] theorem State.setQueue_added (s : State) (q : Nat) (x : Queue) : (s.setQueue q x).added = s.added := rfl
@[simp] theorem State.setQueue_l1 (s : State) (q : Nat) (x : Queue) : (s.setQueue q x).l1 = s.l1 := rfl
@[simp] theorem State.setQueue_guests (s : State) (q : Nat) (x : Queue) : (s.setQueue q x).guests = s.guests := rfl
@[simp] theorem State.setQueue_ver (s : State) (q : Nat) (x : Queue) : (s.setQueue q x).ver = s.ver := rfl
@[simp] theorem State.setQueue_co (s : State) (q : Nat) (x : Queue) : (s.setQueue q x).co = s.co := rfl
@[simp] theorem State.setQueue_icache (s : State) (q : Nat) (x : Queue) : (s.setQueue q x).icache = s.icache := rfl
@[simp] theorem State.setQueue_tlb1 (s : State) (q : Nat) (x : Queue) : (s.setQueue q x).tlb1 = s.tlb1 := rfl
@[simp] theorem State.setQueue_tlb2 (s : State) (q : Nat) (x : Queue) : (s.setQueue q x).tlb2 = s.tlb2 := rfl
@[simp] theorem State.setQueue_engines (s : State) (q : Nat) (x : Queue) : (s.setQueue q x).engines = s.engines := rfl
@[simp] theorem State.setQueue_pools (s : State) (q : Nat) (x : Queue) : (s.setQueue q x).pools = s.pools := rfl
@[simp] theorem State.setQueue_ctxs (s : State) (q : Nat) (x : Queue) : (s.setQueue q x).ctxs = s.ctxs := rfl
@[simp] theorem State.setQueue_pins (s : State) (q : Nat) (x : Queue) : (s.setQueue q x).pins = s.pins := rfl
@[simp] theorem State.setQueue_decants (s : State) (q : Nat) (x : Queue) : (s.setQueue q x).decants = s.decants := rfl
@[simp] theorem State.setQueue_queues (s : State) (q : Nat) (x : Queue) : (s.setQueue q x).queues = Map.put s.queues q x := rfl
@[simp] theorem State.setQueue_collSets (s : State) (q : Nat) (x : Queue) : (s.setQueue q x).collSets = s.collSets := rfl
@[simp] theorem State.setQueue_regs (s : State) (q : Nat) (x : Queue) : (s.setQueue q x).regs = s.regs := rfl
@[simp] theorem State.setQueue_cores (s : State) (q : Nat) (x : Queue) : (s.setQueue q x).cores = s.cores := rfl
@[simp] theorem State.setQueue_tiles (s : State) (q : Nat) (x : Queue) : (s.setQueue q x).tiles = s.tiles := rfl
@[simp] theorem State.setQueue_columns (s : State) (q : Nat) (x : Queue) : (s.setQueue q x).columns = s.columns := rfl
@[simp] theorem State.setQueue_budgets (s : State) (q : Nat) (x : Queue) : (s.setQueue q x).budgets = s.budgets := rfl
@[simp] theorem State.setQueue_links (s : State) (q : Nat) (x : Queue) : (s.setQueue q x).links = s.links := rfl
@[simp] theorem State.setQueue_clusters (s : State) (q : Nat) (x : Queue) : (s.setQueue q x).clusters = s.clusters := rfl
@[simp] theorem State.setQueue_ctrls (s : State) (q : Nat) (x : Queue) : (s.setQueue q x).ctrls = s.ctrls := rfl
@[simp] theorem State.setQueue_hostLog (s : State) (q : Nat) (x : Queue) : (s.setQueue q x).hostLog = s.hostLog := rfl
@[simp] theorem State.setQueue_msix (s : State) (q : Nat) (x : Queue) : (s.setQueue q x).msix = s.msix := rfl

@[simp] theorem State.setRegs_agenda (s : State) (f : Regs → Regs) : (s.setRegs f).agenda = s.agenda := rfl
@[simp] theorem State.setRegs_cur (s : State) (f : Regs → Regs) : (s.setRegs f).cur = s.cur := rfl
@[simp] theorem State.setRegs_fresh (s : State) (f : Regs → Regs) : (s.setRegs f).fresh = s.fresh := rfl
@[simp] theorem State.setRegs_clk (s : State) (f : Regs → Regs) : (s.setRegs f).clk = s.clk := rfl
@[simp] theorem State.setRegs_seq (s : State) (f : Regs → Regs) : (s.setRegs f).seq = s.seq := rfl
@[simp] theorem State.setRegs_nextId (s : State) (f : Regs → Regs) : (s.setRegs f).nextId = s.nextId := rfl
@[simp] theorem State.setRegs_groups (s : State) (f : Regs → Regs) : (s.setRegs f).groups = s.groups := rfl
@[simp] theorem State.setRegs_blocks (s : State) (f : Regs → Regs) : (s.setRegs f).blocks = s.blocks := rfl
@[simp] theorem State.setRegs_launches (s : State) (f : Regs → Regs) : (s.setRegs f).launches = s.launches := rfl
@[simp] theorem State.setRegs_mem (s : State) (f : Regs → Regs) : (s.setRegs f).mem = s.mem := rfl
@[simp] theorem State.setRegs_spad (s : State) (f : Regs → Regs) : (s.setRegs f).spad = s.spad := rfl
@[simp] theorem State.setRegs_tspad (s : State) (f : Regs → Regs) : (s.setRegs f).tspad = s.tspad := rfl
@[simp] theorem State.setRegs_poison (s : State) (f : Regs → Regs) : (s.setRegs f).poison = s.poison := rfl
@[simp] theorem State.setRegs_iq (s : State) (f : Regs → Regs) : (s.setRegs f).iq = s.iq := rfl
@[simp] theorem State.setRegs_sq (s : State) (f : Regs → Regs) : (s.setRegs f).sq = s.sq := rfl
@[simp] theorem State.setRegs_clv (s : State) (f : Regs → Regs) : (s.setRegs f).clv = s.clv := rfl
@[simp] theorem State.setRegs_cbuf (s : State) (f : Regs → Regs) : (s.setRegs f).cbuf = s.cbuf := rfl
@[simp] theorem State.setRegs_parts (s : State) (f : Regs → Regs) : (s.setRegs f).parts = s.parts := rfl
@[simp] theorem State.setRegs_added (s : State) (f : Regs → Regs) : (s.setRegs f).added = s.added := rfl
@[simp] theorem State.setRegs_l1 (s : State) (f : Regs → Regs) : (s.setRegs f).l1 = s.l1 := rfl
@[simp] theorem State.setRegs_guests (s : State) (f : Regs → Regs) : (s.setRegs f).guests = s.guests := rfl
@[simp] theorem State.setRegs_ver (s : State) (f : Regs → Regs) : (s.setRegs f).ver = s.ver := rfl
@[simp] theorem State.setRegs_co (s : State) (f : Regs → Regs) : (s.setRegs f).co = s.co := rfl
@[simp] theorem State.setRegs_icache (s : State) (f : Regs → Regs) : (s.setRegs f).icache = s.icache := rfl
@[simp] theorem State.setRegs_tlb1 (s : State) (f : Regs → Regs) : (s.setRegs f).tlb1 = s.tlb1 := rfl
@[simp] theorem State.setRegs_tlb2 (s : State) (f : Regs → Regs) : (s.setRegs f).tlb2 = s.tlb2 := rfl
@[simp] theorem State.setRegs_engines (s : State) (f : Regs → Regs) : (s.setRegs f).engines = s.engines := rfl
@[simp] theorem State.setRegs_pools (s : State) (f : Regs → Regs) : (s.setRegs f).pools = s.pools := rfl
@[simp] theorem State.setRegs_ctxs (s : State) (f : Regs → Regs) : (s.setRegs f).ctxs = s.ctxs := rfl
@[simp] theorem State.setRegs_pins (s : State) (f : Regs → Regs) : (s.setRegs f).pins = s.pins := rfl
@[simp] theorem State.setRegs_decants (s : State) (f : Regs → Regs) : (s.setRegs f).decants = s.decants := rfl
@[simp] theorem State.setRegs_queues (s : State) (f : Regs → Regs) : (s.setRegs f).queues = s.queues := rfl
@[simp] theorem State.setRegs_collSets (s : State) (f : Regs → Regs) : (s.setRegs f).collSets = s.collSets := rfl
@[simp] theorem State.setRegs_regs (s : State) (f : Regs → Regs) : (s.setRegs f).regs = f s.regs := rfl
@[simp] theorem State.setRegs_cores (s : State) (f : Regs → Regs) : (s.setRegs f).cores = s.cores := rfl
@[simp] theorem State.setRegs_tiles (s : State) (f : Regs → Regs) : (s.setRegs f).tiles = s.tiles := rfl
@[simp] theorem State.setRegs_columns (s : State) (f : Regs → Regs) : (s.setRegs f).columns = s.columns := rfl
@[simp] theorem State.setRegs_budgets (s : State) (f : Regs → Regs) : (s.setRegs f).budgets = s.budgets := rfl
@[simp] theorem State.setRegs_links (s : State) (f : Regs → Regs) : (s.setRegs f).links = s.links := rfl
@[simp] theorem State.setRegs_clusters (s : State) (f : Regs → Regs) : (s.setRegs f).clusters = s.clusters := rfl
@[simp] theorem State.setRegs_ctrls (s : State) (f : Regs → Regs) : (s.setRegs f).ctrls = s.ctrls := rfl
@[simp] theorem State.setRegs_hostLog (s : State) (f : Regs → Regs) : (s.setRegs f).hostLog = s.hostLog := rfl
@[simp] theorem State.setRegs_msix (s : State) (f : Regs → Regs) : (s.setRegs f).msix = s.msix := rfl

@[simp] theorem State.takeIds_agenda (s : State) (n : Nat) : (s.takeIds n).agenda = s.agenda := rfl
@[simp] theorem State.takeIds_cur (s : State) (n : Nat) : (s.takeIds n).cur = s.cur := rfl
@[simp] theorem State.takeIds_fresh (s : State) (n : Nat) : (s.takeIds n).fresh = s.fresh := rfl
@[simp] theorem State.takeIds_clk (s : State) (n : Nat) : (s.takeIds n).clk = s.clk := rfl
@[simp] theorem State.takeIds_seq (s : State) (n : Nat) : (s.takeIds n).seq = s.seq := rfl
@[simp] theorem State.takeIds_nextId (s : State) (n : Nat) : (s.takeIds n).nextId = s.nextId + n := rfl
@[simp] theorem State.takeIds_groups (s : State) (n : Nat) : (s.takeIds n).groups = s.groups := rfl
@[simp] theorem State.takeIds_blocks (s : State) (n : Nat) : (s.takeIds n).blocks = s.blocks := rfl
@[simp] theorem State.takeIds_launches (s : State) (n : Nat) : (s.takeIds n).launches = s.launches := rfl
@[simp] theorem State.takeIds_mem (s : State) (n : Nat) : (s.takeIds n).mem = s.mem := rfl
@[simp] theorem State.takeIds_spad (s : State) (n : Nat) : (s.takeIds n).spad = s.spad := rfl
@[simp] theorem State.takeIds_tspad (s : State) (n : Nat) : (s.takeIds n).tspad = s.tspad := rfl
@[simp] theorem State.takeIds_poison (s : State) (n : Nat) : (s.takeIds n).poison = s.poison := rfl
@[simp] theorem State.takeIds_iq (s : State) (n : Nat) : (s.takeIds n).iq = s.iq := rfl
@[simp] theorem State.takeIds_sq (s : State) (n : Nat) : (s.takeIds n).sq = s.sq := rfl
@[simp] theorem State.takeIds_clv (s : State) (n : Nat) : (s.takeIds n).clv = s.clv := rfl
@[simp] theorem State.takeIds_cbuf (s : State) (n : Nat) : (s.takeIds n).cbuf = s.cbuf := rfl
@[simp] theorem State.takeIds_parts (s : State) (n : Nat) : (s.takeIds n).parts = s.parts := rfl
@[simp] theorem State.takeIds_added (s : State) (n : Nat) : (s.takeIds n).added = s.added := rfl
@[simp] theorem State.takeIds_l1 (s : State) (n : Nat) : (s.takeIds n).l1 = s.l1 := rfl
@[simp] theorem State.takeIds_guests (s : State) (n : Nat) : (s.takeIds n).guests = s.guests := rfl
@[simp] theorem State.takeIds_ver (s : State) (n : Nat) : (s.takeIds n).ver = s.ver := rfl
@[simp] theorem State.takeIds_co (s : State) (n : Nat) : (s.takeIds n).co = s.co := rfl
@[simp] theorem State.takeIds_icache (s : State) (n : Nat) : (s.takeIds n).icache = s.icache := rfl
@[simp] theorem State.takeIds_tlb1 (s : State) (n : Nat) : (s.takeIds n).tlb1 = s.tlb1 := rfl
@[simp] theorem State.takeIds_tlb2 (s : State) (n : Nat) : (s.takeIds n).tlb2 = s.tlb2 := rfl
@[simp] theorem State.takeIds_engines (s : State) (n : Nat) : (s.takeIds n).engines = s.engines := rfl
@[simp] theorem State.takeIds_pools (s : State) (n : Nat) : (s.takeIds n).pools = s.pools := rfl
@[simp] theorem State.takeIds_ctxs (s : State) (n : Nat) : (s.takeIds n).ctxs = s.ctxs := rfl
@[simp] theorem State.takeIds_pins (s : State) (n : Nat) : (s.takeIds n).pins = s.pins := rfl
@[simp] theorem State.takeIds_decants (s : State) (n : Nat) : (s.takeIds n).decants = s.decants := rfl
@[simp] theorem State.takeIds_queues (s : State) (n : Nat) : (s.takeIds n).queues = s.queues := rfl
@[simp] theorem State.takeIds_collSets (s : State) (n : Nat) : (s.takeIds n).collSets = s.collSets := rfl
@[simp] theorem State.takeIds_regs (s : State) (n : Nat) : (s.takeIds n).regs = s.regs := rfl
@[simp] theorem State.takeIds_cores (s : State) (n : Nat) : (s.takeIds n).cores = s.cores := rfl
@[simp] theorem State.takeIds_tiles (s : State) (n : Nat) : (s.takeIds n).tiles = s.tiles := rfl
@[simp] theorem State.takeIds_columns (s : State) (n : Nat) : (s.takeIds n).columns = s.columns := rfl
@[simp] theorem State.takeIds_budgets (s : State) (n : Nat) : (s.takeIds n).budgets = s.budgets := rfl
@[simp] theorem State.takeIds_links (s : State) (n : Nat) : (s.takeIds n).links = s.links := rfl
@[simp] theorem State.takeIds_clusters (s : State) (n : Nat) : (s.takeIds n).clusters = s.clusters := rfl
@[simp] theorem State.takeIds_ctrls (s : State) (n : Nat) : (s.takeIds n).ctrls = s.ctrls := rfl
@[simp] theorem State.takeIds_hostLog (s : State) (n : Nat) : (s.takeIds n).hostLog = s.hostLog := rfl
@[simp] theorem State.takeIds_msix (s : State) (n : Nat) : (s.takeIds n).msix = s.msix := rfl

@[simp] theorem Group.vPut_sector (g : Group) (r : Nat) (w : Nat → Option Word) : (g.vPut r w).sector = g.sector := rfl
@[simp] theorem Group.vPut_slot (g : Group) (r : Nat) (w : Nat → Option Word) : (g.vPut r w).slot = g.slot := rfl
@[simp] theorem Group.vPut_lanes (g : Group) (r : Nat) (w : Nat → Option Word) : (g.vPut r w).lanes = g.lanes := rfl
@[simp] theorem Group.vPut_helpers (g : Group) (r : Nat) (w : Nat → Option Word) : (g.vPut r w).helpers = g.helpers := rfl
@[simp] theorem Group.vPut_s (g : Group) (r : Nat) (w : Nat → Option Word) : (g.vPut r w).s = g.s := rfl
@[simp] theorem Group.vPut_k (g : Group) (r : Nat) (w : Nat → Option Word) : (g.vPut r w).k = g.k := rfl
@[simp] theorem Group.vPut_tiles (g : Group) (r : Nat) (w : Nat → Option Word) : (g.vPut r w).tiles = g.tiles := rfl
@[simp] theorem Group.vPut_icnt (g : Group) (r : Nat) (w : Nat → Option Word) : (g.vPut r w).icnt = g.icnt := rfl
@[simp] theorem Group.vPut_fl (g : Group) (r : Nat) (w : Nat → Option Word) : (g.vPut r w).fl = g.fl := rfl
@[simp] theorem Group.vPut_drm (g : Group) (r : Nat) (w : Nat → Option Word) : (g.vPut r w).drm = g.drm := rfl
@[simp] theorem Group.vPut_fpe (g : Group) (r : Nat) (w : Nat → Option Word) : (g.vPut r w).fpe = g.fpe := rfl
@[simp] theorem Group.vPut_lastb (g : Group) (r : Nat) (w : Nat → Option Word) : (g.vPut r w).lastb = g.lastb := rfl
@[simp] theorem Group.vPut_openSet (g : Group) (r : Nat) (w : Nat → Option Word) : (g.vPut r w).openSet = g.openSet := rfl
@[simp] theorem Group.vPut_batches (g : Group) (r : Nat) (w : Nat → Option Word) : (g.vPut r w).batches = g.batches := rfl
@[simp] theorem Group.vPut_table (g : Group) (r : Nat) (w : Nat → Option Word) : (g.vPut r w).table = g.table := rfl
@[simp] theorem Group.vPut_defer (g : Group) (r : Nat) (w : Nat → Option Word) : (g.vPut r w).defer = g.defer := rfl
@[simp] theorem Group.vPut_trap (g : Group) (r : Nat) (w : Nat → Option Word) : (g.vPut r w).trap = g.trap := rfl
@[simp] theorem Group.vPut_barArr (g : Group) (r : Nat) (w : Nat → Option Word) : (g.vPut r w).barArr = g.barArr := rfl
@[simp] theorem Group.vPut_barWait (g : Group) (r : Nat) (w : Nat → Option Word) : (g.vPut r w).barWait = g.barWait := rfl
@[simp] theorem Group.vPut_clArr (g : Group) (r : Nat) (w : Nat → Option Word) : (g.vPut r w).clArr = g.clArr := rfl
@[simp] theorem Group.vPut_perf (g : Group) (r : Nat) (w : Nat → Option Word) : (g.vPut r w).perf = g.perf := rfl
@[simp] theorem Group.vPut_seen (g : Group) (r : Nat) (w : Nat → Option Word) : (g.vPut r w).seen = g.seen := rfl

@[simp] theorem Group.sPut_sector (g : Group) (n : Nat) (w : Word) : (g.sPut n w).sector = g.sector := rfl
@[simp] theorem Group.sPut_slot (g : Group) (n : Nat) (w : Word) : (g.sPut n w).slot = g.slot := rfl
@[simp] theorem Group.sPut_lanes (g : Group) (n : Nat) (w : Word) : (g.sPut n w).lanes = g.lanes := rfl
@[simp] theorem Group.sPut_helpers (g : Group) (n : Nat) (w : Word) : (g.sPut n w).helpers = g.helpers := rfl
@[simp] theorem Group.sPut_v (g : Group) (n : Nat) (w : Word) : (g.sPut n w).v = g.v := rfl
@[simp] theorem Group.sPut_s (g : Group) (n : Nat) (w : Word) : (g.sPut n w).s = Map.put g.s n w := rfl
@[simp] theorem Group.sPut_k (g : Group) (n : Nat) (w : Word) : (g.sPut n w).k = g.k := rfl
@[simp] theorem Group.sPut_tiles (g : Group) (n : Nat) (w : Word) : (g.sPut n w).tiles = g.tiles := rfl
@[simp] theorem Group.sPut_icnt (g : Group) (n : Nat) (w : Word) : (g.sPut n w).icnt = g.icnt := rfl
@[simp] theorem Group.sPut_fl (g : Group) (n : Nat) (w : Word) : (g.sPut n w).fl = g.fl := rfl
@[simp] theorem Group.sPut_drm (g : Group) (n : Nat) (w : Word) : (g.sPut n w).drm = g.drm := rfl
@[simp] theorem Group.sPut_fpe (g : Group) (n : Nat) (w : Word) : (g.sPut n w).fpe = g.fpe := rfl
@[simp] theorem Group.sPut_lastb (g : Group) (n : Nat) (w : Word) : (g.sPut n w).lastb = g.lastb := rfl
@[simp] theorem Group.sPut_openSet (g : Group) (n : Nat) (w : Word) : (g.sPut n w).openSet = g.openSet := rfl
@[simp] theorem Group.sPut_batches (g : Group) (n : Nat) (w : Word) : (g.sPut n w).batches = g.batches := rfl
@[simp] theorem Group.sPut_table (g : Group) (n : Nat) (w : Word) : (g.sPut n w).table = g.table := rfl
@[simp] theorem Group.sPut_defer (g : Group) (n : Nat) (w : Word) : (g.sPut n w).defer = g.defer := rfl
@[simp] theorem Group.sPut_trap (g : Group) (n : Nat) (w : Word) : (g.sPut n w).trap = g.trap := rfl
@[simp] theorem Group.sPut_barArr (g : Group) (n : Nat) (w : Word) : (g.sPut n w).barArr = g.barArr := rfl
@[simp] theorem Group.sPut_barWait (g : Group) (n : Nat) (w : Word) : (g.sPut n w).barWait = g.barWait := rfl
@[simp] theorem Group.sPut_clArr (g : Group) (n : Nat) (w : Word) : (g.sPut n w).clArr = g.clArr := rfl
@[simp] theorem Group.sPut_perf (g : Group) (n : Nat) (w : Word) : (g.sPut n w).perf = g.perf := rfl
@[simp] theorem Group.sPut_seen (g : Group) (n : Nat) (w : Word) : (g.sPut n w).seen = g.seen := rfl

@[simp] theorem Group.kPut_sector (g : Group) (n : Nat) (m : Mask) : (g.kPut n m).sector = g.sector := rfl
@[simp] theorem Group.kPut_slot (g : Group) (n : Nat) (m : Mask) : (g.kPut n m).slot = g.slot := rfl
@[simp] theorem Group.kPut_lanes (g : Group) (n : Nat) (m : Mask) : (g.kPut n m).lanes = g.lanes := rfl
@[simp] theorem Group.kPut_helpers (g : Group) (n : Nat) (m : Mask) : (g.kPut n m).helpers = g.helpers := rfl
@[simp] theorem Group.kPut_v (g : Group) (n : Nat) (m : Mask) : (g.kPut n m).v = g.v := rfl
@[simp] theorem Group.kPut_s (g : Group) (n : Nat) (m : Mask) : (g.kPut n m).s = g.s := rfl
@[simp] theorem Group.kPut_k (g : Group) (n : Nat) (m : Mask) : (g.kPut n m).k = Map.put g.k n m := rfl
@[simp] theorem Group.kPut_tiles (g : Group) (n : Nat) (m : Mask) : (g.kPut n m).tiles = g.tiles := rfl
@[simp] theorem Group.kPut_icnt (g : Group) (n : Nat) (m : Mask) : (g.kPut n m).icnt = g.icnt := rfl
@[simp] theorem Group.kPut_fl (g : Group) (n : Nat) (m : Mask) : (g.kPut n m).fl = g.fl := rfl
@[simp] theorem Group.kPut_drm (g : Group) (n : Nat) (m : Mask) : (g.kPut n m).drm = g.drm := rfl
@[simp] theorem Group.kPut_fpe (g : Group) (n : Nat) (m : Mask) : (g.kPut n m).fpe = g.fpe := rfl
@[simp] theorem Group.kPut_lastb (g : Group) (n : Nat) (m : Mask) : (g.kPut n m).lastb = g.lastb := rfl
@[simp] theorem Group.kPut_openSet (g : Group) (n : Nat) (m : Mask) : (g.kPut n m).openSet = g.openSet := rfl
@[simp] theorem Group.kPut_batches (g : Group) (n : Nat) (m : Mask) : (g.kPut n m).batches = g.batches := rfl
@[simp] theorem Group.kPut_table (g : Group) (n : Nat) (m : Mask) : (g.kPut n m).table = g.table := rfl
@[simp] theorem Group.kPut_defer (g : Group) (n : Nat) (m : Mask) : (g.kPut n m).defer = g.defer := rfl
@[simp] theorem Group.kPut_trap (g : Group) (n : Nat) (m : Mask) : (g.kPut n m).trap = g.trap := rfl
@[simp] theorem Group.kPut_barArr (g : Group) (n : Nat) (m : Mask) : (g.kPut n m).barArr = g.barArr := rfl
@[simp] theorem Group.kPut_barWait (g : Group) (n : Nat) (m : Mask) : (g.kPut n m).barWait = g.barWait := rfl
@[simp] theorem Group.kPut_clArr (g : Group) (n : Nat) (m : Mask) : (g.kPut n m).clArr = g.clArr := rfl
@[simp] theorem Group.kPut_perf (g : Group) (n : Nat) (m : Mask) : (g.kPut n m).perf = g.perf := rfl
@[simp] theorem Group.kPut_seen (g : Group) (n : Nat) (m : Mask) : (g.kPut n m).seen = g.seen := rfl

@[simp] theorem Group.setEntry_sector (g : Group) (e : Nat) (x : Entry) : (g.setEntry e x).sector = g.sector := rfl
@[simp] theorem Group.setEntry_slot (g : Group) (e : Nat) (x : Entry) : (g.setEntry e x).slot = g.slot := rfl
@[simp] theorem Group.setEntry_lanes (g : Group) (e : Nat) (x : Entry) : (g.setEntry e x).lanes = g.lanes := rfl
@[simp] theorem Group.setEntry_helpers (g : Group) (e : Nat) (x : Entry) : (g.setEntry e x).helpers = g.helpers := rfl
@[simp] theorem Group.setEntry_v (g : Group) (e : Nat) (x : Entry) : (g.setEntry e x).v = g.v := rfl
@[simp] theorem Group.setEntry_s (g : Group) (e : Nat) (x : Entry) : (g.setEntry e x).s = g.s := rfl
@[simp] theorem Group.setEntry_k (g : Group) (e : Nat) (x : Entry) : (g.setEntry e x).k = g.k := rfl
@[simp] theorem Group.setEntry_tiles (g : Group) (e : Nat) (x : Entry) : (g.setEntry e x).tiles = g.tiles := rfl
@[simp] theorem Group.setEntry_icnt (g : Group) (e : Nat) (x : Entry) : (g.setEntry e x).icnt = g.icnt := rfl
@[simp] theorem Group.setEntry_fl (g : Group) (e : Nat) (x : Entry) : (g.setEntry e x).fl = g.fl := rfl
@[simp] theorem Group.setEntry_drm (g : Group) (e : Nat) (x : Entry) : (g.setEntry e x).drm = g.drm := rfl
@[simp] theorem Group.setEntry_fpe (g : Group) (e : Nat) (x : Entry) : (g.setEntry e x).fpe = g.fpe := rfl
@[simp] theorem Group.setEntry_lastb (g : Group) (e : Nat) (x : Entry) : (g.setEntry e x).lastb = g.lastb := rfl
@[simp] theorem Group.setEntry_openSet (g : Group) (e : Nat) (x : Entry) : (g.setEntry e x).openSet = g.openSet := rfl
@[simp] theorem Group.setEntry_batches (g : Group) (e : Nat) (x : Entry) : (g.setEntry e x).batches = g.batches := rfl
@[simp] theorem Group.setEntry_table (g : Group) (e : Nat) (x : Entry) : (g.setEntry e x).table = Map.put g.table e x := rfl
@[simp] theorem Group.setEntry_defer (g : Group) (e : Nat) (x : Entry) : (g.setEntry e x).defer = g.defer := rfl
@[simp] theorem Group.setEntry_trap (g : Group) (e : Nat) (x : Entry) : (g.setEntry e x).trap = g.trap := rfl
@[simp] theorem Group.setEntry_barArr (g : Group) (e : Nat) (x : Entry) : (g.setEntry e x).barArr = g.barArr := rfl
@[simp] theorem Group.setEntry_barWait (g : Group) (e : Nat) (x : Entry) : (g.setEntry e x).barWait = g.barWait := rfl
@[simp] theorem Group.setEntry_clArr (g : Group) (e : Nat) (x : Entry) : (g.setEntry e x).clArr = g.clArr := rfl
@[simp] theorem Group.setEntry_perf (g : Group) (e : Nat) (x : Entry) : (g.setEntry e x).perf = g.perf := rfl
@[simp] theorem Group.setEntry_seen (g : Group) (e : Nat) (x : Entry) : (g.setEntry e x).seen = g.seen := rfl

@[simp] theorem Group.gone_sector (g : Group) (m : Mask) : (g.gone m).sector = g.sector := rfl
@[simp] theorem Group.gone_slot (g : Group) (m : Mask) : (g.gone m).slot = g.slot := rfl
@[simp] theorem Group.gone_lanes (g : Group) (m : Mask) : (g.gone m).lanes = g.lanes := rfl
@[simp] theorem Group.gone_helpers (g : Group) (m : Mask) : (g.gone m).helpers = g.helpers := rfl
@[simp] theorem Group.gone_v (g : Group) (m : Mask) : (g.gone m).v = g.v := rfl
@[simp] theorem Group.gone_s (g : Group) (m : Mask) : (g.gone m).s = g.s := rfl
@[simp] theorem Group.gone_k (g : Group) (m : Mask) : (g.gone m).k = g.k := rfl
@[simp] theorem Group.gone_tiles (g : Group) (m : Mask) : (g.gone m).tiles = g.tiles := rfl
@[simp] theorem Group.gone_icnt (g : Group) (m : Mask) : (g.gone m).icnt = g.icnt := rfl
@[simp] theorem Group.gone_fl (g : Group) (m : Mask) : (g.gone m).fl = g.fl := rfl
@[simp] theorem Group.gone_drm (g : Group) (m : Mask) : (g.gone m).drm = g.drm := rfl
@[simp] theorem Group.gone_fpe (g : Group) (m : Mask) : (g.gone m).fpe = g.fpe := rfl
@[simp] theorem Group.gone_lastb (g : Group) (m : Mask) : (g.gone m).lastb = g.lastb := rfl
@[simp] theorem Group.gone_openSet (g : Group) (m : Mask) : (g.gone m).openSet = g.openSet := rfl
@[simp] theorem Group.gone_batches (g : Group) (m : Mask) : (g.gone m).batches = g.batches := rfl
@[simp] theorem Group.gone_defer (g : Group) (m : Mask) : (g.gone m).defer = g.defer := rfl
@[simp] theorem Group.gone_trap (g : Group) (m : Mask) : (g.gone m).trap = g.trap := rfl
@[simp] theorem Group.gone_barArr (g : Group) (m : Mask) : (g.gone m).barArr = g.barArr := rfl
@[simp] theorem Group.gone_barWait (g : Group) (m : Mask) : (g.gone m).barWait = g.barWait := rfl
@[simp] theorem Group.gone_clArr (g : Group) (m : Mask) : (g.gone m).clArr = g.clArr := rfl
@[simp] theorem Group.gone_perf (g : Group) (m : Mask) : (g.gone m).perf = g.perf := rfl
@[simp] theorem Group.gone_seen (g : Group) (m : Mask) : (g.gone m).seen = g.seen := rfl

@[simp] theorem Group.setTop_sector (g : Group) (e : Nat) (d : Option Defer) : (g.setTop e d).sector = g.sector := rfl
@[simp] theorem Group.setTop_slot (g : Group) (e : Nat) (d : Option Defer) : (g.setTop e d).slot = g.slot := rfl
@[simp] theorem Group.setTop_lanes (g : Group) (e : Nat) (d : Option Defer) : (g.setTop e d).lanes = g.lanes := rfl
@[simp] theorem Group.setTop_helpers (g : Group) (e : Nat) (d : Option Defer) : (g.setTop e d).helpers = g.helpers := rfl
@[simp] theorem Group.setTop_v (g : Group) (e : Nat) (d : Option Defer) : (g.setTop e d).v = g.v := rfl
@[simp] theorem Group.setTop_s (g : Group) (e : Nat) (d : Option Defer) : (g.setTop e d).s = g.s := rfl
@[simp] theorem Group.setTop_k (g : Group) (e : Nat) (d : Option Defer) : (g.setTop e d).k = g.k := rfl
@[simp] theorem Group.setTop_tiles (g : Group) (e : Nat) (d : Option Defer) : (g.setTop e d).tiles = g.tiles := rfl
@[simp] theorem Group.setTop_icnt (g : Group) (e : Nat) (d : Option Defer) : (g.setTop e d).icnt = g.icnt := rfl
@[simp] theorem Group.setTop_fl (g : Group) (e : Nat) (d : Option Defer) : (g.setTop e d).fl = g.fl := rfl
@[simp] theorem Group.setTop_drm (g : Group) (e : Nat) (d : Option Defer) : (g.setTop e d).drm = g.drm := rfl
@[simp] theorem Group.setTop_fpe (g : Group) (e : Nat) (d : Option Defer) : (g.setTop e d).fpe = g.fpe := rfl
@[simp] theorem Group.setTop_lastb (g : Group) (e : Nat) (d : Option Defer) : (g.setTop e d).lastb = g.lastb := rfl
@[simp] theorem Group.setTop_openSet (g : Group) (e : Nat) (d : Option Defer) : (g.setTop e d).openSet = g.openSet := rfl
@[simp] theorem Group.setTop_batches (g : Group) (e : Nat) (d : Option Defer) : (g.setTop e d).batches = g.batches := rfl
@[simp] theorem Group.setTop_table (g : Group) (e : Nat) (d : Option Defer) : (g.setTop e d).table = g.table := rfl
@[simp] theorem Group.setTop_trap (g : Group) (e : Nat) (d : Option Defer) : (g.setTop e d).trap = g.trap := rfl
@[simp] theorem Group.setTop_barArr (g : Group) (e : Nat) (d : Option Defer) : (g.setTop e d).barArr = g.barArr := rfl
@[simp] theorem Group.setTop_barWait (g : Group) (e : Nat) (d : Option Defer) : (g.setTop e d).barWait = g.barWait := rfl
@[simp] theorem Group.setTop_clArr (g : Group) (e : Nat) (d : Option Defer) : (g.setTop e d).clArr = g.clArr := rfl
@[simp] theorem Group.setTop_perf (g : Group) (e : Nat) (d : Option Defer) : (g.setTop e d).perf = g.perf := rfl
@[simp] theorem Group.setTop_seen (g : Group) (e : Nat) (d : Option Defer) : (g.setTop e d).seen = g.seen := rfl

@[simp] theorem Group.tally_sector (g : Group) (n k : Nat) : (g.tally n k).sector = g.sector := rfl
@[simp] theorem Group.tally_slot (g : Group) (n k : Nat) : (g.tally n k).slot = g.slot := rfl
@[simp] theorem Group.tally_lanes (g : Group) (n k : Nat) : (g.tally n k).lanes = g.lanes := rfl
@[simp] theorem Group.tally_helpers (g : Group) (n k : Nat) : (g.tally n k).helpers = g.helpers := rfl
@[simp] theorem Group.tally_v (g : Group) (n k : Nat) : (g.tally n k).v = g.v := rfl
@[simp] theorem Group.tally_s (g : Group) (n k : Nat) : (g.tally n k).s = g.s := rfl
@[simp] theorem Group.tally_k (g : Group) (n k : Nat) : (g.tally n k).k = g.k := rfl
@[simp] theorem Group.tally_tiles (g : Group) (n k : Nat) : (g.tally n k).tiles = g.tiles := rfl
@[simp] theorem Group.tally_icnt (g : Group) (n k : Nat) : (g.tally n k).icnt = g.icnt := rfl
@[simp] theorem Group.tally_fl (g : Group) (n k : Nat) : (g.tally n k).fl = g.fl := rfl
@[simp] theorem Group.tally_drm (g : Group) (n k : Nat) : (g.tally n k).drm = g.drm := rfl
@[simp] theorem Group.tally_fpe (g : Group) (n k : Nat) : (g.tally n k).fpe = g.fpe := rfl
@[simp] theorem Group.tally_lastb (g : Group) (n k : Nat) : (g.tally n k).lastb = g.lastb := rfl
@[simp] theorem Group.tally_openSet (g : Group) (n k : Nat) : (g.tally n k).openSet = g.openSet := rfl
@[simp] theorem Group.tally_batches (g : Group) (n k : Nat) : (g.tally n k).batches = g.batches := rfl
@[simp] theorem Group.tally_table (g : Group) (n k : Nat) : (g.tally n k).table = g.table := rfl
@[simp] theorem Group.tally_defer (g : Group) (n k : Nat) : (g.tally n k).defer = g.defer := rfl
@[simp] theorem Group.tally_trap (g : Group) (n k : Nat) : (g.tally n k).trap = g.trap := rfl
@[simp] theorem Group.tally_barArr (g : Group) (n k : Nat) : (g.tally n k).barArr = g.barArr := rfl
@[simp] theorem Group.tally_barWait (g : Group) (n k : Nat) : (g.tally n k).barWait = g.barWait := rfl
@[simp] theorem Group.tally_clArr (g : Group) (n k : Nat) : (g.tally n k).clArr = g.clArr := rfl
@[simp] theorem Group.tally_seen (g : Group) (n k : Nat) : (g.tally n k).seen = g.seen := rfl

@[simp] theorem Group.count_sector (g : Group) (m : Mask) : (g.count m).sector = g.sector := rfl
@[simp] theorem Group.count_slot (g : Group) (m : Mask) : (g.count m).slot = g.slot := rfl
@[simp] theorem Group.count_lanes (g : Group) (m : Mask) : (g.count m).lanes = g.lanes := rfl
@[simp] theorem Group.count_helpers (g : Group) (m : Mask) : (g.count m).helpers = g.helpers := rfl
@[simp] theorem Group.count_v (g : Group) (m : Mask) : (g.count m).v = g.v := rfl
@[simp] theorem Group.count_s (g : Group) (m : Mask) : (g.count m).s = g.s := rfl
@[simp] theorem Group.count_k (g : Group) (m : Mask) : (g.count m).k = g.k := rfl
@[simp] theorem Group.count_tiles (g : Group) (m : Mask) : (g.count m).tiles = g.tiles := rfl
@[simp] theorem Group.count_fl (g : Group) (m : Mask) : (g.count m).fl = g.fl := rfl
@[simp] theorem Group.count_drm (g : Group) (m : Mask) : (g.count m).drm = g.drm := rfl
@[simp] theorem Group.count_fpe (g : Group) (m : Mask) : (g.count m).fpe = g.fpe := rfl
@[simp] theorem Group.count_lastb (g : Group) (m : Mask) : (g.count m).lastb = g.lastb := rfl
@[simp] theorem Group.count_openSet (g : Group) (m : Mask) : (g.count m).openSet = g.openSet := rfl
@[simp] theorem Group.count_batches (g : Group) (m : Mask) : (g.count m).batches = g.batches := rfl
@[simp] theorem Group.count_table (g : Group) (m : Mask) : (g.count m).table = g.table := rfl
@[simp] theorem Group.count_defer (g : Group) (m : Mask) : (g.count m).defer = g.defer := rfl
@[simp] theorem Group.count_trap (g : Group) (m : Mask) : (g.count m).trap = g.trap := rfl
@[simp] theorem Group.count_barArr (g : Group) (m : Mask) : (g.count m).barArr = g.barArr := rfl
@[simp] theorem Group.count_barWait (g : Group) (m : Mask) : (g.count m).barWait = g.barWait := rfl
@[simp] theorem Group.count_clArr (g : Group) (m : Mask) : (g.count m).clArr = g.clArr := rfl
@[simp] theorem Group.count_seen (g : Group) (m : Mask) : (g.count m).seen = g.seen := rfl

@[simp] theorem Group.tilePut_sector (g : Group) (n : Nat) (f : Nat → Option Word) : (g.tilePut n f).sector = g.sector := rfl
@[simp] theorem Group.tilePut_slot (g : Group) (n : Nat) (f : Nat → Option Word) : (g.tilePut n f).slot = g.slot := rfl
@[simp] theorem Group.tilePut_lanes (g : Group) (n : Nat) (f : Nat → Option Word) : (g.tilePut n f).lanes = g.lanes := rfl
@[simp] theorem Group.tilePut_helpers (g : Group) (n : Nat) (f : Nat → Option Word) : (g.tilePut n f).helpers = g.helpers := rfl
@[simp] theorem Group.tilePut_v (g : Group) (n : Nat) (f : Nat → Option Word) : (g.tilePut n f).v = g.v := rfl
@[simp] theorem Group.tilePut_s (g : Group) (n : Nat) (f : Nat → Option Word) : (g.tilePut n f).s = g.s := rfl
@[simp] theorem Group.tilePut_k (g : Group) (n : Nat) (f : Nat → Option Word) : (g.tilePut n f).k = g.k := rfl
@[simp] theorem Group.tilePut_icnt (g : Group) (n : Nat) (f : Nat → Option Word) : (g.tilePut n f).icnt = g.icnt := rfl
@[simp] theorem Group.tilePut_fl (g : Group) (n : Nat) (f : Nat → Option Word) : (g.tilePut n f).fl = g.fl := rfl
@[simp] theorem Group.tilePut_drm (g : Group) (n : Nat) (f : Nat → Option Word) : (g.tilePut n f).drm = g.drm := rfl
@[simp] theorem Group.tilePut_fpe (g : Group) (n : Nat) (f : Nat → Option Word) : (g.tilePut n f).fpe = g.fpe := rfl
@[simp] theorem Group.tilePut_lastb (g : Group) (n : Nat) (f : Nat → Option Word) : (g.tilePut n f).lastb = g.lastb := rfl
@[simp] theorem Group.tilePut_openSet (g : Group) (n : Nat) (f : Nat → Option Word) : (g.tilePut n f).openSet = g.openSet := rfl
@[simp] theorem Group.tilePut_batches (g : Group) (n : Nat) (f : Nat → Option Word) : (g.tilePut n f).batches = g.batches := rfl
@[simp] theorem Group.tilePut_table (g : Group) (n : Nat) (f : Nat → Option Word) : (g.tilePut n f).table = g.table := rfl
@[simp] theorem Group.tilePut_defer (g : Group) (n : Nat) (f : Nat → Option Word) : (g.tilePut n f).defer = g.defer := rfl
@[simp] theorem Group.tilePut_trap (g : Group) (n : Nat) (f : Nat → Option Word) : (g.tilePut n f).trap = g.trap := rfl
@[simp] theorem Group.tilePut_barArr (g : Group) (n : Nat) (f : Nat → Option Word) : (g.tilePut n f).barArr = g.barArr := rfl
@[simp] theorem Group.tilePut_barWait (g : Group) (n : Nat) (f : Nat → Option Word) : (g.tilePut n f).barWait = g.barWait := rfl
@[simp] theorem Group.tilePut_clArr (g : Group) (n : Nat) (f : Nat → Option Word) : (g.tilePut n f).clArr = g.clArr := rfl
@[simp] theorem Group.tilePut_perf (g : Group) (n : Nat) (f : Nat → Option Word) : (g.tilePut n f).perf = g.perf := rfl
@[simp] theorem Group.tilePut_seen (g : Group) (n : Nat) (f : Nat → Option Word) : (g.tilePut n f).seen = g.seen := rfl

@[simp] theorem Group.modFrag_sector (g : Group) (e : Nat) (f : Frag → Frag) : (g.modFrag e f).sector = g.sector := by
  unfold Group.modFrag; split <;> rfl
@[simp] theorem Group.modFrag_slot (g : Group) (e : Nat) (f : Frag → Frag) : (g.modFrag e f).slot = g.slot := by
  unfold Group.modFrag; split <;> rfl
@[simp] theorem Group.modFrag_lanes (g : Group) (e : Nat) (f : Frag → Frag) : (g.modFrag e f).lanes = g.lanes := by
  unfold Group.modFrag; split <;> rfl
@[simp] theorem Group.modFrag_helpers (g : Group) (e : Nat) (f : Frag → Frag) : (g.modFrag e f).helpers = g.helpers := by
  unfold Group.modFrag; split <;> rfl
@[simp] theorem Group.modFrag_v (g : Group) (e : Nat) (f : Frag → Frag) : (g.modFrag e f).v = g.v := by
  unfold Group.modFrag; split <;> rfl
@[simp] theorem Group.modFrag_s (g : Group) (e : Nat) (f : Frag → Frag) : (g.modFrag e f).s = g.s := by
  unfold Group.modFrag; split <;> rfl
@[simp] theorem Group.modFrag_k (g : Group) (e : Nat) (f : Frag → Frag) : (g.modFrag e f).k = g.k := by
  unfold Group.modFrag; split <;> rfl
@[simp] theorem Group.modFrag_tiles (g : Group) (e : Nat) (f : Frag → Frag) : (g.modFrag e f).tiles = g.tiles := by
  unfold Group.modFrag; split <;> rfl
@[simp] theorem Group.modFrag_icnt (g : Group) (e : Nat) (f : Frag → Frag) : (g.modFrag e f).icnt = g.icnt := by
  unfold Group.modFrag; split <;> rfl
@[simp] theorem Group.modFrag_fl (g : Group) (e : Nat) (f : Frag → Frag) : (g.modFrag e f).fl = g.fl := by
  unfold Group.modFrag; split <;> rfl
@[simp] theorem Group.modFrag_drm (g : Group) (e : Nat) (f : Frag → Frag) : (g.modFrag e f).drm = g.drm := by
  unfold Group.modFrag; split <;> rfl
@[simp] theorem Group.modFrag_fpe (g : Group) (e : Nat) (f : Frag → Frag) : (g.modFrag e f).fpe = g.fpe := by
  unfold Group.modFrag; split <;> rfl
@[simp] theorem Group.modFrag_lastb (g : Group) (e : Nat) (f : Frag → Frag) : (g.modFrag e f).lastb = g.lastb := by
  unfold Group.modFrag; split <;> rfl
@[simp] theorem Group.modFrag_openSet (g : Group) (e : Nat) (f : Frag → Frag) : (g.modFrag e f).openSet = g.openSet := by
  unfold Group.modFrag; split <;> rfl
@[simp] theorem Group.modFrag_batches (g : Group) (e : Nat) (f : Frag → Frag) : (g.modFrag e f).batches = g.batches := by
  unfold Group.modFrag; split <;> rfl
@[simp] theorem Group.modFrag_defer (g : Group) (e : Nat) (f : Frag → Frag) : (g.modFrag e f).defer = g.defer := by
  unfold Group.modFrag; split <;> rfl
@[simp] theorem Group.modFrag_trap (g : Group) (e : Nat) (f : Frag → Frag) : (g.modFrag e f).trap = g.trap := by
  unfold Group.modFrag; split <;> rfl
@[simp] theorem Group.modFrag_barArr (g : Group) (e : Nat) (f : Frag → Frag) : (g.modFrag e f).barArr = g.barArr := by
  unfold Group.modFrag; split <;> rfl
@[simp] theorem Group.modFrag_barWait (g : Group) (e : Nat) (f : Frag → Frag) : (g.modFrag e f).barWait = g.barWait := by
  unfold Group.modFrag; split <;> rfl
@[simp] theorem Group.modFrag_clArr (g : Group) (e : Nat) (f : Frag → Frag) : (g.modFrag e f).clArr = g.clArr := by
  unfold Group.modFrag; split <;> rfl
@[simp] theorem Group.modFrag_perf (g : Group) (e : Nat) (f : Frag → Frag) : (g.modFrag e f).perf = g.perf := by
  unfold Group.modFrag; split <;> rfl
@[simp] theorem Group.modFrag_seen (g : Group) (e : Nat) (f : Frag → Frag) : (g.modFrag e f).seen = g.seen := by
  unfold Group.modFrag; split <;> rfl

@[simp] theorem Group.setAct_sector (g : Group) (e : Nat) (m : Mask) : (g.setAct e m).sector = g.sector := Group.modFrag_sector _ _ _
@[simp] theorem Group.setAct_slot (g : Group) (e : Nat) (m : Mask) : (g.setAct e m).slot = g.slot := Group.modFrag_slot _ _ _
@[simp] theorem Group.setAct_lanes (g : Group) (e : Nat) (m : Mask) : (g.setAct e m).lanes = g.lanes := Group.modFrag_lanes _ _ _
@[simp] theorem Group.setAct_helpers (g : Group) (e : Nat) (m : Mask) : (g.setAct e m).helpers = g.helpers := Group.modFrag_helpers _ _ _
@[simp] theorem Group.setAct_v (g : Group) (e : Nat) (m : Mask) : (g.setAct e m).v = g.v := Group.modFrag_v _ _ _
@[simp] theorem Group.setAct_s (g : Group) (e : Nat) (m : Mask) : (g.setAct e m).s = g.s := Group.modFrag_s _ _ _
@[simp] theorem Group.setAct_k (g : Group) (e : Nat) (m : Mask) : (g.setAct e m).k = g.k := Group.modFrag_k _ _ _
@[simp] theorem Group.setAct_tiles (g : Group) (e : Nat) (m : Mask) : (g.setAct e m).tiles = g.tiles := Group.modFrag_tiles _ _ _
@[simp] theorem Group.setAct_icnt (g : Group) (e : Nat) (m : Mask) : (g.setAct e m).icnt = g.icnt := Group.modFrag_icnt _ _ _
@[simp] theorem Group.setAct_fl (g : Group) (e : Nat) (m : Mask) : (g.setAct e m).fl = g.fl := Group.modFrag_fl _ _ _
@[simp] theorem Group.setAct_drm (g : Group) (e : Nat) (m : Mask) : (g.setAct e m).drm = g.drm := Group.modFrag_drm _ _ _
@[simp] theorem Group.setAct_fpe (g : Group) (e : Nat) (m : Mask) : (g.setAct e m).fpe = g.fpe := Group.modFrag_fpe _ _ _
@[simp] theorem Group.setAct_lastb (g : Group) (e : Nat) (m : Mask) : (g.setAct e m).lastb = g.lastb := Group.modFrag_lastb _ _ _
@[simp] theorem Group.setAct_openSet (g : Group) (e : Nat) (m : Mask) : (g.setAct e m).openSet = g.openSet := Group.modFrag_openSet _ _ _
@[simp] theorem Group.setAct_batches (g : Group) (e : Nat) (m : Mask) : (g.setAct e m).batches = g.batches := Group.modFrag_batches _ _ _
@[simp] theorem Group.setAct_defer (g : Group) (e : Nat) (m : Mask) : (g.setAct e m).defer = g.defer := Group.modFrag_defer _ _ _
@[simp] theorem Group.setAct_trap (g : Group) (e : Nat) (m : Mask) : (g.setAct e m).trap = g.trap := Group.modFrag_trap _ _ _
@[simp] theorem Group.setAct_barArr (g : Group) (e : Nat) (m : Mask) : (g.setAct e m).barArr = g.barArr := Group.modFrag_barArr _ _ _
@[simp] theorem Group.setAct_barWait (g : Group) (e : Nat) (m : Mask) : (g.setAct e m).barWait = g.barWait := Group.modFrag_barWait _ _ _
@[simp] theorem Group.setAct_clArr (g : Group) (e : Nat) (m : Mask) : (g.setAct e m).clArr = g.clArr := Group.modFrag_clArr _ _ _
@[simp] theorem Group.setAct_perf (g : Group) (e : Nat) (m : Mask) : (g.setAct e m).perf = g.perf := Group.modFrag_perf _ _ _
@[simp] theorem Group.setAct_seen (g : Group) (e : Nat) (m : Mask) : (g.setAct e m).seen = g.seen := Group.modFrag_seen _ _ _

end Sys2Proof.Machine
end

