-- ==== Sys2Proof/Laws/Ops.lean ====
section
/-! SUPPORT. What the shared operations can change: moving fragments, taking a trap, ending a block and the end of an instruction
leave every group's data, and everything outside groups and blocks, as it was. -/

namespace Sys2Proof.Machine

/-! The relations -/

theorem OptRel.refl {α : Type} {r : α → α → Prop} (h : ∀ a, r a a) : ∀ x, OptRel r x x
  | none => trivial
  | some a => h a

theorem OptRel.trans {α : Type} {r : α → α → Prop} (h : ∀ a b c, r a b → r b c → r a c) :
    ∀ {x y z}, OptRel r x y → OptRel r y z → OptRel r x z
  | none, none, none, _, _ => trivial
  | some _, some _, some _, h1, h2 => h _ _ _ h1 h2
  | none, some _, _, h1, _ => h1.elim
  | some _, none, _, h1, _ => h1.elim
  | none, none, some _, _, h2 => h2.elim
  | some _, some _, none, _, h2 => h2.elim

theorem Group.sameData.refl (g : Group) : g.sameData g := rfl

theorem Group.sameData.trans {a b c : Group} (h : a.sameData b) (h' : b.sameData c) : a.sameData c := by
  unfold Group.sameData at *; rw [h', h]

theorem Block.sameData.refl (b : Block) : b.sameData b := rfl

theorem Block.sameData.trans {a b c : Block} (h : a.sameData b) (h' : b.sameData c) : a.sameData c := by
  unfold Block.sameData at *; rw [h', h]

theorem State.moved.refl (s : State) : s.moved s :=
  ⟨rfl, fun _ => OptRel.refl Group.sameData.refl _, fun _ => OptRel.refl Block.sameData.refl _⟩

theorem State.moved.trans {s t u : State} (h : s.moved t) (h' : t.moved u) : s.moved u :=
  ⟨by rw [h'.1, h.1], fun n => OptRel.trans (fun a b c => @Group.sameData.trans a b c) (h.2.1 n) (h'.2.1 n),
    fun n => OptRel.trans (fun a b c => @Block.sameData.trans a b c) (h.2.2 n) (h'.2.2 n)⟩

/-- A state in which groups keep their data and blocks are untouched. -/
theorem State.moved_groups (s : State) (gs : Map Group)
    (h : ∀ n, OptRel Group.sameData (Map.find? s.groups n) (Map.find? gs n)) : s.moved { s with groups := gs } :=
  ⟨rfl, h, fun _ => OptRel.refl Block.sameData.refl _⟩

theorem State.moved_setGroup {s : State} {gid : Nat} {g h : Group} (hg : Map.find? s.groups gid = some g)
    (hh : g.sameData h) : s.moved (s.setGroup gid h) := by
  refine State.moved_groups s _ (fun n => ?_)
  rw [Map.find?_put]
  split
  · next e => subst e; rw [hg]; exact hh
  · exact OptRel.refl Group.sameData.refl _

theorem State.moved_modGroup (s : State) (gid : Nat) (f : Group → Group) (hf : ∀ g : Group, g.sameData (f g)) :
    s.moved (s.modGroup gid f) := by
  unfold State.modGroup
  split
  · next g hg => exact State.moved_setGroup hg (hf g)
  · exact State.moved.refl s

theorem State.moved_modBlock (s : State) (bid : Nat) (f : Block → Block) (hf : ∀ b : Block, b.sameData (f b)) :
    s.moved (s.modBlock bid f) := by
  unfold State.modBlock
  split
  · next b hb =>
    refine ⟨rfl, fun _ => OptRel.refl Group.sameData.refl _, fun n => ?_⟩
    rw [State.setBlock_blocks, Map.find?_put]
    split
    · next e => subst e; rw [hb]; exact hf b
    · exact OptRel.refl Block.sameData.refl _
  · exact State.moved.refl s

theorem State.moved.modGroup {s t : State} (h : s.moved t) {gid : Nat} {f : Group → Group}
    (hf : ∀ g : Group, g.sameData (f g)) : s.moved (t.modGroup gid f) := h.trans (State.moved_modGroup t gid f hf)

theorem State.moved.modBlock {s t : State} (h : s.moved t) {bid : Nat} {f : Block → Block}
    (hf : ∀ b : Block, b.sameData (f b)) : s.moved (t.modBlock bid f) := h.trans (State.moved_modBlock t bid f hf)

theorem State.moved_foldl {α : Type} (f : State → α → State) (hf : ∀ (s : State) a, s.moved (f s a)) :
    ∀ (l : List α) (s : State), s.moved (l.foldl f s)
  | [], s => State.moved.refl s
  | a :: l, s => (hf s a).trans (State.moved_foldl f hf l (f s a))

/-! Group operations that keep data -/

theorem Group.sameData_setEntry (g : Group) (e : Nat) (x : Entry) : g.sameData (g.setEntry e x) := rfl
theorem Group.sameData_setTop (g : Group) (e : Nat) (d : Option Defer) : g.sameData (g.setTop e d) := rfl
theorem Group.sameData_gone (g : Group) (m : Mask) : g.sameData (g.gone m) := rfl
theorem Group.sameData_modFrag (g : Group) (e : Nat) (f : Frag → Frag) : g.sameData (g.modFrag e f) := by
  unfold Group.modFrag; split <;> rfl

/-- Table changes keep a group's data (R249 to R252). -/
theorem Group.sameData_moves (look : Nat → Nat → Bool → Found) (now : Nat) :
    ∀ n ms g bad, Group.sameData g (Group.moves look now n ms g bad).1 := by
  intro n
  induction n with
  | zero => intro ms g bad; exact Group.sameData.refl g
  | succ n ih =>
    have step : ∀ {g g' : Group} ms bad, g.sameData g' → g.sameData (Group.moves look now n ms g' bad).1 :=
      fun ms bad h => h.trans (ih ms _ bad)
    intro ms g bad
    cases ms with
    | nil =>
      simp only [Group.moves]
      repeat' split
      all_goals first | exact Group.sameData.refl g | exact step _ _ rfl
    | cons m ms =>
      cases m with
      | enter ent addr tr =>
        simp only [Group.moves]
        repeat' split
        all_goals exact step _ _ rfl
      | arrive ent lanes =>
        simp only [Group.moves]
        repeat' split
        all_goals exact step _ _ rfl

/-! Traps and block ends -/

theorem State.moved.modFrag {s t : State} (h : s.moved t) {c : Cursor} {f : Frag → Frag} : s.moved (t.modFrag c f) :=
  h.modGroup (fun g => g.sameData_modFrag _ _)

theorem State.moved.endBlock {s t : State} (h : s.moved t) {bid cause detail : Nat} :
    s.moved (t.endBlock bid cause detail) := by
  refine h.trans ?_
  unfold State.endBlock
  split
  · exact State.moved.refl t
  · next b hb =>
    split
    · exact State.moved.refl t
    · refine ⟨rfl, fun n => ?_, fun n => ?_⟩
      · have e : (t.groups.map (fun (p : Nat × Group) => if p.1 / 32 = bid then (p.1, { p.2 with table := [], defer := [] }) else p)) =
            t.groups.map (fun (p : Nat × Group) => (p.1, (fun (k : Nat) (g : Group) => if k / 32 = bid then { g with table := [], defer := [] } else g) p.1 p.2)) := by
          apply List.map_congr_left; intro p _; dsimp only; split <;> rfl
        show OptRel _ _ (Map.find? (t.groups.map _) n)
        rw [e, Map.find?_map t.groups (fun (k : Nat) (g : Group) => if k / 32 = bid then { g with table := [], defer := [] } else g)]
        cases Map.find? t.groups n with
        | none => trivial
        | some g => simp only [Option.map_some, OptRel]; split <;> rfl
      · show OptRel _ _ (Map.find? (Map.put t.blocks bid _) n)
        rw [Map.find?_put]
        split
        · next e => subst e; rw [hb]; rfl
        · exact OptRel.refl Block.sameData.refl _

theorem State.moved.evict {s t : State} (h : s.moved t) {bid : Nat} {why : Evict} : s.moved (t.evict bid why) := by
  unfold State.evict
  refine State.moved.modBlock (h.trans ?_) (fun _ => by split <;> rfl)
  refine State.moved_foldl _ (fun s b => State.moved_modBlock s b _ (fun b => ?_)) _ _
  split <;> rfl

theorem State.moved.faultAt {s t : State} (h : s.moved t) {cur : Cursor} {site : Site} {r : TrapRec} {stays : Bool} {evs : List IqEv}
    {eng : Option (Engine × Option Nat)} : s.moved (t.faultAt cur site r stays evs eng) := by
  unfold State.faultAt
  dsimp only
  split
  · split
    · have h1 : ∀ x : Late, s.moved (t.modBlock (cur.gid / 32) (fun b => { b with late := b.late ++ [x] })) :=
        fun _ => h.modBlock (fun _ => rfl)
      have h2 : ∀ (x : Late), s.moved (if stays then (t.modBlock (cur.gid / 32) (fun b => { b with late := b.late ++ [x] })).modFrag cur
          (fun f => f.putBack site) else t.modBlock (cur.gid / 32) (fun b => { b with late := b.late ++ [x] })) := by
        intro x; split
        · exact (h1 x).modFrag
        · exact h1 x
      split
      · refine State.moved.modBlock (State.moved.evict (State.moved.modGroup (h2 _) ?_)) ?_ <;> intro _ <;> rfl
      · exact h2 _
    · exact h.endBlock
  · exact h.endBlock
  · exact h

theorem State.moved.faultBlock {s t : State} (h : s.moved t) {cur : Cursor} {r : TrapRec} :
    s.moved (t.faultBlock cur r) := by
  unfold State.faultBlock
  split
  · exact h.faultAt
  · exact h.endBlock

theorem State.moved.deliver {s t : State} (h : s.moved t) {c : Iss} {r : TrapRec} : s.moved (t.deliver c r) := by
  have h' := fun f => h.modGroup (gid := c.cur.gid)
    (f := fun g => { g.setEntry c.cur.ent (.frag f) with trap := { r.regs c.f.blk with fresh := some t.seq } }) (fun _ => rfl)
  unfold State.deliver
  dsimp only
  split
  · exact (h' _).modFrag
  · exact (h' _).faultBlock
  · exact (h' _).faultBlock

/-- Taking a trap moves fragments and ends or evicts blocks; it changes no register, mask, flag or byte (R369, R372, R375). -/
theorem State.moved.takeTrap {s t : State} (h : s.moved t) {c : Iss} {r : TrapRec} : s.moved (t.takeTrap c r) := by
  unfold State.takeTrap
  split
  · exact h.faultBlock
  · split
    · exact h
    · split
      · exact h.modFrag
      · exact h.deliver

theorem State.moved.stopBlock {s t : State} (h : s.moved t) {c : Iss} {r : Nat × Nat} {m : Mask} :
    s.moved (t.stopBlock c r m) := h.faultBlock

theorem State.moved.illegal {s t : State} (h : s.moved t) {c : Iss} {i : Instr} {reason : Nat} : s.moved (t.illegal c i reason) :=
  h.takeTrap

theorem State.moved_badEntry (s : State) (gid : Nat) (b : BadEntry) : s.moved (s.badEntry gid b) := by
  unfold State.badEntry
  split
  · exact State.moved.refl s
  · dsimp only
    split
    · exact State.moved.refl s
    · exact (State.moved.refl s).takeTrap
    · exact (State.moved.refl s).faultBlock

theorem State.moved.checkExit {s t : State} (h : s.moved t) {bid : Nat} : s.moved (t.checkExit bid) := by
  unfold State.checkExit
  split
  · exact h.endBlock
  · exact h

/-- Changes to the split table, with the traps they cause, only move fragments (R249, R252). -/
theorem State.moved.moves {s t : State} (h : s.moved t) {c : Iss} {ms : List Move} : s.moved (t.moves c ms) := by
  unfold State.moves
  split
  · exact h
  · next g hg =>
    have h1 := State.moved_setGroup hg (Group.sameData_moves (fun hnd a tr => t.header c hnd a tr) t.seq moveFuel ms g [])
    exact State.moved.checkExit ((h.trans h1).trans (State.moved_foldl _ (fun s b => State.moved_badEntry s c.cur.gid b) _ _))

theorem State.moved.fallThrough {s t : State} (h : s.moved t) {c : Iss} : s.moved (t.fallThrough c) := by
  unfold State.fallThrough
  repeat' split
  all_goals first | exact h | exact h.moves

theorem State.moved.nextTrap {s t : State} (h : s.moved t) {gid : Nat} : s.moved (t.nextTrap gid) := by
  unfold State.nextTrap
  dsimp only
  split
  · exact h
  · next g hg =>
    have h' : ∀ go : Bool, s.moved (if go then t.setGroup gid g.retry else t) := fun go => by
      cases go
      · exact h
      · exact h.trans (State.moved_setGroup hg rfl)
    split
    · exact h
    · split
      · exact h' _
      · split
        · exact (h' _).deliver
        · exact h' _

/-- The end of an instruction: the group's data is what the instruction made it, and all else only moves. -/
theorem State.advance_wrote (s : State) (c : Iss) (e : Enc) (x : Eff) (later : Bool) :
    s.wrote (s.advance c e x later) c.cur.gid x.g := by
  unfold State.wrote State.advance
  dsimp only
  have r := State.moved.refl (s.setGroup c.cur.gid x.g)
  repeat' split
  all_goals first
    | exact r.moves
    | exact r.modFrag
    | exact r.modFrag.moves
    | exact r.modFrag.fallThrough
    | exact r.modFrag.moves.fallThrough

/-- R63: an instruction that goes to completion counts in the lanes given. -/
theorem State.finish_wrote (s : State) (c : Iss) (e : Enc) (x : Eff) (m : Mask) (later : Bool) :
    s.wrote (s.finish c e x m later) c.cur.gid (x.g.count m) := State.advance_wrote _ _ _ _ _

theorem State.finishV_wrote (s : State) (c : Iss) (e : Enc) (x : Eff) (m : Mask) (later : Bool) :
    s.wrote (s.finishV c e x m later) c.cur.gid ((x.g.tally 1 (beatsOf c.own)).count m) := State.finish_wrote _ _ _ _ _ _

/-- The group after a write, in the state written. -/
theorem State.wrote.group {s t : State} {gid : Nat} {g : Group} (h : s.wrote t gid g) :
    ∃ h', Map.find? t.groups gid = some h' ∧ g.sameData h' := by
  have := h.2.1 gid
  rw [State.setGroup_groups, Map.find?_put_self] at this
  cases e : Map.find? t.groups gid with
  | none => rw [e] at this; exact this.elim
  | some h' => rw [e] at this; exact ⟨h', rfl, this⟩

theorem Group.count_ticked (g : Group) (m : Mask) : g.ticked (g.count m) m := by
  intro L hL
  simp only [Group.count]
  rw [laneGet_tab _ hL]
  split <;> simp

/-! Issuing -/

/-- A legal instruction has its effect; the meaning of `i` answers it. -/
theorem issuing_legal {s : State} {c : Iss} {i : Instr} (h : s.legal c i) (eff : Iss → State) :
    issuing i s eff = .next (eff c) := by
  simp only [issuing, h.1, h.2]

/-- With an issuing fragment, `issuing` answers a next state. -/
theorem issuing_next {s : State} {c : Iss} (h : s.issuer? = some c) (i : Instr) (eff : Iss → State) :
    ∃ t, issuing i s eff = .next t := by
  simp only [issuing, h]
  split <;> exact ⟨_, rfl⟩

end Sys2Proof.Machine
end

