-- ==== Sys2Proof/Tests/Slice0.lean ====
section
/-! SUPPORT. Tests of decoding: one word per encodable instruction, written bit by bit from the tables of the spec (opcode, V, DST, A,
B), and the spec's worked encodings; an ill-formed term for each check of WellFormed; and single steps on small states. -/

namespace Sys2Proof.Tests

open Sys2Proof.Machine

/-- Fields without prefix or literal. -/
def en (v : BitVec 2) (d a b : Code) : Enc := ⟨none, v, d, a, b, none⟩

/-- Fields with a literal. -/
def enL (v : BitVec 2) (d a b : Code) (l : Word) : Enc := ⟨none, v, d, a, b, some l⟩

/-- Every word decodes to its instruction, and the instruction encodes to the word. -/
def agree (l : List (Word × Instr)) : Bool :=
  l.all (fun p => decodeUnits [p.1] == .ok (p.2, []) && encode p.2 == [p.1])

/-- The same of several units. -/
def agreeUnits (l : List (List Word × Instr)) : Bool :=
  l.all (fun p => decodeUnits p.1 == .ok (p.2, []) && encode p.2 == p.1)

theorem test_decode_control : agree [
    (0b000000000_00_0000000_0000000_0000000, .nop (en 0 0x00 0x00 0x00)),
    (0b000000001_00_0100100_0110100_1000111, .brZ (en 0 0x24 0x34 0x47)),
    (0b000000001_01_0100100_0110100_1000111, .brNz (en 1 0x24 0x34 0x47)),
    (0b000000010_00_0100100_0110100_1000111, .brv (en 0 0x24 0x34 0x47)),
    (0b000000100_00_1100000_1100000_1000111, .jmpIndirect (en 0 0x60 0x60 0x47)),
    (0b000000101_00_0000101_1100000_1000111, .callIndirect (en 0 0x05 0x60 0x47)),
    (0b000000110_00_1100000_0000110_1100000, .ret (en 0 0x60 0x06 0x60)),
    (0b000000111_00_1100000_1100000_1100000, .exit (en 0 0x60 0x60 0x60)),
    (0b000001000_00_1100000_1100000_1100000, .yield (en 0 0x60 0x60 0x60)),
    (0b000001001_00_1100000_0000110_1100000, .exlw (en 0 0x60 0x06 0x60)),
    (0b000001010_00_1100000_0000110_1100000, .exlw2 (en 0 0x60 0x06 0x60))] = true := by decide +kernel

theorem test_decode_scalar : agree [
    (0b000100000_10_0000101_0000110_1100000, .smov (en 2 0x05 0x06 0x60)),
    (0b000100001_10_0000101_0000000_0010101, .sli (en 2 0x05 0x00 0x15)),
    (0b000100010_10_0000101_0000110_1000111, .sadd (en 2 0x05 0x06 0x47)),
    (0b000100011_10_0000101_0000110_1000111, .ssub (en 2 0x05 0x06 0x47)),
    (0b000100100_10_0000101_0000110_1000111, .smul (en 2 0x05 0x06 0x47)),
    (0b000100101_10_0000101_0000110_1000111, .smulh (en 2 0x05 0x06 0x47)),
    (0b000100110_10_0000101_0000110_1000111, .sdiv (en 2 0x05 0x06 0x47)),
    (0b000100111_10_0000101_0000110_1000111, .srem (en 2 0x05 0x06 0x47)),
    (0b000101000_10_0000101_0000110_1000111, .sand (en 2 0x05 0x06 0x47)),
    (0b000101001_10_0000101_0000110_1000111, .sor (en 2 0x05 0x06 0x47)),
    (0b000101010_10_0000101_0000110_1000111, .sxor (en 2 0x05 0x06 0x47)),
    (0b000101011_10_0000101_0000110_1100000, .snot (en 2 0x05 0x06 0x60)),
    (0b000101100_10_0000101_0000110_1000111, .sshl (en 2 0x05 0x06 0x47)),
    (0b000101101_10_0000101_0000110_1000111, .sshr (en 2 0x05 0x06 0x47)),
    (0b000101110_10_0000101_0000110_1000111, .ssar (en 2 0x05 0x06 0x47)),
    (0b000101111_10_0000101_0000110_1000111, .smin (en 2 0x05 0x06 0x47)),
    (0b000110000_10_0000101_0000110_1000111, .smax (en 2 0x05 0x06 0x47)),
    (0b000110001_10_0000101_0000110_1000111, .scmpEq (en 2 0x05 0x06 0x47)),
    (0b000110010_10_0000101_0000110_1000111, .scmpNe (en 2 0x05 0x06 0x47)),
    (0b000110011_10_0000101_0000110_1000111, .scmpLt (en 2 0x05 0x06 0x47)),
    (0b000110100_10_0000101_0000110_1000111, .scmpLe (en 2 0x05 0x06 0x47)),
    (0b000110101_10_0000101_0000110_1000111, .scmpGt (en 2 0x05 0x06 0x47)),
    (0b000110110_10_0000101_0000110_1000111, .scmpGe (en 2 0x05 0x06 0x47)),
    (0b000110111_10_0000101_0000110_1000111, .ssel (en 2 0x05 0x06 0x47)),
    (0b000111000_10_0000101_0000110_1100000, .sclz (en 2 0x05 0x06 0x60)),
    (0b000111001_10_0000101_0000110_1100000, .spopc (en 2 0x05 0x06 0x60)),
    (0b000111010_10_0000101_0000110_1000111, .sbfe (en 2 0x05 0x06 0x47)),
    (0b000111011_10_0000101_0000110_1000111, .sbfi (en 2 0x05 0x06 0x47)),
    (0b000111100_00_0000101_0000110_1000111, .k2s (en 0 0x05 0x06 0x47)),
    (0b000111101_00_0000101_0000110_1000111, .s2k (en 0 0x05 0x06 0x47))] = true := by decide +kernel

theorem test_decode_vector : agree [
    (0b001100000_10_0000101_0000110_1100000, .vmov (en 2 0x05 0x06 0x60)),
    (0b001100001_10_0000101_0000110_1000111, .vadd (en 2 0x05 0x06 0x47)),
    (0b001100010_01_0000101_0000110_1000111, .vaddc (en 1 0x05 0x06 0x47)),
    (0b001100011_10_0000101_0000110_1000111, .vsub (en 2 0x05 0x06 0x47)),
    (0b001100100_10_0000101_0000110_1000111, .vmul (en 2 0x05 0x06 0x47)),
    (0b001100101_10_0000101_0000110_1000111, .vmulh (en 2 0x05 0x06 0x47)),
    (0b001100110_10_0000101_0000110_1000111, .vmad (en 2 0x05 0x06 0x47)),
    (0b001100111_10_0000101_0000110_1000111, .vdiv (en 2 0x05 0x06 0x47)),
    (0b001101000_10_0000101_0000110_1000111, .vrem (en 2 0x05 0x06 0x47)),
    (0b001101001_10_0000101_0000110_1000111, .vand (en 2 0x05 0x06 0x47)),
    (0b001101010_10_0000101_0000110_1000111, .vor (en 2 0x05 0x06 0x47)),
    (0b001101011_10_0000101_0000110_1000111, .vxor (en 2 0x05 0x06 0x47)),
    (0b001101100_10_0000101_0000110_1100000, .vnot (en 2 0x05 0x06 0x60)),
    (0b001101101_10_0000101_0000110_1000111, .vshl (en 2 0x05 0x06 0x47)),
    (0b001101110_10_0000101_0000110_1000111, .vshr (en 2 0x05 0x06 0x47)),
    (0b001101111_10_0000101_0000110_1000111, .vsar (en 2 0x05 0x06 0x47)),
    (0b001110000_10_0000101_0000110_1000111, .vmin (en 2 0x05 0x06 0x47)),
    (0b001110001_10_0000101_0000110_1000111, .vmax (en 2 0x05 0x06 0x47)),
    (0b001110010_10_0000101_0000110_1100000, .vabs (en 2 0x05 0x06 0x60)),
    (0b001110011_10_0000101_0000110_1100000, .vneg (en 2 0x05 0x06 0x60)),
    (0b001110100_10_0000101_0000110_1000111, .vcmpEq (en 2 0x05 0x06 0x47)),
    (0b001110101_10_0000101_0000110_1000111, .vcmpNe (en 2 0x05 0x06 0x47)),
    (0b001110110_10_0000101_0000110_1000111, .vcmpLt (en 2 0x05 0x06 0x47)),
    (0b001110111_10_0000101_0000110_1000111, .vcmpLe (en 2 0x05 0x06 0x47)),
    (0b001111000_10_0000101_0000110_1000111, .vcmpGt (en 2 0x05 0x06 0x47)),
    (0b001111001_10_0000101_0000110_1000111, .vcmpGe (en 2 0x05 0x06 0x47)),
    (0b001111011_10_0000101_0000110_1100000, .vclz (en 2 0x05 0x06 0x60)),
    (0b001111100_10_0000101_0000110_1100000, .vpopc (en 2 0x05 0x06 0x60)),
    (0b001111101_10_0000101_0000110_1100000, .vbrev (en 2 0x05 0x06 0x60)),
    (0b001111110_10_0000101_0000110_1000111, .vbfe (en 2 0x05 0x06 0x47)),
    (0b001111111_10_0000101_0000110_1000111, .vbfi (en 2 0x05 0x06 0x47)),
    (0b010000000_10_0000101_0000110_1000111, .vdot4 (en 2 0x05 0x06 0x47)),
    (0b010000001_10_0000101_0000110_1000111, .vpack (en 2 0x05 0x06 0x47)),
    (0b010000010_10_0000101_0000110_1100000, .vunpk (en 2 0x05 0x06 0x60))] = true := by decide +kernel

theorem test_decode_mask : agree [
    (0b010000011_00_0000101_0000110_1000111, .kand (en 0 0x05 0x06 0x47)),
    (0b010000100_00_0000101_0000110_1000111, .kor (en 0 0x05 0x06 0x47)),
    (0b010000101_00_0000101_0000110_1000111, .kxor (en 0 0x05 0x06 0x47)),
    (0b010000110_00_0000101_0000110_1100000, .knot (en 0 0x05 0x06 0x60)),
    (0b010000111_00_0000101_0000110_1100000, .kmov (en 0 0x05 0x06 0x60)),
    (0b010001000_00_0000101_0000110_1100000, .kpop (en 0 0x05 0x06 0x60))] = true := by decide +kernel

theorem test_decode_float : agree [
    (0b011100000_10_0000101_0000110_1000111, .fadd (en 2 0x05 0x06 0x47)),
    (0b011100001_10_0000101_0000110_1000111, .fsub (en 2 0x05 0x06 0x47)),
    (0b011100010_10_0000101_0000110_1000111, .fmul (en 2 0x05 0x06 0x47)),
    (0b011100011_10_0000101_0000110_1000111, .ffma (en 2 0x05 0x06 0x47)),
    (0b011100100_10_0000101_0000110_1000111, .fmin (en 2 0x05 0x06 0x47)),
    (0b011100101_10_0000101_0000110_1000111, .fmax (en 2 0x05 0x06 0x47)),
    (0b011100110_10_0000101_0000110_1000111, .fcmpEq (en 2 0x05 0x06 0x47)),
    (0b011100111_10_0000101_0000110_1000111, .fcmpNe (en 2 0x05 0x06 0x47)),
    (0b011101000_10_0000101_0000110_1000111, .fcmpLt (en 2 0x05 0x06 0x47)),
    (0b011101001_10_0000101_0000110_1000111, .fcmpLe (en 2 0x05 0x06 0x47)),
    (0b011101010_10_0000101_0000110_1000111, .fcmpGt (en 2 0x05 0x06 0x47)),
    (0b011101011_10_0000101_0000110_1000111, .fcmpGe (en 2 0x05 0x06 0x47)),
    (0b011101100_10_0000101_0000110_1000111, .fcmpUn (en 2 0x05 0x06 0x47)),
    (0b011101101_10_0000101_0000110_1000111, .fcmpOr (en 2 0x05 0x06 0x47)),
    (0b011101110_10_0000101_0000110_1100000, .frcp (en 2 0x05 0x06 0x60)),
    (0b011101111_10_0000101_0000110_1100000, .frsq (en 2 0x05 0x06 0x60)),
    (0b011110000_10_0000101_0000110_1100000, .fsqrt (en 2 0x05 0x06 0x60)),
    (0b011110001_10_0000101_0000110_1000111, .fdiv (en 2 0x05 0x06 0x47)),
    (0b011110010_10_0000101_0000110_1100000, .fexp2 (en 2 0x05 0x06 0x60)),
    (0b011110011_10_0000101_0000110_1100000, .flog2 (en 2 0x05 0x06 0x60)),
    (0b011110100_10_0000101_0000110_1100000, .fsin (en 2 0x05 0x06 0x60)),
    (0b011110101_10_0000101_0000110_1100000, .fcos (en 2 0x05 0x06 0x60)),
    (0b011110110_10_0000101_0000110_1100000, .ftanh (en 2 0x05 0x06 0x60)),
    (0b011110111_10_0000101_0000110_1100000, .frnd (en 2 0x05 0x06 0x60)),
    (0b011111000_10_0000101_0000110_1000111, .fcvt (en 2 0x05 0x06 0x47)),
    (0b011111001_10_0000101_0000110_1000111, .fcvti (en 2 0x05 0x06 0x47)),
    (0b011111010_10_0000101_0000110_1000111, .icvtf (en 2 0x05 0x06 0x47)),
    (0b011111011_10_0000101_0000110_1100000, .fclass (en 2 0x05 0x06 0x60)),
    (0b011111100_10_0000101_0000110_1000111, .fscale (en 2 0x05 0x06 0x47)),
    (0b011111101_10_0000101_0000110_1000111, .fdot2 (en 2 0x05 0x06 0x47)),
    (0b011111111_00_0000101_0000110_1100000, .nxenc (en 0 0x05 0x06 0x60)),
    (0b100000000_10_0000101_0000110_1000111, .nxdec (en 2 0x05 0x06 0x47))] = true := by decide +kernel

theorem test_decode_lane : agree [
    (0b101000000_10_0000101_0000110_1000111, .qswz (en 2 0x05 0x06 0x47)),
    (0b101000001_10_0000101_0000110_1000111, .qbc (en 2 0x05 0x06 0x47)),
    (0b101000010_10_0000101_0000110_1000111, .lshf (en 2 0x05 0x06 0x47)),
    (0b101000011_10_0000101_0000110_1000111, .lrot (en 2 0x05 0x06 0x47)),
    (0b101000100_10_0000101_0000110_1000111, .lbc (en 2 0x05 0x06 0x47)),
    (0b101000101_10_0000101_0000110_1100000, .lredAdd (en 2 0x05 0x06 0x60)),
    (0b101000110_10_0000101_0000110_1100000, .lredMin (en 2 0x05 0x06 0x60)),
    (0b101000111_10_0000101_0000110_1100000, .lredMax (en 2 0x05 0x06 0x60)),
    (0b101001000_10_0000101_0000110_1100000, .lredAnd (en 2 0x05 0x06 0x60)),
    (0b101001001_10_0000101_0000110_1100000, .lredOr (en 2 0x05 0x06 0x60)),
    (0b101001010_10_0000101_0000110_1100000, .lredXor (en 2 0x05 0x06 0x60)),
    (0b101001011_10_0000101_0000110_1100000, .lredFadd (en 2 0x05 0x06 0x60)),
    (0b101001100_10_0000101_0000110_1100000, .lredFmin (en 2 0x05 0x06 0x60)),
    (0b101001101_10_0000101_0000110_1100000, .lredFmax (en 2 0x05 0x06 0x60)),
    (0b101001110_10_0000101_0000110_1100000, .lscanAdd (en 2 0x05 0x06 0x60)),
    (0b101001111_10_0000101_0000110_1100000, .lscanMin (en 2 0x05 0x06 0x60)),
    (0b101010000_10_0000101_0000110_1100000, .lscanMax (en 2 0x05 0x06 0x60)),
    (0b101010001_10_0000101_0000110_1100000, .lscanAnd (en 2 0x05 0x06 0x60)),
    (0b101010010_10_0000101_0000110_1100000, .lscanOr (en 2 0x05 0x06 0x60)),
    (0b101010011_10_0000101_0000110_1100000, .lscanXor (en 2 0x05 0x06 0x60)),
    (0b101010100_10_0000101_0000110_1100000, .lscanFadd (en 2 0x05 0x06 0x60)),
    (0b101010101_10_0000101_0000110_1100000, .lscanFmin (en 2 0x05 0x06 0x60)),
    (0b101010110_10_0000101_0000110_1100000, .lscanFmax (en 2 0x05 0x06 0x60)),
    (0b101010111_10_0000101_0000110_1100000, .lmatch (en 2 0x05 0x06 0x60)),
    (0b101011000_10_0000101_0000110_1100000, .lfirst (en 2 0x05 0x06 0x60))] = true := by decide +kernel

theorem test_decode_memory : agree [
    (0b101110000_10_0000101_0000110_1000111, .ldv (en 2 0x05 0x06 0x47)),
    (0b101110001_10_0000101_0000110_1000111, .stv (en 2 0x05 0x06 0x47)),
    (0b101110010_10_0000101_0000110_1000111, .ldvAcq (en 2 0x05 0x06 0x47)),
    (0b101110011_10_0000101_0000110_1000111, .stvRel (en 2 0x05 0x06 0x47)),
    (0b101110100_10_0000101_0000110_1000111, .lds (en 2 0x05 0x06 0x47)),
    (0b101110101_10_0000101_0000110_1000111, .sts (en 2 0x05 0x06 0x47)),
    (0b101110110_00_0000101_0000110_1000111, .ldb (en 0 0x05 0x06 0x47)),
    (0b101110111_00_0000101_0000110_1000111, .stb (en 0 0x05 0x06 0x47)),
    (0b101111000_10_0000101_0000110_1000111, .stnt (en 2 0x05 0x06 0x47)),
    (0b101111001_10_0000101_0000110_1000111, .atomvAdd (en 2 0x05 0x06 0x47)),
    (0b101111010_10_0000101_0000110_1000111, .atomvMin (en 2 0x05 0x06 0x47)),
    (0b101111011_10_0000101_0000110_1000111, .atomvMax (en 2 0x05 0x06 0x47)),
    (0b101111100_10_0000101_0000110_1000111, .atomvAnd (en 2 0x05 0x06 0x47)),
    (0b101111101_10_0000101_0000110_1000111, .atomvOr (en 2 0x05 0x06 0x47)),
    (0b101111110_10_0000101_0000110_1000111, .atomvXor (en 2 0x05 0x06 0x47)),
    (0b101111111_10_0000101_0000110_1000111, .atomvXchg (en 2 0x05 0x06 0x47)),
    (0b110000000_10_0000101_0000110_1000111, .atomvCas (en 2 0x05 0x06 0x47)),
    (0b110000001_10_0000101_0000110_1000111, .atomvFadd (en 2 0x05 0x06 0x47)),
    (0b110000010_10_0000101_0000110_1000111, .atomsAdd (en 2 0x05 0x06 0x47)),
    (0b110000011_10_0000101_0000110_1000111, .atomsMin (en 2 0x05 0x06 0x47)),
    (0b110000100_10_0000101_0000110_1000111, .atomsMax (en 2 0x05 0x06 0x47)),
    (0b110000101_10_0000101_0000110_1000111, .atomsAnd (en 2 0x05 0x06 0x47)),
    (0b110000110_10_0000101_0000110_1000111, .atomsOr (en 2 0x05 0x06 0x47)),
    (0b110000111_10_0000101_0000110_1000111, .atomsXor (en 2 0x05 0x06 0x47)),
    (0b110001000_10_0000101_0000110_1000111, .atomsXchg (en 2 0x05 0x06 0x47)),
    (0b110001001_10_0000101_0000110_1000111, .atomsCas (en 2 0x05 0x06 0x47)),
    (0b110001010_10_0000101_0000110_1000111, .atomsFadd (en 2 0x05 0x06 0x47)),
    (0b110001011_00_1100000_1100000_1100000, .fenceGrp (en 0 0x60 0x60 0x60)),
    (0b110001100_00_1100000_1100000_1100000, .fenceBlk (en 0 0x60 0x60 0x60)),
    (0b110001101_00_1100000_1100000_1100000, .fenceCls (en 0 0x60 0x60 0x60)),
    (0b110001110_00_1100000_1100000_1100000, .fenceTile (en 0 0x60 0x60 0x60)),
    (0b110001111_00_1100000_1100000_1100000, .fenceDev (en 0 0x60 0x60 0x60)),
    (0b110010000_00_1100000_1100000_1100000, .fenceSys (en 0 0x60 0x60 0x60)),
    (0b110010001_00_0000101_0000110_1000111, .stcq (en 0 0x05 0x06 0x47)),
    (0b110010010_10_1100000_0000110_1000111, .pfch (en 2 0x60 0x06 0x47))] = true := by decide +kernel

theorem test_decode_copy : agree [
    (0b110100000_00_0000101_0000110_1000111, .cpy (en 0 0x05 0x06 0x47)),
    (0b110100000_01_0000101_0000110_1000111, .cpyBar (en 1 0x05 0x06 0x47)),
    (0b110100001_00_0000101_0000110_1000111, .cpyt (en 0 0x05 0x06 0x47)),
    (0b110100001_01_0000101_0000110_1000111, .cpytBar (en 1 0x05 0x06 0x47)),
    (0b110100010_10_0000101_0000110_1000111, .cpys (en 2 0x05 0x06 0x47)),
    (0b110100011_00_0000101_1100000_1100000, .cbat (en 0 0x05 0x60 0x60)),
    (0b110100100_00_1100000_0000110_1100000, .cwait (en 0 0x60 0x06 0x60)),
    (0b110100101_00_0000101_0000110_1100000, .ctest (en 0 0x05 0x06 0x60)),
    (0b110100110_00_0000101_0000110_1000111, .bari (en 0 0x05 0x06 0x47)),
    (0b110100111_00_0000101_0000110_1000111, .barx (en 0 0x05 0x06 0x47)),
    (0b110101000_00_0000101_0000110_1000111, .bara (en 0 0x05 0x06 0x47)),
    (0b110101000_01_0000101_0000110_1000111, .baraX (en 1 0x05 0x06 0x47)),
    (0b110101001_00_0000101_0000110_1000111, .barw (en 0 0x05 0x06 0x47)),
    (0b110101001_01_0000101_0000110_1000111, .barwT (en 1 0x05 0x06 0x47)),
    (0b110101010_00_1100000_0000110_1100000, .bart (en 0 0x60 0x06 0x60)),
    (0b110101011_00_1100000_0000110_1100000, .bsync (en 0 0x60 0x06 0x60)),
    (0b110101100_00_1100000_1100000_1100000, .clsync (en 0 0x60 0x60 0x60)),
    (0b110101101_10_1100000_0000110_1000111, .colr (en 2 0x60 0x06 0x47))] = true := by decide +kernel

theorem test_decode_matrix : agree [
    (0b111000000_00_0000101_1100000_1100000, .mzero (en 0 0x05 0x60 0x60)),
    (0b111000001_10_0000101_0000110_1000111, .mma (en 2 0x05 0x06 0x47)),
    (0b111000010_10_0000101_0000110_1000111, .mmaNx4I8F64 (en 2 0x05 0x06 0x47)),
    (0b111000011_10_0000101_0000110_1100000, .mld (en 2 0x05 0x06 0x60)),
    (0b111000100_10_0000101_1100000_1000111, .mst (en 2 0x05 0x60 0x47)),
    (0b111000101_10_0000101_0000110_1100000, .mrd (en 2 0x05 0x06 0x60)),
    (0b111000110_10_0000101_0000110_1100000, .mwr (en 2 0x05 0x06 0x60)),
    (0b111000111_10_0000101_0000110_1000111, .mscl (en 2 0x05 0x06 0x47)),
    (0b111001000_00_0000101_0000110_1000111, .mdesc (en 0 0x05 0x06 0x47))] = true := by decide +kernel

theorem test_decode_pool : agree [
    (0b111100000_00_0000101_0000110_1000111, .plins (en 0 0x05 0x06 0x47)),
    (0b111100001_00_0000101_0000110_1000111, .pltake (en 0 0x05 0x06 0x47)),
    (0b111100010_00_0000101_1100000_1000111, .plpeek (en 0 0x05 0x60 0x47)),
    (0b111100011_00_0000101_1100000_1000111, .plcnt (en 0 0x05 0x60 0x47)),
    (0b111100100_00_0000101_0000110_1100000, .fork (en 0 0x05 0x06 0x60)),
    (0b111100101_00_0000101_0000110_1100000, .join (en 0 0x05 0x06 0x60)),
    (0b111100110_00_1100000_0000110_1100000, .jinit (en 0 0x60 0x06 0x60))] = true := by decide +kernel

theorem test_decode_system : agree [
    (0b111110000_00_0000101_0000000_0010101, .rdsr (en 0 0x05 0x00 0x15)),
    (0b111110001_00_0000101_0000000_0010101, .wrsr (en 0 0x05 0x00 0x15)),
    (0b111110010_00_0000101_0000000_0010101, .svc (en 0 0x05 0x00 0x15)),
    (0b111110011_00_1100000_0000000_0010101, .trap (en 0 0x60 0x00 0x15)),
    (0b111110100_00_1100000_0000000_0010101, .bkpt (en 0 0x60 0x00 0x15)),
    (0b111110101_00_1100000_1100000_1100000, .rft (en 0 0x60 0x60 0x60)),
    (0b111110101_00_1100000_1110000_1100000, .rftSkip (en 0 0x60 0x70 0x60)),
    (0b111110110_00_0000101_0000110_1000111, .locq (en 0 0x05 0x06 0x47)),
    (0b111110111_00_1100000_0000110_1100000, .lwake (en 0 0x60 0x06 0x60)),
    (0b111111000_00_0000101_1100000_1100000, .clkrd (en 0 0x05 0x60 0x60)),
    (0b111111001_00_0000101_0000000_0010101, .perfrd (en 0 0x05 0x00 0x15))] = true := by decide +kernel


/-- R78, R79, R83, R84: the worked encodings of the spec, control and scalars. -/
theorem test_worked_control : agreeUnits [
    ([0x0218_307F, 0x0000_0007], .jmp (enL 0 0x60 0x60 0x7F 7)),
    ([0x0398_3060], .exit (en 0 0x60 0x60 0x60)),
    ([0x0418_3060], .yield (en 0 0x60 0x60 0x60)),
    ([0x0318_1FE0], .ret (en 0 0x60 0x3F 0x60)),
    ([0x0498_0260], .exlw (en 0 0x60 0x04 0x60)),
    ([0x0100_0381], .brv (en 0 0x00 0x07 0x01)),
    ([0x00BF_FD43], .brNz (en 1 0x7F 0x7A 0x43)),
    ([0x19B0_A277], .scmpLt (en 1 0x42 0x44 0x77)),
    ([0x1090_FFFB], .sli (en 0 0x43 0x7F 0x7B)),
    ([0b000000011_00_1100000_0000101_1111111, 3], .brx (enL 0 0x60 0x05 0x7F 3)),
    ([0b000000101_00_0000101_1100000_1111111, 9], .call (enL 0 0x05 0x60 0x7F 9))] = true := by decide +kernel

/-- Vector, floating-point and lane instructions with prefixes and literals (R84, R121, R64). -/
theorem test_worked_vector : agreeUnits [
    ([0x3081_427F, 1000], .vadd (enL 0 5 4 0x7F 1000)),
    ([0xFF80_0C80, 0x3301_8082], .vmad ⟨some { Prefix.default with d4 := 3, sat := true }, 0, 6, 1, 2, none⟩),
    ([0xFF83_8010, 0x7100_C16C], .fmul ⟨some { Prefix.default with rnd := 1, aa := true }, 0, 3, 2, 0x6C, none⟩),
    ([0xFF82_0C00, 0x7182_0082], .ffma ⟨some { Prefix.default with rnd := 1, d4 := 3 }, 0, 8, 1, 2, none⟩),
    ([0xFF8B_8000, 0x7C01_0171], .fcvt ⟨some { Prefix.default with rnd := 5 }, 0, 4, 2, 0x71, none⟩),
    ([0x7F82_82E0], .nxenc (en 0 10 5 0x60)),
    ([0x8002_4307], .nxdec (en 0 9 6 7)),
    ([0xFF91_8000, 0xA700_80E0], .lscanAdd ⟨some { Prefix.default with msk := 1 }, 0, 2, 1, 0x60, none⟩)] = true := by decide +kernel

/-- Memory, copies, tiles, pools and the system (R176, R216, R149, R318, R296, R364). -/
theorem test_worked_memory : agreeUnits [
    ([0xB800_4001], .ldv (en 0 1 0 1)),
    ([0xB880_C004], .stv (en 0 3 0 4)),
    ([0xB821_21FF, 0xC800_0040], .ldv (enL 1 4 0x43 0x7F 0xC800_0040)),
    ([0xFF91_8000, 0xC891_0105], .stcq ⟨some { Prefix.default with msk := 1 }, 0, 0x44, 2, 5, none⟩),
    ([0xD000_41FF, 0x180], .cpy (enL 0 1 3 0x7F 0x180)),
    ([0xD310_A381], .bari (en 0 0x42 0x47 1)),
    ([0xD020_41C4], .cpyBar (en 1 1 3 0x44)),
    ([0xE080_A246], .mma (en 0 2 0x44 0x46)),
    ([0xE140_644A], .mmaNx4I8F64 (en 2 1 0x48 0x4A)),
    ([0xE000_B060], .mzero (en 0 2 0x60 0x60)),
    ([0xF000_C207], .plins (en 0 3 4 7)),
    ([0xF081_0107], .pltake (en 0 4 2 7)),
    ([0xF111_B007], .plpeek (en 0 0x46 0x60 7)),
    ([0xF191_B007], .plcnt (en 0 0x46 0x60 7)),
    ([0xF210_A460], .fork (en 0 0x42 0x48 0x60)),
    ([0xF290_E560], .join (en 0 0x43 0x4A 0x60)),
    ([0xF318_2560], .jinit (en 0 0x60 0x4A 0x60))] = true := by decide +kernel

theorem test_worked_system : agreeUnits [
    ([0xF811_0000], .rdsr (en 0 0x44 0 0)),
    ([0xF890_8011], .wrsr (en 0 0x42 0 0x11)),
    ([0xF912_0003], .svc (en 0 0x48 0 3)),
    ([0xF998_0005], .trap (en 0 0x60 0 5)),
    ([0xFA98_3060], .rft (en 0 0x60 0x60 0x60)),
    ([0xFB11_6303], .locq (en 0 0x45 0x46 3)),
    ([0xFB98_2160], .lwake (en 0 0x60 0x42 0x60)),
    ([0xFC12_B060], .clkrd (en 0 0x4A 0x60 0x60)),
    ([0xFC93_0002], .perfrd (en 0 0x4C 0 2))] = true := by decide +kernel

/-- A prefix before a prefix, a header in the stream, and a reserved opcode of two families, decode to illegal words, each by its
reason (R84, R91, R94). -/
theorem test_decode_refuses : ([[0xFF80_0000, 0xFF80_0000], [0xFF00_0000], [0x0780_0000], [0xCF00_0000]].map
    (fun l => match decodeUnits l with | .ok (.illegalInstruction w, _) => staticReason (.illegalInstruction w) | _ => none)) =
    [some 6, some 1, some 4, some 4] := by decide +kernel

/-- A prefix or a literal code at the end of the units is no instruction. -/
theorem test_decode_stops_short : [[], [0xFF80_0000], [0x3081_427F]].all
    (fun l => match decodeUnits l with | .ok _ => false | .error _ => true) = true := by decide +kernel

/-! ## Ill-formed terms -/

/-- A prefix's fields from the default. -/
def pf (f : Prefix → Prefix) (v : BitVec 2) (d a b : Code) : Enc := ⟨some (f Prefix.default), v, d, a, b, none⟩

/-- One term for each check of a word (R85, R80, R82, R83, R92), with its reason (R94). -/
theorem test_ill_formed : ([
    (.smov (en 1 0x42 0x44 0x60), 5), (.smulh (en 2 0x42 0x44 0x46), 5),
    (.sadd (pf id 0 0x42 0x44 0x45), 6), (.fadd (pf (fun p => { p with rnd := 7 }) 0 1 2 3), 6),
    (.vadd (pf (fun p => { p with rnd := 1 }) 0 1 2 3), 6), (.vand (pf (fun p => { p with sat := true }) 0 1 2 3), 6),
    (.vadd (pf (fun p => { p with na := true }) 0 1 2 3), 6), (.vadd (pf (fun p => { p with d4 := 3 }) 0 1 2 3), 6),
    (.vadd (pf (fun p => { p with xl := 13 }) 0 1 2 3), 6), (.vadd (pf (fun p => { p with xl := 1 }) 0 1 0x44 3), 6),
    (.stv (pf (fun p => { p with zero := true }) 0 3 0 4), 6), (.frcp (pf (fun p => { p with nb := true }) 0 1 2 0x60), 6),
    (.vadd (en 0 1 2 0x78), 7), (.sadd (en 0 0x42 0x7E 0x44), 7),
    (.vadd (en 0 0x41 2 3), 8), (.sadd (en 0 5 0x44 0x44), 8), (.sadd (en 0 0x42 5 0x44), 8), (.nop (en 0 1 0 0), 8),
    (.kand (en 0 1 2 8), 8), (.vsel (pf (fun p => { p with d4 := 9 }) 0 1 2 3), 8),
    (.vmad (pf (fun p => { p with d4 := 0x6A - 0x10 + 0x1E }) 0 1 2 3), 7),
    (.vadd (en 2 1 2 4), 9), (.vadd (en 2 2 3 4), 9), (.sadd (en 2 0x42 0x44 0x45), 9), (.exlw2 (en 0 0x60 3 0x60), 9),
    (.vadd (enL 0 1 0x7F 0x7F 0), 10), (.sadd (enL 0 0x42 0x7F 0x7F 0), 10),
    (.illegalInstruction (.opcode 0x1D0 (en 0 0 0 0)), 4)] : List (Instr × Nat)).all
    (fun p => staticReason p.1 == some p.2 && !wellFormed p.1) = true := by decide +kernel

/-- A literal that is missing, or that no code calls for, is ill-formed. -/
theorem test_literal_fits :
    wellFormed (.vadd (en 0 1 2 0x7F)) = false ∧ wellFormed (.vadd (enL 0 1 2 3 7)) = false ∧
    wellFormed (.vadd (enL 0 1 2 0x7F 7)) = true ∧ wellFormed (.sli (enL 0 0x43 0x7F 0x7B 0)) = false ∧
    wellFormed (.jmp (en 0 0x60 0x60 0x7F)) = false := by decide +kernel

end Sys2Proof.Tests
end

