-- ==== Sys2Proof/Tests/Witness.lean ====
section
/-! SUPPORT. Witnesses: for each statement, concrete states and operands that meet the hypotheses of its clauses together. -/

namespace Sys2Proof.Tests

set_option maxRecDepth 100000
set_option Elab.async false

open Sys2Proof.Machine

/-! ## Small states -/

/-- Fields without prefix or literal; with a literal; with a prefix. -/
def wen (v : BitVec 2) (d a b : Code) : Enc := ⟨none, v, d, a, b, none⟩
def wenL (v : BitVec 2) (d a b : Code) (l : Word) : Enc := ⟨none, v, d, a, b, some l⟩
def wenP (f : Prefix → Prefix) (v : BitVec 2) (d a b : Code) : Enc := ⟨some (f Prefix.default), v, d, a, b, none⟩

/-- A raw handle: kind, space, rights, base / 16 and length. -/
def rawHandle (kind space rights base len : Nat) : BitVec 256 :=
  BitVec.ofNat 256 (kind * 2 ^ 253 + space * 2 ^ 250 + rights * 2 ^ 247 + base * 2 ^ 168 + len * 2 ^ 111)

/-- A launch with a scratchpad and slices, its code (h3), 65,536 global bytes from virtual 0x10000 (h4), a .f32 tensor of 16 elements in
the block scratchpad (h5), a pool (h6), and `more`. -/
def wLaunch (trap : Word) (more : List (BitVec 256)) : Launch :=
  { loadedLaunch with
    desc := { loadedDesc with spad := 32, slice := 16, trap := trap }
    handles := [loadedHandle, rawHandle 1 0 7 0x1000 65536, rawHandle 2 3 7 0 0 ||| BitVec.ofNat 256 (2 ^ 226 + 15 * 2 ^ 88),
      rawHandle 3 1 7 0 64] ++ more }

/-- The launch of `withUnits` as `l` with the given scalars and vector registers (the same word in each lane), every feature accepted,
and its global page in the tile's TLB. -/
def mach (l : Launch) (sc vs : List (Nat × Word)) (units : List Word) : State :=
  let s := State.reset.withUnits units
  let g := loadedGroup s.seq
  { s with
    launches := Map.put s.launches 0 l
    groups := Map.put s.groups 0 { g with s := sc, v := vs.map (fun p => (p.1, List.replicate 96 p.2)) }
    regs := { s.regs with accept := BitVec.allOnes 7 }
    tlb2 := [⟨0, 0, 0x10000, 65536, 0x200000, true, true, true, .rc, List.range 16⟩] }

/-- The usual one. -/
def mch (sc vs : List (Nat × Word)) (units : List Word) : State := mach (wLaunch 0 []) sc vs units

/-- A read at issue answers one byte for each place. -/
theorem readSync_length {s s' : State} {c : Iss} {acq : Option Scope} {ls : List (Loc × PageKind)} {bs : List Byte}
    (h : s.readSync c acq ls = .got s' bs) : bs.length = ls.length := by
  unfold State.readSync at h
  dsimp only at h
  split at h
  · cases h; simp
  · rename_i x hx
    exact absurd h (hx _ _)

/-- A property of the issuing fragment, from evaluation. -/
theorem meets {s : State} {i : Instr} {P : Iss → Prop} [DecidablePred P]
    (h : (match s.issuer? with | some c => decide (s.reason c i none = none ∧ P c) | none => false) = true) :
    ∃ c, s.legal c i ∧ P c := by
  cases e : s.issuer? with
  | none => rw [e] at h; exact absurd h Bool.false_ne_true
  | some c => rw [e] at h; exact ⟨c, ⟨e, (of_decide_eq_true h).1⟩, (of_decide_eq_true h).2⟩

theorem issues {s : State} {P : Iss → Prop} [DecidablePred P]
    (h : (match s.issuer? with | some c => decide (P c) | none => false) = true) : ∃ c, s.issuer? = some c ∧ P c := by
  cases e : s.issuer? with
  | none => rw [e] at h; exact absurd h Bool.false_ne_true
  | some c => rw [e] at h; exact ⟨c, rfl, of_decide_eq_true h⟩

/-- The instruction may issue. -/
def allowed (s : State) (i : Instr) : Bool :=
  match s.issuer? with | some c => decide (s.reason c i none = none) | none => false

theorem legal_of {s : State} {i : Instr} (h : allowed s i = true) : ∃ c, s.legal c i := by
  unfold allowed at h
  cases e : s.issuer? with
  | none => rw [e] at h; exact absurd h Bool.false_ne_true
  | some c => rw [e] at h; exact ⟨c, e, of_decide_eq_true h⟩

/-- A property of what a read at issue gives. -/
def gotAnd (r : Sync) (p : State → List Byte → Bool) : Bool := match r with | .got s b => p s b | _ => false

theorem got_of {r : Sync} {p : State → List Byte → Bool} (h : gotAnd r p = true) : ∃ s b, r = .got s b ∧ p s b = true := by
  cases r with
  | got s b => exact ⟨s, b, rfl, h⟩
  | wait => exact absurd h Bool.false_ne_true
  | poison => exact absurd h Bool.false_ne_true

/-- Room in every cellar, when few guests are anywhere. -/
theorem room_of {s : State} {n : Nat} (h : s.guests.length + n ≤ cellarLines) : s.cellarRoom n := fun _ =>
  le_trans (Nat.add_le_add_right (List.length_filter_le _ _) n) h

/-- No window is enabled, so no address lies under an alias. -/
theorem noAlias_of {s : State} (h : s.regs.windows.all (fun w => !w.en) = true) (a : Nat) : s.aliasOf a = none := by
  unfold State.aliasOf
  rw [List.find?_eq_none]
  intro w hw
  have := List.all_eq_true.1 h w hw
  simp_all

/-! ## The step, decoding and memory -/

/-- The fragment that issues has nobody before it in its sector. -/
theorem alone_of {u : State} {cur : Cursor} (h : u.turns.all (fun x => x.cur == cur) = true) :
    ∀ m ∈ u.turns, ∀ x ∈ u.turns, m.cur = cur → x.cur ≠ cur → x.sector = m.sector → 2 ≤ x.keys.getD 2 2 ∨ u.tryTurn exec x = none :=
  fun _ _ x hx _ hn _ => absurd (eq_of_beq (List.all_eq_true.1 h x hx)) hn

/-- A fragment about to issue a comparison. -/
theorem witness_StepRunsDecodedInstruction : ∃ c i r,
    let s := mch [] [] [0x19B0_A277, 0]
    let u := { s.tick with agenda := [], cur := ⟨0, 0⟩ }
    s.agenda = .issue ⟨0, 0⟩ :: [] ∧ u.issuer? = some c ∧ u.ready c = true ∧ u.codeFrozen c = false ∧ c.f.latch = [] ∧
      (∀ e, u.blockEnd c c.f = some e → c.f.pc < e) ∧
      decodeUnits (u.unitsFrom c c.f.hnd 3 c.f.pc).1 = .ok (i, r) ∧ c.gated (some i) = false ∧ u.holds c i = false ∧
      ∀ m ∈ u.turns, ∀ x ∈ u.turns, m.cur = ⟨0, 0⟩ → x.cur ≠ ⟨0, 0⟩ → x.sector = m.sector → 2 ≤ x.keys.getD 2 2 ∨ u.tryTurn exec x = none := by
  have h : (let s := mch [] [] [0x19B0_A277, 0]
      let u := { s.tick with agenda := [], cur := ⟨0, 0⟩ }
      match u.issuer? with
      | some c => match decodeUnits (u.unitsFrom c c.f.hnd 3 c.f.pc).1, u.blockEnd c c.f with
        | .ok (i, _), some e => decide (u.ready c = true ∧ u.codeFrozen c = false ∧ c.f.latch = [] ∧ c.f.pc < e ∧ c.gated (some i) = false ∧
            u.holds c i = false ∧ u.turns.all (fun x => x.cur == ⟨0, 0⟩) = true)
        | _, _ => false
      | none => false) = true := by decide +kernel
  generalize hs : mch [] [] [0x19B0_A277, 0] = s at h ⊢
  have ha : s.agenda = .issue ⟨0, 0⟩ :: [] := by rw [← hs]; rfl
  dsimp only at h ⊢
  split at h
  · rename_i c hc
    split at h
    · rename_i i r e hd he
      have h := of_decide_eq_true h
      exact ⟨c, i, r, ha, hc, h.1, h.2.1, h.2.2.1, fun e' h' => by rw [he] at h'; cases h'; exact h.2.2.2.1, hd, h.2.2.2.2.1,
        h.2.2.2.2.2.1, alone_of h.2.2.2.2.2.2⟩
    · exact absurd h Bool.false_ne_true
  · exact absurd h Bool.false_ne_true

/-- A fragment within an EXLW, at its second word. -/
def wInList : State :=
  (mch [] [] [0]).modFrag ⟨0, 0⟩ (fun f => { f with latch := [⟨0x3081_4283, false, 1⟩, ⟨0x3081_4284, false, 2⟩], latchAt := 1 })

theorem witness_StepRunsListedWord : ∃ c w,
    let u := { wInList.tick with agenda := [], cur := ⟨0, 0⟩ }
    wInList.agenda = .issue ⟨0, 0⟩ :: [] ∧ u.issuer? = some c ∧ u.ready c = true ∧ u.codeFrozen c = false ∧ c.f.latch[c.f.latchAt]? = some w ∧
      c.gated (some (laneInstr w.value w.wide)) = false ∧ u.holds c (laneInstr w.value w.wide) = false ∧
      ∀ m ∈ u.turns, ∀ x ∈ u.turns, m.cur = ⟨0, 0⟩ → x.cur ≠ ⟨0, 0⟩ → x.sector = m.sector → 2 ≤ x.keys.getD 2 2 ∨ u.tryTurn exec x = none := by
  obtain ⟨c, h, h1, h2, h3, h4, h5, h6⟩ := issues (s := { wInList.tick with agenda := [], cur := ⟨0, 0⟩ }) (P := fun c =>
    let u := { wInList.tick with agenda := [], cur := ⟨0, 0⟩ }
    u.ready c = true ∧ u.codeFrozen c = false ∧ c.f.latch[c.f.latchAt]? = some ⟨0x3081_4284, false, 2⟩ ∧
      c.gated (some (laneInstr 0x3081_4284 false)) = false ∧ u.holds c (laneInstr 0x3081_4284 false) = false ∧
      u.turns.all (fun x => x.cur == ⟨0, 0⟩) = true) (by decide +kernel)
  exact ⟨c, ⟨0x3081_4284, false, 2⟩, rfl, h, h1, h2, h3, h4, h5, alone_of h6⟩

theorem witness_DecodeOfEncodeIsIdentity :
    (∃ i, i = Instr.vadd (wenL 0 5 4 0x7F 1000) ∧ WellFormed i ∧ encode i ≠ []) ∧
    (∃ i, i = Instr.sli (wen 2 0x5E 0x7F 0x7F) ∧ WellFormed i ∧ encode i ≠ []) :=
  ⟨⟨_, rfl, by decide +kernel⟩, ⟨_, rfl, by decide +kernel⟩⟩

theorem witness_UnassignedOpcodeRaisesReasonFour :
    (Map.find? opcodeMap (0x00B#9).toNat).isNone = true ∧ (0x1FD#9).toNat < 0x1FE ∧ (Map.find? opcodeMap (0x1FD#9).toNat).isNone = true ∧
      ∃ c, (mch [] [] [0]).issuer? = some c ∧ True :=
  ⟨by decide +kernel, by decide, by decide +kernel, issues (by decide +kernel)⟩

/-- A canonical state whose step goes on. -/
theorem witness_StepKeepsMemoryCanonical : (mch [] [] [0x19B0_A277, 0]).memOk ∧
    ∃ t, step (mch [] [] [0x19B0_A277, 0]) = .next t := by
  refine ⟨by decide +kernel, ?_⟩
  have h : (match step (mch [] [] [0x19B0_A277, 0]) with | .next _ => true | _ => false) = true := by decide +kernel
  cases e : step (mch [] [] [0x19B0_A277, 0]) with
  | next t => exact ⟨t, rfl⟩
  | fault _ => rw [e] at h; exact absurd h Bool.false_ne_true
  | refused _ => rw [e] at h; exact absurd h Bool.false_ne_true

theorem witness_EveryStepGoesOn : ∃ c, (mch [] [] [0]).issuer? = some c ∧ True := issues (by decide +kernel)

/-! ## Scalars, vectors and masks -/

theorem witness_ScalarIntegerResults :
    (∃ f, scalarOp (.sadd (wen 2 0x5C 0x40 0x42)) = some (wen 2 0x5C 0x40 0x42, false, f) ∧
      ∃ c, (mch [(0, 7)] [] [0]).legal c (.sadd (wen 2 0x5C 0x40 0x42))) ∧
    (∃ f, scalarOp (.sshl (wen 0 0x60 0x40 0x71)) = some (wen 0 0x60 0x40 0x71, true, f) ∧
      ∃ c, (mch [(0, 7)] [] [0]).legal c (.sshl (wen 0 0x60 0x40 0x71))) ∧
    (scalarCmp (.scmpGe (wen 3 0x5F 0x40 0x60)) = some (wen 3 0x5F 0x40 0x60, .ge) ∧
      ∃ c, (mch [(0, 7)] [] [0]).legal c (.scmpGe (wen 3 0x5F 0x40 0x60))) :=
  ⟨⟨_, rfl, legal_of (by decide +kernel)⟩, ⟨_, rfl, legal_of (by decide +kernel)⟩, rfl, legal_of (by decide +kernel)⟩

theorem witness_ScalarImmediateSelectAndMaskReads :
    (∃ c, (mch [] [] [0]).legal c (.sli (wen 2 0x40 0x7F 0x7F))) ∧ (∃ c, (mch [] [] [0]).legal c (.ssel (wen 2 0x42 0x44 0x46))) ∧
    (∃ c, (mch [] [] [0]).legal c (.k2s (wen 0 0x45 0 0x71))) ∧ (∃ c, (mch [] [] [0]).legal c (.kpop (wen 0 0x45 7 0x60))) :=
  ⟨legal_of (by decide +kernel), legal_of (by decide +kernel), legal_of (by decide +kernel), legal_of (by decide +kernel)⟩

theorem witness_VectorIntegerResults :
    (∃ f, vectorOp (.vadd (wen 2 62 60 0x7F)) = some (wen 2 62 60 0x7F, false, f) ∧
      (∃ c, (mch [] [(60, 1)] [0]).legal c (.vadd (wenL 2 62 60 0x7F 5))) ∧ (wen 2 62 60 0x7F).p.sat = false) ∧
    (∃ f, vectorOp (.vbfe (wen 1 0 60 0x40)) = some (wen 1 0 60 0x40, true, f) ∧
      (∃ c, (mch [(0, 0x0800)] [(60, 1)] [0]).legal c (.vbfe (wen 1 0 60 0x40))) ∧ (wen 1 0 60 0x40).p.sat = false) ∧
    (∃ f, satOp (.vdot4 (wenP (fun p => { p with sat := true, d4 := 3 }) 1 0 1 2)) =
        some (wenP (fun p => { p with sat := true, d4 := 3 }) 1 0 1 2, false, f) ∧
      (∃ c, (mch [] [(1, 0xFFFFFFFF)] [0]).legal c (.vdot4 (wenP (fun p => { p with sat := true, d4 := 3 }) 1 0 1 2))) ∧
      (wenP (fun p => { p with sat := true, d4 := 3 }) 1 0 1 2).p.sat = true) :=
  ⟨⟨_, rfl, legal_of (by decide +kernel), rfl⟩, ⟨_, rfl, legal_of (by decide +kernel), rfl⟩,
    ⟨_, rfl, legal_of (by decide +kernel), rfl⟩⟩

theorem witness_VectorCarrySelectPackUnpack :
    (∃ c, (mch [] [] [0]).legal c (.vaddc (wen 1 2 4 6))) ∧
    (∃ c, (mch [] [] [0]).legal c (.vsel (wenP (fun p => { p with d4 := 7 }) 0 2 4 6))) ∧
    (∃ c, (mch [] [] [0]).legal c (.vpack (wenP (fun p => { p with sat := true }) 1 2 4 6))) ∧
    (∃ c, (mch [] [] [0]).legal c (.vunpk (wen 1 2 4 0x60))) :=
  ⟨legal_of (by decide +kernel), legal_of (by decide +kernel), legal_of (by decide +kernel), legal_of (by decide +kernel)⟩

theorem witness_VectorComparisonSetsMask :
    vectorCmp (.vcmpLt (wenP (fun p => { p with zero := true }) 3 7 2 3)) =
      some (wenP (fun p => { p with zero := true }) 3 7 2 3, .lt) ∧
    (∃ c, (mch [] [] [0]).legal c (.vcmpLt (wenP (fun p => { p with zero := true }) 3 7 2 3))) ∧
    (∃ c, (mch [] [] [0]).issuer? = some c ∧ 8 ≤ (wen 3 8 2 3).dst.toNat ∧ vectorCmp (.vcmpLt (wen 3 8 2 3)) = some (wen 3 8 2 3, .lt)) :=
  ⟨rfl, legal_of (by decide +kernel), issues (by decide +kernel)⟩

/-- What remains of a fragment: every lane, some, or none, with no record to complete, and its next instruction in the same block; or at the
block's end. -/
theorem witness_LanesLeave :
    ∃ c, (mch [] [] [0]).legal c (.vcmpLt (wen 3 0 2 3)) ∧ c.g.topDefer c.cur.ent = none ∧ c.f.fe = none ∧ c.f.latch = [] ∧
      (mch [] [] [0]).blockEnd c c.f = some 64 ∧ (c.f.onward 1).pc < 64 ∧ c.f.act = BitVec.allOnes 96 ∧
      (((c.g.setEntry 0 (.frag { c.f.onward 1 with act := 1 })).without 0 none (BitVec.allOnes 96 - 1) 0).covered).isNone = true ∧
      (((c.g.setEntry 0 .free).without 0 none (BitVec.allOnes 96) 0).covered).isNone = true :=
  meets (s := mch [] [] [0]) (i := .vcmpLt (wen 3 0 2 3)) (P := fun c => c.g.topDefer c.cur.ent = none ∧ c.f.fe = none ∧ c.f.latch = [] ∧
      (mch [] [] [0]).blockEnd c c.f = some 64 ∧ (c.f.onward 1).pc < 64 ∧ c.f.act = BitVec.allOnes 96 ∧
      (((c.g.setEntry 0 (.frag { c.f.onward 1 with act := 1 })).without 0 none (BitVec.allOnes 96 - 1) 0).covered).isNone = true ∧
      (((c.g.setEntry 0 .free).without 0 none (BitVec.allOnes 96) 0).covered).isNone = true) (by decide +kernel)

theorem witness_MaskOperationsWriteOwnedLanes :
    (∃ f, maskBitOp (.kxor (wen 0 7 0 1)) = some (wen 0 7 0 1, f) ∧ ∃ c, (mch [] [] [0]).legal c (.kxor (wen 0 7 0 1))) ∧
    (∃ c, (mch [] [] [0]).legal c (.s2k (wen 0 3 0x40 0x71))) :=
  ⟨⟨_, rfl, legal_of (by decide +kernel)⟩, legal_of (by decide +kernel)⟩

/-! ## Floating point and lanes -/

/-- A launch with floating-point exceptions enabled. -/
def fpeLaunch (fpe : BitVec 5) : Launch := { wLaunch 0 [] with desc := { (wLaunch 0 []).desc with fpe := fpe } }

/-- Addition of finite numbers, in a pair of registers, with every exception enabled. -/
theorem witness_FloatOperationResults :
    let e := wenP (fun p => { p with rnd := 3 }) 3 62 0 2
    (∃ op, floatOp (.fadd e) = some (e, op)) ∧
    ∃ c, (mach (fpeLaunch 0x1F) [] [(1, 0x3FF00000), (3, 0x3FF00000)] [0]).legal c (.fadd e) ∧
      c.quietFor e (fun L => (floatLane e (c.floatElem e (fun m _ a b _ => opAdd m a b)) L).2) := by
  refine ⟨⟨_, rfl⟩, meets (P := fun c => ∀ L, L < 96 → bitOf (c.contrib (c.active _)) L → _ &&& c.l.desc.fpe = 0) ?_⟩
  decide +kernel

theorem witness_FloatFormsAndComparisonsComplete :
    (∃ c, (mch [] [(1, 0x7F800001)] [0]).legal c (.fmin (wen 0 0 1 2)) ∧ c.l.desc.fpe = 0) ∧
    (∃ c, (mch [] [] [0]).legal c (.fcvt (wen 0 62 1 0x72)) ∧ c.l.desc.fpe = 0) ∧
    (∃ c, (mch [] [] [0]).legal c (.nxenc (wen 0 10 5 0x60)) ∧ c.l.desc.fpe = 0) ∧
    (∃ c, (mch [] [] [0]).legal c (.fcmpUn (wen 1 7 1 2)) ∧ c.l.desc.fpe = 0) :=
  ⟨meets (by decide +kernel), meets (by decide +kernel), meets (by decide +kernel), meets (by decide +kernel)⟩

/-- A division by zero with DZ enabled. -/
theorem witness_EnabledExceptionTraps :
    let e := wen 0 0 1 2
    ∃ c, (mach (fpeLaunch 2) [] [(1, 0x3F800000)] [0]).legal c (.fdiv e) ∧
      ¬ c.quietFor e (fun L => (floatLane e (c.floatElem e (fun _ _ a b _ => opDiv a b)) L).2) := by
  refine meets (P := fun c => ¬ ∀ L, L < 96 → bitOf (c.contrib (c.active _)) L → _ &&& c.l.desc.fpe = 0) ?_
  decide +kernel

theorem witness_SpecialValuesOfMinimumAndRounding :
    (fmt32.unpack 0x7FC00001).isNan = true ∧ (fmt32.unpack 0x7F800001).isNan = true ∧ (fmt32.unpack 0x3F800000).isNan = false ∧
    (∃ e e', fmt32.unpack 0x80000000 = .fin true 0 e ∧ fmt32.unpack 0 = .fin false 0 e') := by
  refine ⟨by decide +kernel, by decide +kernel, by decide +kernel, _, _, rfl, rfl⟩

theorem witness_ReductionScanAndMatchResults :
    (∃ f z, reduceOp (.lredMin (wen 3 0 1 0x60)) = some (wen 3 0 1 0x60, false, f, z) ∧
      (∃ c, (mch [] [(1, 7)] [0]).legal c (.lredMin (wen 3 0 1 0x60))) ∧ (wen 3 0 1 0x60).p.sat = false) ∧
    (∃ c, (mch [] [(2, 0x7FFFFFFF)] [0]).legal c (.lscanAdd (wenP (fun p => { p with sat := true }) 2 62 2 0x60))) :=
  ⟨⟨_, _, rfl, legal_of (by decide +kernel), rfl⟩, legal_of (by decide +kernel)⟩

theorem witness_LaneExchangeResults :
    (∃ f, exchangeLane (.lrot (wen 2 62 60 0x43)) = some (wen 2 62 60 0x43, f) ∧
      ∃ c, (mch [(3, 0xFFFFFFFF)] [(60, 1)] [0]).legal c (.lrot (wen 2 62 60 0x43))) ∧
    (∃ c, (mch [] [(1, 7)] [0]).legal c (.lmatch (wen 0 2 1 0x60))) ∧ (∃ c, (mch [] [(1, 7)] [0]).legal c (.lfirst (wen 0 2 1 0x60))) :=
  ⟨⟨_, rfl, legal_of (by decide +kernel)⟩, legal_of (by decide +kernel), legal_of (by decide +kernel)⟩
/-! ## Memory instructions -/

/-- 64-bit elements of all 96 lanes up to the end of the block scratchpad (h1), and of a lane's whole slice; the global acquire. -/
theorem witness_LoadsEnterIssueQueue :
    (∃ x, laneLoad (.ldv (wen 1 62 0x40 1)) = some x ∧
      ∃ c, (mch [(0, 4088)] [] [0]).legal c (.ldv (wen 1 62 0x40 1)) ∧
        ∀ L, L < 96 → bitOf (c.active x.e) L → bitOf c.real L → x.cause (mch [(0, 4088)] [] [0]) c .load L = none) ∧
    (∃ x, laneLoad (.ldb (wen 0 0x60 0x60 4)) = some x ∧
      ∃ c, (mch [] [] [0]).legal c (.ldb (wen 0 0x60 0x60 4)) ∧
        ∀ L, L < 96 → bitOf (c.active x.e) L → bitOf c.real L → x.cause (mch [] [] [0]) c .load L = none) ∧
    (∃ c, (mch [(3, 60)] [] [0]).legal c (.lds (wen 3 0x45 0x43 0)) ∧
      (⟨wen 3 0x45 0x43 0, fun c _ => c.off (wen 3 0x45 0x43 0) 0, false, 1, 1, none⟩ : LaneAccess).cause (mch [(3, 60)] [] [0]) c .load 0 = none) := by
  refine ⟨⟨_, rfl, meets ?_⟩, ⟨_, rfl, meets ?_⟩, meets ?_⟩ <;> decide +kernel

theorem witness_StoresEnterWriteQueues :
    (∃ x, laneStore (.stv (wen 1 62 0x40 1)) = some x ∧
      ∃ c, (mch [(0, 4088)] [] [0]).legal c (.stv (wen 1 62 0x40 1)) ∧
        ∀ L, L < 96 → (bitOf (c.active x.e) L && bitOf c.real L) = true → x.cause (mch [(0, 4088)] [] [0]) c .store L = none) ∧
    (∃ x, laneStore (.stnt (wen 0 5 1 4)) = some x ∧
      ∃ c, (mch [] [(1, 65532)] [0]).legal c (.stnt (wen 0 5 1 4)) ∧
        ∀ L, L < 96 → (bitOf (c.active x.e) L && bitOf c.real L) = true → x.cause (mch [] [(1, 65532)] [0]) c .store L = none) ∧
    (∃ x, laneStore (.stb (wen 0 5 0x60 4)) = some x ∧
      ∃ c, (mch [] [] [0]).legal c (.stb (wen 0 5 0x60 4)) ∧
        ∀ L, L < 96 → (bitOf (c.active x.e) L && bitOf c.real L) = true → x.cause (mch [] [] [0]) c .store L = none) ∧
    (∃ c, (mch [(3, 60)] [] [0]).legal c (.sts (wen 0 0x42 0x43 0)) ∧
      (⟨wen 0 0x42 0x43 0, fun c _ => c.off (wen 0 0x42 0x43 0) 0, false, 4, 1, none⟩ : LaneAccess).cause (mch [(3, 60)] [] [0]) c .store 0 = none) := by
  refine ⟨⟨_, rfl, meets ?_⟩, ⟨_, rfl, meets ?_⟩, ⟨_, rfl, meets ?_⟩, meets ?_⟩ <;> decide +kernel

theorem witness_AtomicsEnterIssueQueue :
    (atomForm (.atomvCas (wen 2 60 0x40 4)) = some (wen 2 60 0x40 4, .cas, true) ∧
      ∃ c, (mch [(0, 65528)] [] [0]).legal c (.atomvCas (wen 2 60 0x40 4)) ∧ ∀ L ∈ (List.range 96).filter (fun L =>
          bitOf (c.active (wen 2 60 0x40 4)) L && bitOf c.real L),
        (⟨wen 2 60 0x40 4, fun c L => c.off (wen 2 60 0x40 4) L, true, 8, 8, none⟩ : LaneAccess).cause (mch [(0, 65528)] [] [0]) c .atomic L = none) ∧
    (atomForm (.atomsAdd (wen 1 0x45 0x40 1)) = some (wen 1 0x45 0x40 1, .add, false) ∧
      ∃ c, (mch [(0, 4092)] [] [0]).legal c (.atomsAdd (wen 1 0x45 0x40 1)) ∧ ∀ L ∈ [0],
        (⟨wen 1 0x45 0x40 1, fun c _ => c.off (wen 1 0x45 0x40 1) 0, false, 4, 4, none⟩ : LaneAccess).cause (mch [(0, 4092)] [] [0]) c .atomic L = none) := by
  refine ⟨⟨rfl, meets ?_⟩, rfl, meets ?_⟩ <;> decide +kernel

theorem witness_FencesQueueAppendAndPrefetch :
    (fenceForm (.fenceSys (wen 0 0x60 0x60 0x60)) = some (wen 0 0x60 0x60 0x60, .sys) ∧
      ∃ c, (mch [] [] [0]).legal c (.fenceSys (wen 0 0x60 0x60 0x60))) ∧
    (∃ c, (mch [(4, 65532), (5, 256)] [(2, 9)] [0]).legal c (.stcq (wen 0 0x44 2 4)) ∧
      (⟨wen 0 0x44 2 4, fun c _ => ((c.s 4).toNat : Int), false, 4, 4, none⟩ : LaneAccess).cause
        (mch [(4, 65532), (5, 256)] [(2, 9)] [0]) c .atomic 0 = none) ∧
    (∃ c, (mch [] [] [0]).legal c (.pfch (wen 1 0x60 1 4))) := by
  refine ⟨⟨rfl, legal_of ?_⟩, meets ?_, legal_of ?_⟩ <;> decide +kernel

/-! ## The ordering machine -/

/-- A write of one byte to line `line` of a space, by the group of `mch`. -/
def wByte (sp : Space) (line : Nat) (ord : PageKind) : WEv := ⟨1, 0, 0, 0, 0, sp, line, ord, none, [(line + 127, 0xAB)], [], [], false, (0, 0)⟩

theorem tidy_of {s : State} {w : WEv} (hg : s.guests = []) (h : s.memOk ∧ w.line % 128 = 0 ∧
    (∀ p ∈ w.bytes, lineOf p.1 = w.line ∧ s.aliasOf p.1 = none)) : s.tidy w := by
  refine ⟨h.1, h.2.1, h.2.2, room_of (by rw [hg]; decide), ?_⟩
  rw [hg]
  intro g hm
  cases hm

theorem witness_WritesRiseToMemory :
    (let w := wByte .spad 0 .rc
     let s := { mch [] [] [0] with sq := [w] }
     s.sq.find? (fun x => x.id == w.id) = some w ∧ s.mayRise w ∧ s.memOk ∧ w.sp ≠ .glob ∧ s.answers ⟨w.sp, w.line⟩ = true) ∧
    (let w := wByte .glob 0x200000 .rc
     let s := { mch [] [] [0] with sq := [w] }
     s.sq.find? (fun x => x.id == w.id) = some w ∧ s.mayRise w ∧ s.tidy w ∧ w.sp = .glob ∧ w.ord ≠ .so) ∧
    (let w := wByte .glob 0x200000 .so
     let s := { mch [] [] [0] with sq := [w] }
     s.sq.find? (fun x => x.id == w.id) = some w ∧ s.mayRise w ∧ s.tidy w ∧ w.sp = .glob ∧ w.ord = .so ∧
       s.answers ⟨.glob, w.line⟩ = true ∧ s.soBefore w.gid w.id = false ∧ s.preceded w = false ∧
       knownIn (s.clv ++ s.cbuf) w.gid w.id w.sp (w.bytes.map Prod.fst) = false) ∧
    (let w := wByte .glob 0x201000 .rc
     let s := { mch [] [] [0] with clv := [w] }
     s.clv.find? (fun x => x.id == w.id) = some w ∧ s.tidy w ∧ s.answers ⟨.glob, w.line⟩ = true ∧ s.preceded w = false ∧ w.sp = .glob ∧
       w.bytes ≠ [] ∧ s.homeTile w.line ≠ w.tile ∧ w.line ∉ s.poison) ∧
    (let w := wByte .glob 0x200000 .rc
     let s := { mch [] [] [0] with cbuf := [w] }
     s.cbuf.find? (fun x => x.id == w.id) = some w ∧ s.tidy w ∧ s.answers ⟨.glob, w.line⟩ = true ∧ s.ntVisible w = true ∧
       s.before w.gid w.id .glob (w.bytes.map Prod.fst) = false ∧ s.preceded w = false) := by
  unfold State.mayRise
  refine ⟨by decide +kernel, ⟨rfl, by decide +kernel, tidy_of rfl (by decide +kernel), by decide +kernel⟩,
    ⟨rfl, by decide +kernel, tidy_of rfl (by decide +kernel), by decide +kernel⟩,
    ⟨rfl, tidy_of rfl (by decide +kernel), by decide +kernel⟩, ⟨rfl, tidy_of rfl (by decide +kernel), by decide +kernel⟩⟩

/-- A guest of tile 1 with a line of home tile 0 or another. -/
def wGuest (dirty : Bool) : Copy := ⟨1, 0x200000, List.replicate 128 7, List.replicate 128 0, [], dirty, [], (0, 0)⟩

theorem noWrite {ws : List WEv} {P : WEv → Prop} (h : ws = []) : ∀ w ∈ ws, P w := by
  rw [h]; intro w hw; cases hw

theorem witness_CopiesFillDropAndWriteBack :
    (∃ s : State, s.memOk ∧ s.guests.find? (fun x => x.dirty && x.place == 1 && x.line == 0x200000) = some (wGuest true) ∧
      s.answers ⟨.glob, 0x200000⟩ = true) ∧
    (∃ s : State, s.memOk ∧ 0x201000 % 128 = 0 ∧ s.populated 0x201000 128 = true ∧ s.aliasOf 0x201000 = none ∧ 0x201000 ∉ s.poison ∧
      s.homeTile 0x201000 ≠ 2 ∧ s.answers ⟨.glob, 0x201000⟩ = true ∧ s.guests ≠ [] ∧ s.cellarRoom 1 ∧
      ∀ g ∈ s.guests, g.dirty = true → (g.place = 2 → g.line ≠ 0x201000) ∧ (s.cellarRoom 1 ∨ s.answers ⟨.glob, g.line⟩ = true)) ∧
    (∀ core ∈ [0, 96, 767], ∃ s : State, s.memOk ∧ s.populated 0x200000 128 = true ∧ s.aliasOf 0x200000 = none ∧ 0x200000 ∉ s.poison ∧
      (∀ w ∈ s.clv, w.core = core → w.sp = .glob → w.line ≠ 0x200000) ∧
      (if s.homeTile 0x200000 = core / 96 then core = 0 else if core = 96 then (s.guest? (core / 96) 0x200000).isSome = true
        else s.answers ⟨.glob, 0x200000⟩ = true ∧ s.cellarRoom 1) ∧ (s.l1.filter (fun x => x.place == core)).length < l1Lines) ∧
    (∃ s : State, s.memOk ∧ s.guests.any (fun x => !x.dirty && x.place == 1 && x.line == 0x200000) = true) ∧
    (∃ s : State, s.memOk ∧ s.l1.any (fun x => x.place == 1 && x.line == 0x200000) = true) := by
  have room : ∀ d, ({ mch [] [] [0] with guests := [wGuest d] } : State).cellarRoom 1 := fun d => room_of (by cases d <;> decide)
  refine ⟨⟨{ mch [] [] [0] with guests := [wGuest true] }, by decide +kernel⟩,
    ⟨{ mch [] [] [0] with guests := [wGuest true] }, by decide +kernel, by decide, by decide +kernel, by decide +kernel, by decide +kernel,
      by decide +kernel, by decide +kernel, by decide, room true, ?_⟩, fun core hc =>
    ⟨{ mch [] [] [0] with guests := [wGuest false] }, by decide +kernel, by decide +kernel, by decide +kernel, by decide +kernel,
      noWrite rfl, ?_, Nat.zero_lt_succ _⟩,
    ⟨{ mch [] [] [0] with guests := [wGuest false] }, by decide +kernel⟩, ⟨{ mch [] [] [0] with l1 := [wGuest false] }, by decide +kernel⟩⟩
  · intro g hg _
    cases List.mem_singleton.1 hg
    exact ⟨by decide, .inl (room true)⟩
  · simp only [List.mem_cons, List.not_mem_nil, or_false] at hc
    obtain rfl | rfl | rfl := hc
    · rw [if_pos (by decide +kernel)]
    · rw [if_neg (by decide +kernel), if_pos rfl]; decide +kernel
    · rw [if_neg (by decide +kernel), if_neg (by decide)]; exact ⟨by decide +kernel, room false⟩

/-- An event of the group of `mch`. -/
def wSite : Site := ⟨3, 8, 0, [], 0, 0⟩
def wEv (sp : Space) (k : IqKind) : IqEv := ⟨1, 0, 0, 0, sp, .rc, k, wSite, (0, 0), false⟩

/-- `mch` with one event and its group's block. -/
def wPend (e : IqEv) : State := { mch [] [] [0] with iq := [e] }
def wGroup : Group := ((mch [] [] [0]).groups.map Prod.snd).headD (loadedGroup 0)

/-- Two bytes of a lane, and one that a helper lane drops. -/
def wBytes (a : Nat) : List (Nat × Dest) := [(a + 3, .vec 63 95 3), (a, .sca 28 0), (a, .drop 95)]

theorem witness_LoadsAndFencesPerform :
    (∀ acq ∈ [none, some Scope.dev], let e := wEv .spad (.load 3968 (wBytes 4092) acq)
     (wPend e).mayRead e (wBytes 4092) acq loadedBlock wGroup 3968 ∧ e.sp ≠ .glob ∧ (wPend e).answers ⟨e.sp, 4095⟩ = true ∧ (∀ p ∈ wBytes 4092, (wPend e).poisoned ⟨e.sp, p.1⟩ = false) ∧
       ∀ w ∈ (wPend e).sq, w.gid = e.gid → w.id < e.id → w.sp = e.sp → ∀ p ∈ wBytes 4092, p.1 ∉ w.bytes.map Prod.fst) ∧
    (∀ acq ∈ [none, some Scope.sys], let e := wEv .glob (.load 0x200000 (wBytes 0x200000) acq)
     (wPend e).mayRead e (wBytes 0x200000) acq loadedBlock wGroup 0x200000 ∧ 0x200000 ∉ (wPend e).poison ∧
       (∀ a, (wPend e).aliasOf a = none) ∧ (wPend e).readsFrom e loadedBlock.core [0x200003, 0x200000] acq (wPend e).mem.read) ∧
    (let e : IqEv := { wEv .glob (.load 0x200000 [(0x20007F, .vec 0 0 0)] none) with id := 2 }
     ∀ own ∈ [true, false], let w := { wByte .glob 0x200000 .rc with gid := if own then 0 else 1 }
     let s := if own then { wPend e with sq := [w] } else { wPend e with clv := [w] }
     s.mayRead e [(0x20007F, .vec 0 0 0)] none loadedBlock wGroup 0x200000 ∧ s.readsFrom e loadedBlock.core [0x20007F] none w.byte) ∧
    (∀ acq ∈ [none, some Scope.dev], ∀ away ∈ [true, false],
     let e := wEv .glob (.load 0x201000 (wBytes 0x201000) acq)
     let g : Copy := { wGuest (acq != none) with place := 0, line := 0x201000 }
     let s := if away then { wPend e with guests := [g] } else { wPend e with l1 := if acq = none then [g] else [], guests := [g] }
     s.mayRead e (wBytes 0x201000) acq loadedBlock wGroup 0x201000 ∧ s.readsFrom e loadedBlock.core [0x201003, 0x201000] acq g.byteAt) ∧
    (∀ sc ∈ [Scope.grp, .sys], let e := wEv .glob (.fence sc)
     (wPend e).iq.find? (fun x => x.id == e.id) = some e ∧ e.kind = .fence sc ∧
       Map.find? (wPend e).blocks (e.gid / 32) = some loadedBlock ∧ (wPend e).performed e.gid e.seq sc (sc == .dev || sc == .sys) = true) ∧
    (let e := wEv .glob (.load 0x200000 [(0x20007F, .vec 0 0 0)] none)
     let w := { wByte .glob 0x200000 .rc with id := 2 }
     let s := { wPend e with cbuf := [w] }
     s.cbuf.find? (fun x => x.id == w.id) = some w ∧ s.tidy w ∧ s.answers ⟨.glob, w.line⟩ = true ∧ s.ntVisible w = true ∧ s.preceded w = false ∧
       e.sp = .glob ∧ w.line ∉ s.poison ∧ (∀ a, lineOf a = w.line → s.aliasOf a = none) ∧ s.iq.filter (fun p => p.gid == w.gid) = [e] ∧
       e.id < w.id ∧ e.meets .glob (w.bytes.map Prod.fst) = true ∧ (∀ n, (s.tileRec n).log.length + 128 + w.bytes.length < logRoom) ∧
       s.mayRead e [(0x20007F, .vec 0 0 0)] none loadedBlock wGroup w.line ∧
       (∀ p ∈ [((0x20007F : Nat), Dest.vec 0 0 0)], s.fromWrites e w.core p.1 true = none) ∧ ∀ p ∈ s.parts, p.id ≠ e.id) := by
  have rd : ∀ (s : State) (e : IqEv) (bs : List (Nat × Dest)) (acq : Option Scope) (n line : Nat), e.kind = .load n bs acq →
      (s.iq.find? (fun x => x.id == e.id) = some e ∧ bs ≠ [] ∧ (∀ p ∈ bs, lineOf p.1 = line) ∧
        Map.find? s.blocks (e.gid / 32) = some loadedBlock ∧ Map.find? s.groups e.gid = some wGroup ∧
        s.tooEarly e (bs.map Prod.fst).eraseDups = false) →
      (∀ p ∈ bs, ∀ q ∈ bs, p.2 = q.2 → (∀ L, p.2 ≠ .drop L) → p.1 = q.1) → s.mayRead e bs acq loadedBlock wGroup line :=
    fun s e bs acq n line hk h hd => ⟨h.1, ⟨n, hk⟩, h.2.1, h.2.2.1, h.2.2.2.1, h.2.2.2.2.1, h.2.2.2.2.2, hd⟩
  have once : ∀ a, ∀ p ∈ wBytes a, ∀ q ∈ wBytes a, p.2 = q.2 → (∀ L, p.2 ≠ .drop L) → p.1 = q.1 := by
    intro a p hp q hq h hn
    simp only [wBytes, List.mem_cons, List.not_mem_nil, or_false] at hp hq
    obtain rfl | rfl | rfl := hp <;> obtain rfl | rfl | rfl := hq <;> first | rfl | exact absurd h (by simp)
  refine ⟨fun acq ha => ⟨rd _ _ _ _ _ _ rfl ?_ (once _), by simp [wEv], ?_, ?_, noWrite rfl⟩, fun acq ha =>
    ⟨rd _ _ _ _ _ _ rfl ?_ (once _), ?_, noAlias_of ?_, ?_⟩, fun own ho =>
    ⟨rd _ _ _ _ _ _ rfl ?_ (by simp), ?_⟩, fun acq ha away hw => ⟨rd _ _ _ _ _ _ rfl ?_ (once _), ?_⟩, fun sc hs => ?_,
    ⟨rfl, tidy_of rfl (by decide +kernel), by decide +kernel, by decide +kernel, by decide +kernel, rfl, by decide +kernel,
      fun a _ => noAlias_of (by decide +kernel) a, by decide +kernel, by decide, by decide +kernel, fun n => ?_,
      rd _ _ _ _ _ _ rfl (by decide +kernel) (by simp), by decide +kernel, by decide +kernel⟩⟩
  · simp only [List.mem_cons, List.not_mem_nil, or_false] at ha
    obtain rfl | rfl := ha <;> decide +kernel
  · simp only [List.mem_cons, List.not_mem_nil, or_false] at ha
    obtain rfl | rfl := ha <;> decide +kernel
  · simp only [List.mem_cons, List.not_mem_nil, or_false] at ha
    obtain rfl | rfl := ha <;> decide +kernel
  · simp only [List.mem_cons, List.not_mem_nil, or_false] at ha
    obtain rfl | rfl := ha <;> decide +kernel
  · simp only [List.mem_cons, List.not_mem_nil, or_false] at ha
    obtain rfl | rfl := ha <;> decide +kernel
  · simp only [List.mem_cons, List.not_mem_nil, or_false] at ha
    obtain rfl | rfl := ha <;> decide +kernel
  · simp only [List.mem_cons, List.not_mem_nil, or_false] at ha
    obtain rfl | rfl := ha
    · refine .inr (.inr (.inr ⟨by decide +kernel, by decide, ?_⟩))
      rw [if_pos rfl, show State.l1Copy _ _ _ _ _ _ = none by decide +kernel]
      simp only
      split
      · exact ⟨by decide +kernel, by decide +kernel, by decide +kernel, trivial⟩
      · rw [show State.guestCopy _ _ _ _ _ _ = none by decide +kernel]
        exact ⟨by decide +kernel, by decide +kernel, by decide +kernel, trivial⟩
    · refine .inr (.inr (.inl ⟨by decide +kernel, by decide, ?_⟩))
      rw [show State.dirty? _ _ = none by decide +kernel]
      exact ⟨by decide +kernel, by decide +kernel, by decide +kernel, rfl⟩
  · simp only [List.mem_cons, List.not_mem_nil, or_false] at ho
    obtain rfl | rfl := ho <;> decide +kernel
  · simp only [List.mem_cons, List.not_mem_nil, or_false] at ho
    obtain rfl | rfl := ho
    · exact .inl ⟨_, by decide +kernel, List.mem_singleton.2 rfl, rfl, by decide, by decide +kernel, rfl⟩
    · exact .inr (.inl ⟨_, by decide +kernel, List.mem_singleton.2 rfl, by decide, rfl, by decide, by decide +kernel, rfl⟩)
  · simp only [List.mem_cons, List.not_mem_nil, or_false] at ha hw
    obtain rfl | rfl := ha <;> obtain rfl | rfl := hw <;> decide +kernel
  · simp only [List.mem_cons, List.not_mem_nil, or_false] at ha hw
    obtain rfl | rfl := ha <;> obtain rfl | rfl := hw
    · refine .inr (.inr (.inr ⟨by decide +kernel, by decide, ?_⟩))
      rw [if_pos rfl, show State.l1Copy _ _ _ _ _ _ = none by decide +kernel]
      simp only
      rw [if_neg (by decide +kernel), show State.guestCopy _ _ _ _ _ _ = some { wGuest false with place := 0, line := 0x201000 } by decide +kernel]
      rfl
    · refine .inr (.inr (.inr ⟨by decide +kernel, by decide, ?_⟩))
      rw [if_pos rfl, show State.l1Copy _ _ _ _ _ _ = some { wGuest false with place := 0, line := 0x201000 } by decide +kernel]
      rfl
    all_goals
      refine .inr (.inr (.inl ⟨by decide +kernel, by decide, ?_⟩))
      rw [show State.dirty? _ _ = some { wGuest true with place := 0, line := 0x201000 } by decide +kernel]
      rfl
  · simp only [List.mem_cons, List.not_mem_nil, or_false] at hs
    obtain rfl | rfl := hs <;> decide +kernel
  · rw [show (State.tileRec _ n).log = [] from rfl]; decide

theorem update_of {s : State} {e : IqEv} {at_ n : Nat} {g : Group} (hk : ∀ a q, e.kind ≠ .stcq a q)
    (hw : s.regs.windows.all (fun w => !w.en) = true)
    (h : s.iq.find? (fun x => x.id == e.id) = some e ∧ Map.find? s.groups e.gid = some g ∧ at_ % n = 0 ∧ (n = 4 ∨ n = 8 ∨ n = 16) ∧
      s.tooEarly e e.touches = false ∧ knownIn s.unjoined e.gid e.id e.sp e.touches = false ∧ s.answers ⟨e.sp, at_⟩ = true ∧
      s.answers ⟨.glob, lineOf at_⟩ = true ∧ lineOf at_ ∉ s.poison ∧ s.memOk) : s.mayUpdate e at_ n g := by
  obtain ⟨h1, h2, h3, h4, h5, h6, h7, h8, h9, h10⟩ := h
  refine ⟨h1, h2, h3, h4, ?_, h6, h7, fun _ => h8, fun _ => ⟨h9, fun a _ => noAlias_of hw a⟩, h10⟩
  split
  · exact absurd ‹_› (hk _ _)
  · exact h5

/-- Two entries, of lanes 0 and 95, for handle 4. -/
def wStcq : StcqReq := ⟨4, some 0, 256, 2, 4, [(0, 7), (95, 9)], []⟩

/-- A store to an entry's byte, issued after the compressing store. -/
def wAfter : WEv := { wByte .glob 0x200100 .rc with id := 2 + entryIds, bytes := [(0x200100, 1)] }

def wStcqAt : State := { wPend (wEv .glob (.stcq 0x200000 wStcq)) with sq := [wAfter] }

/-- As `wPend`, with the number at the barrier object in the scratchpad. -/
def wBarAt (e : IqEv) (x : Nat) : State := { wPend e with spad := Mem.writeAll (wPend e).spad (bytesFrom 0 (toBytes 16 x)) }

theorem witness_AtomicsReadModifyWrite :
    (∀ a ∈ [(⟨.cas, 2, 8, 1, 0, .vec 62 95 0⟩ : AtomReq), ⟨.add, 0, 4, 1, 0, .sca 28 0⟩],
     let e := wEv .glob (.atom 0x200000 a)
     e.kind = .atom 0x200000 a ∧ a.n ≠ 16 ∧ (wPend e).mayUpdate e 0x200000 a.n wGroup ∧
       ∃ r i, (∃ L, L < 96 ∧ a.dest = .vec r L i) ∨ a.dest = .sca r i) ∧
    (let e := wEv .spad (.bar 0 (.init 3))
     e.kind = .bar 0 (.init 3) ∧ (wPend e).mayUpdate e 0 16 wGroup) ∧
    (∀ n ∈ [0, 1], ∀ rem ∈ [0, 1], let op := BarOp.update n 4 (some 28)
     let e := wEv .spad (.bar 0 op)
     let s := wBarAt e (Bar.pack ⟨false, rem, 1, 0⟩ 0)
     e.kind = .bar 0 op ∧ s.mayUpdate e 0 16 wGroup ∧ (n ≠ 0 → s.performed e.gid e.seq .cls false = true) ∧
       (barOf (s.oldAt e.sp 0 16)).rem = rem ∧ s.assisted 3 = false ∧ Map.find? s.blocks (e.gid / 32) = some loadedBlock ∧
       loadedBlock.st = .running) ∧
    (let e := wEv .tpad (.jinit 0xFFF0)
     e.kind = .jinit 0xFFF0 ∧ (wPend e).mayUpdate e 0xFFF0 16 wGroup) ∧
    (let e := wEv .glob (.stcq 0x200000 wStcq)
     let s := wStcqAt
     ∃ c, e.kind = .stcq 0x200000 wStcq ∧ s.mayUpdate e 0x200000 4 wGroup ∧ s.issOf e.gid e.ent = some c ∧ wStcq.data.length ≤ 96 ∧
       (∀ w ∈ s.sq, w.gid = e.gid → w.id ≤ e.id ∨ e.id + entryIds < w.id) ∧
       ∀ t, exec (.atomic e.id) s = .next t → ∀ k ∈ [(0 : Nat), 1],
         ({ t with tlb1 := s.tlb1, tlb2 := s.tlb2 } : State).failure c (c.handle 4) true .store 1
           ⟨some 0, (wStcq.data.map Prod.fst).getD k 0, 256 + 4 * ((s.oldAt e.sp 0x200000 4 : Int) + k), 4⟩ = none) := by
  refine ⟨fun a ha => ?_, ⟨rfl, update_of (by nofun) (by decide +kernel) (by decide +kernel)⟩, fun n hn r hr => ⟨rfl, ?_, ?_⟩,
    ⟨rfl, update_of (by nofun) (by decide +kernel) (by decide +kernel)⟩, ?_⟩
  · simp only [List.mem_cons, List.not_mem_nil, or_false] at ha
    obtain rfl | rfl := ha
    · exact ⟨rfl, by decide, update_of (by nofun) (by decide +kernel) (by decide +kernel), 62, 0, .inl ⟨95, by decide, rfl⟩⟩
    · exact ⟨rfl, by decide, update_of (by nofun) (by decide +kernel) (by decide +kernel), 28, 0, .inr rfl⟩
  · simp only [List.mem_cons, List.not_mem_nil, or_false] at hn hr
    obtain rfl | rfl := hn <;> obtain rfl | rfl := hr <;> exact update_of (by nofun) (by decide +kernel) (by decide +kernel)
  · simp only [List.mem_cons, List.not_mem_nil, or_false] at hn hr
    obtain rfl | rfl := hn <;> obtain rfl | rfl := hr <;> decide +kernel
  · have key : (let s := wStcqAt
        match s.issOf 0 0, exec (.atomic 1) s with
        | some c, .next t => decide (∀ k ∈ [(0 : Nat), 1],
         ({ t with tlb1 := s.tlb1, tlb2 := s.tlb2 } : State).failure c (c.handle 4) true .store 1
           ⟨some 0, (wStcq.data.map Prod.fst).getD k 0, 256 + 4 * ((s.oldAt .glob 0x200000 4 : Int) + k), 4⟩ = none)
        | _, _ => false) = true := by decide +kernel
    dsimp only at key ⊢
    generalize hs : wStcqAt = s at key ⊢
    have hu : s.mayUpdate (wEv .glob (.stcq 0x200000 wStcq)) 0x200000 4 wGroup := by
      rw [← hs]
      exact ⟨by decide +kernel, by decide +kernel, by decide, by decide,
        ⟨by decide +kernel, by decide +kernel, nofun, by decide +kernel⟩, by decide +kernel, by decide +kernel,
        fun _ => by decide +kernel, fun _ => ⟨by decide +kernel, fun a _ => noAlias_of (by decide +kernel) a⟩, by decide +kernel⟩
    split at key
    · rename_i c t hc ht
      refine ⟨c, rfl, hu, hc, by decide, by rw [← hs]; decide +kernel, fun t' h => ?_⟩
      rw [show (wEv .glob (.stcq 0x200000 wStcq)).id = 1 from rfl, ht] at h
      cases h
      exact of_decide_eq_true key
    · exact absurd key Bool.false_ne_true

/-! ## Transfers, batches, engine threads and barriers -/

/-- The COLR descriptor of one word, all-gathered from h1[128] to h1[256]. -/
def wColl : List (Nat × Byte) :=
  bytesFrom 0 (tab 64 (fun i => BitVec.ofNat 8 ((2 ^ 32 + 2 ^ 64 + 2 ^ 72 + 128 * 2 ^ 96 + 256 * 2 ^ 128) / 2 ^ (8 * i))))

def wCollState : State :=
  let s := mch [] [] [0]
  { s with spad := Mem.writeAll s.spad wColl, collSets := [(0, ⟨[0, 1], 0, 1, 0⟩)] }

/-- A thread of one byte from a scratchpad to another place. -/
def wEngine (dst : EndPt) (got : List (Nat × Byte)) (wrote : List Nat) (done : Compl) : Engine :=
  ⟨0, 0, wSite, 0, 0, 0, 0, .dev, .copy, .pt .spad 4095, dst, 1, got, wrote, done, [], ((0, 0), (0, 0))⟩

/-- 128 threads of the core. -/
def wFull : State := { mch [] [] [0] with engines := (List.range 128).map (fun n => (n + 9, wEngine (.pt .tpad 128) [] [] .batch)) }

theorem witness_TransfersForkEngineThreads :
    (∃ c, wFull.legal c (.cpy (wenL 0 1 4 0x7F 64)) ∧ wFull.queueFull c.b.core = true) ∧
    (∃ c, (mch [] [] [0]).legal c (.cpy (wenL 0 1 4 0x7F 64)) ∧ (mch [] [] [0]).queueFull c.b.core = false ∧
      (mch [] [] [0]).opndFailure c (c.copyOpnd 4) .load 1 64 = none ∧ (mch [] [] [0]).opndFailure c (c.copyOpnd 1) .store 1 64 = none) ∧
    (∃ c, (mch [(4, 0), (5, 0x1000000)] [] [0]).legal c (.cpyBar (wen 1 1 4 0x44)) ∧
      (mch [(4, 0), (5, 0x1000000)] [] [0]).opndFailure c (c.copyOpnd 4) .load 1 0 = none ∧
      (mch [(4, 0), (5, 0x1000000)] [] [0]).opndFailure c (c.copyOpnd 1) .store 1 0 = none ∧
      ∃ l, (mch [(4, 0), (5, 0x1000000)] [] [0]).barrierOk c (c.s 5) l) ∧
    (∃ c, (mch [(4, 64), (5, 4), (6, 65532)] [] [0]).legal c (.cpys (wen 3 1 4 0x44)) ∧
      (mch [(4, 64), (5, 4), (6, 65532)] [] [0]).opndFailure c (c.copyOpnd 4) .load 1 64 = none ∧
      (mch [(4, 64), (5, 4), (6, 65532)] [] [0]).opndFailure c (c.copyOpnd 1) .store 1 64 = none ∧ (c.s 5).toNat < 256 ∧
      (mch [(4, 64), (5, 4), (6, 65532)] [] [0]).failure c (c.handle (c.s 5).toNat) true .atomic 4 ⟨none, noLane, (c.s 6).toNat, 4⟩ = none) ∧
    (let s := mch [(4, 8), (7, 7), (8, 0x1000100)] [] [0]
     ∃ c, s.legal c (.cpyt (wen 0 4 5 0x44)) ∧ s.legal c (.cpytBar (wen 1 4 5 0x44)) ∧ (c.handle 5).kind = 2 ∧ (c.handle 5).space ≠ 4 ∧
       (c.handle 5).rd = true ∧ s.boxFailure c (c.handle 5) (boxOf (c.handle 5) (fun j => c.s (4 + j)) 0) = none ∧
       boxBad (c.handle 5) (fun j => c.s (4 + j)) (boxOf (c.handle 5) (fun j => c.s (4 + j)) 0) = false ∧
       s.opndFailure c ⟨4, true, 0⟩ .store 1 32 = none ∧ ∃ l, s.barrierOk c (c.s 8) l) ∧
    (let s := wCollState
     ∃ c, s.legal c (.colr (wen 0 0x60 0x60 1)) ∧ s.queueFull c.b.core = false ∧
       s.failure c (c.handle 1) true .load 1 ⟨none, noLane, 0, 64⟩ = none ∧ s.failure c (c.handle 1) true .store 1 ⟨none, noLane, 28, 4⟩ = none ∧
       ∃ s' bs, s.readSync c none ((s.bytesAt c (c.handle 1) ⟨none, noLane, 0, 64⟩ .r).map (fun b => (b.2.1, b.2.2))) = .got s' bs ∧
         decide ((Map.find? s'.groups c.cur.gid).isSome = true ∧ s'.queueFull c.b.core = false ∧ s.collBad (ofBytes bs) = false ∧
           descField (ofBytes bs) 0 4 = 0 ∧ descField (ofBytes bs) 80 8 = 0 ∧
           s.opndFailure c ⟨descField (ofBytes bs) 64 8, true, descField (ofBytes bs) 96 32⟩ .load 1 4 = none ∧
           s.opndFailure c ⟨descField (ofBytes bs) 72 8, true, descField (ofBytes bs) 128 32⟩ .store 1 4 = none) = true) := by
  refine ⟨meets ?_, meets ?_, ?_, meets ?_, ?_, ?_⟩
  · decide +kernel
  · decide +kernel
  · obtain ⟨c, h, h1, h2, h3, h4, o, h5⟩ := meets (s := mch [(4, 0), (5, 0x1000000)] [] [0]) (i := .cpyBar (wen 1 1 4 0x44)) (P := fun c =>
      (mch [(4, 0), (5, 0x1000000)] [] [0]).opndFailure c (c.copyOpnd 4) .load 1 0 = none ∧
      (mch [(4, 0), (5, 0x1000000)] [] [0]).opndFailure c (c.copyOpnd 1) .store 1 0 = none ∧
      (mch [(4, 0), (5, 0x1000000)] [] [0]).failure c (c.handle (wordOpnd (c.s 5)).idx) true .atomic 16
        ⟨none, noLane, (wordOpnd (c.s 5)).off, 16⟩ = none ∧
      (2 = (c.handle (wordOpnd (c.s 5)).idx).space ∨ 3 = (c.handle (wordOpnd (c.s 5)).idx).space) ∧ ∃ o ∈ [PageKind.rc],
      (mch [(4, 0), (5, 0x1000000)] [] [0]).place c (c.handle (wordOpnd (c.s 5)).idx) none (wordOpnd (c.s 5)).off .w = some (⟨.spad, 0⟩, o))
      (by decide +kernel)
    exact ⟨c, h, h1, h2, ⟨.spad, 0⟩, h3, h4, o, h5.2⟩
  · decide +kernel
  · obtain ⟨c, h, h1, h2, h3, h4, h5, h6, h7, h8, h9, o, h10⟩ := meets (s := mch [(4, 8), (7, 7), (8, 0x1000100)] [] [0])
      (i := .cpyt (wen 0 4 5 0x44)) (P := fun c => let s := mch [(4, 8), (7, 7), (8, 0x1000100)] [] [0]
       s.legal c (.cpytBar (wen 1 4 5 0x44)) ∧ (c.handle 5).kind = 2 ∧ (c.handle 5).space ≠ 4 ∧
       (c.handle 5).rd = true ∧ s.boxFailure c (c.handle 5) (boxOf (c.handle 5) (fun j => c.s (4 + j)) 0) = none ∧
       boxBad (c.handle 5) (fun j => c.s (4 + j)) (boxOf (c.handle 5) (fun j => c.s (4 + j)) 0) = false ∧
       s.opndFailure c ⟨4, true, 0⟩ .store 1 32 = none ∧ s.failure c (c.handle (wordOpnd (c.s 8)).idx) true .atomic 16
         ⟨none, noLane, (wordOpnd (c.s 8)).off, 16⟩ = none ∧
       (2 = (c.handle (wordOpnd (c.s 8)).idx).space ∨ 3 = (c.handle (wordOpnd (c.s 8)).idx).space) ∧ ∃ o ∈ [PageKind.rc],
       s.place c (c.handle (wordOpnd (c.s 8)).idx) none (wordOpnd (c.s 8)).off .w = some (⟨.spad, 256⟩, o)) (by decide +kernel)
    exact ⟨c, h, h1, h2, h3, h4, h5, h6, h7, ⟨.spad, 256⟩, h8, h9, o, h10.2⟩
  · obtain ⟨c, h, h1, h2, h3, h4⟩ := meets (s := wCollState) (i := .colr (wen 0 0x60 0x60 1)) (P := fun c =>
      wCollState.queueFull c.b.core = false ∧
       wCollState.failure c (c.handle 1) true .load 1 ⟨none, noLane, 0, 64⟩ = none ∧
       wCollState.failure c (c.handle 1) true .store 1 ⟨none, noLane, 28, 4⟩ = none ∧
       gotAnd (wCollState.readSync c none ((wCollState.bytesAt c (c.handle 1) ⟨none, noLane, 0, 64⟩ .r).map (fun b => (b.2.1, b.2.2))))
         (fun s' bs => decide ((Map.find? s'.groups c.cur.gid).isSome = true ∧ s'.queueFull c.b.core = false ∧
           wCollState.collBad (ofBytes bs) = false ∧
           descField (ofBytes bs) 0 4 = 0 ∧ descField (ofBytes bs) 80 8 = 0 ∧
           wCollState.opndFailure c ⟨descField (ofBytes bs) 64 8, true, descField (ofBytes bs) 96 32⟩ .load 1 4 = none ∧
           wCollState.opndFailure c ⟨descField (ofBytes bs) 72 8, true, descField (ofBytes bs) 128 32⟩ .store 1 4 = none)) = true)
      (by decide +kernel)
    exact ⟨c, h, h1, h2, h3, got_of h4⟩

/-- A state whose group has one open batch of an engine thread still running, or done. -/
def wBatch (running : Bool) : State :=
  let s := mch [(2, 1)] [] [0]
  let s := s.modGroup 0 (fun g => { g with lastb := 1, batches := [(1, [(9, Scope.dev)])] })
  if running then { s with engines := [(9, ⟨0, 0, wSite, 0, 0, 0, 0, .dev, .copy, .pt .spad 0, .pt .spad 64, 4, [], [], .batch, [], ((0, 0), (0, 0))⟩)] } else s

theorem witness_BatchesCountAndWait :
    (∃ c, (wBatch true).legal c (.cbat (wen 0 0x5C 0x60 0x60))) ∧
    (∃ c, (wBatch true).legal c (.ctest (wen 0 0x60 0x42 0x60)) ∧ ¬ ∀ p ∈ c.g.batches, 1 ≤ p.1 → p.1 ≤ 1 → ∀ x ∈ p.2,
        Map.find? (wBatch true).engines x.1 = none) ∧
    (∃ c, (wBatch true).legal c (.cwait (wen 0 0x60 0x42 0x60)) ∧ ¬ ∀ p ∈ c.g.batches, 1 ≤ p.1 → p.1 ≤ 1 → ∀ x ∈ p.2,
        Map.find? (wBatch true).engines x.1 = none) ∧
    (∃ c, (wBatch false).legal c (.cwait (wen 0 0x60 0x42 0x60)) ∧ ∀ p ∈ c.g.batches, 1 ≤ p.1 → p.1 ≤ 1 → ∀ x ∈ p.2,
        Map.find? (wBatch false).engines x.1 = none) := by
  refine ⟨legal_of ?_, meets ?_, meets ?_, meets ?_⟩ <;> decide +kernel

def wEng (e : Engine) : State := { mch [] [] [0] with engines := [(9, e)] }

/-- A box one element long, outside a tensor of no elements. -/
def wBox : Box := ⟨1, [1], [0], [0], [], 32, 0⟩
/-- A reduction of one word by the only member of its set. -/
def wSum : Coll := ⟨0, 1, 0, 4, 1, 0, .pt .tpad 256, false, false, false⟩
def wColls (x : Engine) (members : List Word) : State := { wEng x with collSets := [(0, ⟨members, 0, 1, 0⟩)] }
/-- A copy's thread that has read its byte; a collective's that has read its word, and written it. -/
def wCopied (dst : EndPt) : Engine := wEngine dst [(0, 5)] [] .batch
def wSummed (wrote : List Nat) (told : Bool) : Engine :=
  { wEngine (.pt .tpad 128) [(0, 5), (1, 0), (2, 0), (3, 0)] wrote .batch with kind := .coll { wSum with told := told }, n := 4 }

theorem written_of {s : State} {x : Engine} (h : s.engBytes x ≤ x.wrote.length ∧
    (match x.kind with | .coll k => k.told | _ => true) = true) : s.written x :=
  ⟨h.1, fun k hk => by have := h.2; rw [hk] at this; exact this⟩

theorem writesNext_of {s : State} {i : Nat} {x : Engine} {b : Byte} (h : (match x.kind with
    | .coll k => decide (k.link = false ∧ k.timed = false ∧ k.matched (s.collSet k.set) = true ∧ x.n ≤ x.got.length ∧
      i < k.dstBytes (s.collSet k.set).members.length ∧
      b = (toBytes (collElem k.ty) (k.result (s.collSet k.set) x.got (i / collElem k.ty))).getD (i % collElem k.ty) 0)
    | _ => decide (i < x.n ∧ x.got.find? (fun p => p.1 == i) = some (i, b))) = true) : s.writesNext i x b := by
  unfold State.writesNext
  cases hk : x.kind <;> rw [hk] at h <;> exact of_decide_eq_true h

theorem witness_EngineThreadsMoveBytes :
    (∀ src ∈ [EndPt.pt .spad 4095, .va 0x10000, .va 0x11000], ∃ l ∈ [(⟨.spad, 4095⟩ : Loc), ⟨.glob, 0x200000⟩, ⟨.glob, 0x201000⟩],
     let x := { wEngine (.pt .tpad 128) [] [] .batch with src := src }
     let s := { wEng x with guests := [{ wGuest true with place := 0, line := 0x201000 }] }
     Map.find? s.engines 9 = some x ∧ 0 < x.n ∧ x.has 0 = false ∧ x.srcOff 0 = some 0 ∧ s.endLoc x x.src 0 .r = .at_ l ∧
       s.engEarly x l false = false ∧ s.answers l = true ∧ lineOf l.addr ∉ s.poison ∧ s.poisoned l = false ∧
       s.keptPart (engKey 9) [] (lineOf l.addr) = none ∧ (∀ a, s.aliasOf a = none) ∧
       (l.addr = 0x200000 → s.homeTile (lineOf l.addr) = x.tile ∧ ((Map.find? s.groups x.gid).map Group.seen) = some []) ∧
       (l.addr = 0x201000 → s.homeTile (lineOf l.addr) ≠ x.tile ∧ (s.guestCopy x.gid x.tile (lineOf l.addr) [] [l.addr]).isSome = true)) ∧
    (let x := { wEngine (.pt .tpad 128) [] [] .batch with kind := .box wBox }
     Map.find? (wEng x).engines 9 = some x ∧ 0 < x.n ∧ x.has 0 = false ∧ x.srcOff 0 = none) ∧
    (∀ dst ∈ [EndPt.pt .tpad 128, .va 0x1FFFF, .win [0] 4095], ∃ l ∈ [(⟨.tpad, 128⟩ : Loc), ⟨.glob, 0x20FFFF⟩, ⟨.spad, 4095⟩],
     let x := wCopied dst
     let s := wEng x
     Map.find? s.engines 9 = some x ∧ 0 ∉ x.wrote ∧ s.writesNext 0 x 5 ∧ s.endLoc x x.dst (x.dstOff 0) .w = .at_ l ∧
       s.engEarly x l true = false ∧ s.answers l = true ∧ s.tidy (x.write 9 (lineOf l.addr) [(l.addr, 5)])) ∧
    (let x := wSummed [] false
     let s := wColls x [1]
     Map.find? s.engines 9 = some x ∧ 3 ∉ x.wrote ∧ s.writesNext 3 x 0 ∧ s.endLoc x x.dst (x.dstOff 3) .w = .at_ ⟨.tpad, 131⟩ ∧
       s.engEarly x ⟨.tpad, 131⟩ true = false ∧ s.answers ⟨.tpad, 131⟩ = true ∧ s.memOk) ∧
    (let x := wSummed [0, 1, 2, 3] false
     let s := wColls x [1]
     Map.find? s.engines 9 = some x ∧ x.kind = .coll wSum ∧ s.engBytes x ≤ x.wrote.length ∧ wSum.told = false ∧ s.memOk ∧
       ∀ j, j < 4 → s.endLoc x wSum.stat j .w = .at_ ⟨.tpad, 256 + j⟩ ∧ s.answers ⟨.tpad, 256 + j⟩ = true ∧
         s.engEarly x ⟨.tpad, 256 + j⟩ true = false) ∧
    (∀ x ∈ [wEngine (.pt .tpad 128) [] [0] .batch, wEngine (.pt .tpad 128) [] [0] (.credit ⟨.spad, 0⟩ 1),
        wEngine (.pt .tpad 128) [] [0] (.counter (.pt .spad 4) 1), wEngine (.pt .tpad 128) [] [0] (.counter (.va 0x10004) 1),
        wSummed [0, 1, 2, 3] true],
     let s := wColls x [1]
     Map.find? s.engines 9 = some x ∧ s.written x ∧ s.engPerformed 9 x.sigma = true ∧ s.memOk ∧ s.answers ⟨.spad, 4⟩ = true ∧
       s.endLoc x (.pt .spad 4) 0 .w = .at_ ⟨.spad, 4⟩ ∧ s.endLoc x (.va 0x10004) 0 .w = .at_ ⟨.glob, 0x200004⟩ ∧
       s.answers ⟨.glob, 0x200004⟩ = true ∧ s.answers ⟨.glob, 0x200000⟩ = true ∧ 0x200000 ∉ s.poison ∧
       (∀ l ∈ [(⟨.spad, 4⟩ : Loc), ⟨.glob, 0x200004⟩], s.engHeld x l 4 = false ∧ s.acquiring x l = false) ∧ s.engHeld x ⟨.spad, 0⟩ 16 = false ∧
       ∀ a, s.aliasOf a = none) ∧
    (let x := wSummed [] false
     let s := wColls x [0, 1]
     Map.find? s.engines 9 = some x ∧ x.kind = .coll wSum ∧ x.wrote = [] ∧ wSum.link = false ∧ wSum.timed = false ∧
       1 < (s.collSet wSum.set).members.length) := by
  have any_ : ∀ (P : Loc → Prop) (l : Loc) (ls : List Loc), l ∈ ls → P l → ∃ l ∈ ls, P l := fun _ l _ h p => ⟨l, h, p⟩
  refine ⟨fun src hs => ?_, by decide +kernel, fun dst hd => ?_, ⟨rfl, by decide, writesNext_of (by decide +kernel), by decide +kernel⟩, by decide +kernel,
    fun x hx => ?_, by decide +kernel⟩
  · simp only [List.mem_cons, List.not_mem_nil, or_false] at hs
    obtain rfl | rfl | rfl := hs
    · exact any_ _ ⟨.spad, 4095⟩ _ (by decide) ⟨rfl, by decide, by decide +kernel, by decide +kernel, by decide +kernel, by decide +kernel,
        by decide +kernel, by decide +kernel, by decide +kernel, by decide +kernel, noAlias_of (by decide +kernel), by decide +kernel,
        by decide +kernel⟩
    · exact any_ _ ⟨.glob, 0x200000⟩ _ (by decide) ⟨rfl, by decide, by decide +kernel, by decide +kernel, by decide +kernel, by decide +kernel,
        by decide +kernel, by decide +kernel, by decide +kernel, by decide +kernel, noAlias_of (by decide +kernel), by decide +kernel,
        by decide +kernel⟩
    · exact any_ _ ⟨.glob, 0x201000⟩ _ (by decide) ⟨rfl, by decide, by decide +kernel, by decide +kernel, by decide +kernel, by decide +kernel,
        by decide +kernel, by decide +kernel, by decide +kernel, by decide +kernel, noAlias_of (by decide +kernel), by decide +kernel,
        by decide +kernel⟩
  · simp only [List.mem_cons, List.not_mem_nil, or_false] at hd
    obtain rfl | rfl | rfl := hd
    · exact any_ _ ⟨.tpad, 128⟩ _ (by decide) ⟨rfl, by decide, writesNext_of (by decide +kernel), by decide +kernel, by decide +kernel, by decide +kernel,
        tidy_of rfl (by decide +kernel)⟩
    · exact any_ _ ⟨.glob, 0x20FFFF⟩ _ (by decide) ⟨rfl, by decide, writesNext_of (by decide +kernel), by decide +kernel, by decide +kernel, by decide +kernel,
        tidy_of rfl (by decide +kernel)⟩
    · exact any_ _ ⟨.spad, 4095⟩ _ (by decide) ⟨rfl, by decide, writesNext_of (by decide +kernel), by decide +kernel, by decide +kernel, by decide +kernel,
        tidy_of rfl (by decide +kernel)⟩
  · simp only [List.mem_cons, List.not_mem_nil, or_false] at hx
    obtain rfl | rfl | rfl | rfl | rfl := hx <;>
      exact ⟨rfl, written_of (by decide +kernel), by decide +kernel, by decide +kernel, by decide +kernel, by decide +kernel, by decide +kernel,
        by decide +kernel, by decide +kernel, by decide +kernel, by decide +kernel, by decide +kernel, noAlias_of (by decide +kernel)⟩

theorem witness_BarrierUpdatesEnterIssueQueue :
    (∃ c, (mch [(2, 65535)] [] [0]).legal c (.bari (wen 0 0x42 0x60 1)) ∧ 0 < (lo32 (c.sa (wen 0 0x42 0x60 1) 0x42 .n32)).toNat ∧
      (lo32 (c.sa (wen 0 0x42 0x60 1) 0x42 .n32)).toNat < 65536 ∧
      (⟨wen 0 0x42 0x60 1, fun c _ => c.off (wen 0 0x42 0x60 1) 0, false, 16, 16, none⟩ : LaneAccess).cause (mch [(2, 65535)] [] [0]) c .atomic 0 = none ∧
      (c.target (wen 0 0x42 0x60 1)).h.space = 3) ∧
    (∃ c, (mch [(2, 4080)] [] [0]).legal c (.barx (wen 0 0x60 0x42 2)) ∧
      (⟨wen 0 0x60 0x42 2, fun c _ => c.off (wen 0 0x60 0x42 2) 0, false, 16, 16, none⟩ : LaneAccess).cause (mch [(2, 4080)] [] [0]) c .atomic 0 = none ∧
      (c.target (wen 0 0x60 0x42 2)).h.space = 2) ∧
    (∃ c, (mch [] [] [0]).legal c (.bara (wen 0 0x5C 0x60 1)) ∧
      (⟨wen 0 0x5C 0x60 1, fun c _ => c.off (wen 0 0x5C 0x60 1) 0, false, 16, 16, none⟩ : LaneAccess).cause (mch [] [] [0]) c .atomic 0 = none ∧
      (c.target (wen 0 0x5C 0x60 1)).h.space = 3) ∧
    (∃ c, (mch [] [] [0]).legal c (.baraX (wen 1 0x42 0x60 1)) ∧
      (⟨wen 1 0x42 0x60 1, fun c _ => c.off (wen 1 0x42 0x60 1) 0, false, 16, 16, none⟩ : LaneAccess).cause (mch [] [] [0]) c .atomic 0 = none ∧
      (c.target (wen 1 0x42 0x60 1)).h.space = 3) := by
  refine ⟨meets ?_, meets ?_, meets ?_, meets ?_⟩ <;> decide +kernel

/-- A barrier of phase 0 with nothing outstanding, read with the phases 0 and 1. -/
theorem witness_BarrierTurnsAndWaits :
    (∃ b : Bar, b.rem < 65536 ∧ b.init < 65536 ∧ b.rem = 1) ∧
    (∀ ph ∈ [(0 : Word), 1], let s := mch [(2, ph)] [] [0]
      ∃ c, s.legal c (.barw (wen 0 0x42 0x60 1)) ∧ s.legal c (.barwT (wen 1 0x42 0x60 1)) ∧
        s.barObject c (wen 0 0x42 0x60 1) .load = (none, some (⟨.spad, 0⟩, .rc)) ∧
        ∃ s' bs, s.phaseNow c (⟨.spad, 0⟩, .rc) none = .got s' bs ∧ decide (Map.find? s'.groups c.cur.gid = some c.g ∧
          ((barOf (ofBytes bs)).phase ≠ (lo32 (c.sa (wen 0 0x42 0x60 1) 0x42 .n32)).getLsbD 0 ↔ ph = 1)) = true) := by
  refine ⟨⟨⟨false, 1, 1, 0⟩, by decide, by decide, rfl⟩, ?_⟩
  intro ph hp
  obtain ⟨c, h, h1, h2, h3⟩ := meets (s := mch [(2, ph)] [] [0]) (i := .barw (wen 0 0x42 0x60 1)) (P := fun c =>
      (mch [(2, ph)] [] [0]).legal c (.barwT (wen 1 0x42 0x60 1)) ∧
        (mch [(2, ph)] [] [0]).barObject c (wen 0 0x42 0x60 1) .load = (none, some (⟨.spad, 0⟩, .rc)) ∧
        gotAnd ((mch [(2, ph)] [] [0]).phaseNow c (⟨.spad, 0⟩, .rc) none) (fun s' bs => decide (Map.find? s'.groups c.cur.gid = some c.g ∧
          ((barOf (ofBytes bs)).phase ≠ (lo32 (c.sa (wen 0 0x42 0x60 1) 0x42 .n32)).getLsbD 0 ↔ ph = 1))) = true)
      (by rcases List.mem_cons.1 hp with rfl | h
          · decide +kernel
          · rw [List.mem_singleton.1 h]; decide +kernel)
  exact ⟨c, h, h1, h2, got_of h3⟩

/-- Parked at block barrier 15, or at the cluster barrier, whose phases have moved on. -/
def wParked (n : Nat) : State :=
  let s := mch [] [] [0]
  let s := s.modFrag ⟨0, 0⟩ (fun f => { f with park := some (n, 0), st := .waiting })
  s.modBlock 0 (fun b => { b with bars := [(15, 1)], clPhase := 1 })

/-- `mch` at a barrier instruction, with an earlier write of the group in Q or not. -/
def wBarrier (busy : Bool) : State := if busy then { mch [] [] [0] with sq := [wByte .spad 0 .rc], seq := 1 } else mch [] [] [0]

theorem witness_BlockBarriersGatherLanes :
    (∀ busy ∈ [true, false], let s := wBarrier busy
     ∃ c, s.legal c (.bart (wenL 0 0x60 0x7F 0x60 15)) ∧ s.settled c ∧ c.f.act ≠ 0 ∧ c.f.park = none ∧ 15 < c.l.desc.bars ∧
       c.g.standing 15 &&& c.f.act = 0 ∧ c.f.latch = [] ∧ s.blockEnd c c.f = some 64 ∧ c.f.pc + 8 < 64 ∧
       s.performed c.cur.gid s.seq .blk false = !busy ∧ s.legal c (.bsync (wenL 0 0x60 0x7F 0x60 15)) ∧
       s.legal c (.clsync (wen 0 0x60 0x60 0x60)) ∧ c.g.clArr &&& c.f.act = 0 ∧ s.performed c.cur.gid s.seq .cls false = !busy) ∧
    (let s := wParked 15
     ∃ c, s.legal c (.bsync (wenL 0 0x60 0x7F 0x60 15)) ∧ s.settled c ∧ c.f.act ≠ 0 ∧ c.f.park = some (15, 0) ∧ Map.get 0 c.b.bars 15 ≠ 0) ∧
    (let s := wParked clusterBar
     ∃ c, s.legal c (.clsync (wen 0 0x60 0x60 0x60)) ∧ s.settled c ∧ c.f.act ≠ 0 ∧ c.f.park = some (clusterBar, 0) ∧ c.b.clPhase ≠ 0) := by
  unfold State.settled
  refine ⟨fun b hb => meets ?_, meets ?_, meets ?_⟩
  · simp only [List.mem_cons, List.not_mem_nil, or_false] at hb
    obtain rfl | rfl := hb <;> decide +kernel
  all_goals decide +kernel

/-! ## Tiles, pools and forked work -/

theorem witness_TilesMoveToAndFromRegisters :
    (∃ c, (mch [] [] [0]).legal c (.mzero (wen 0 7 0x60 0x60)) ∧ c.whole = true) ∧
    (∃ c, (mch [] [] [0]).legal c (.mwr (wen 0 7 61 0x60)) ∧ c.whole = true) ∧
    (∃ c, (mch [] [] [0]).legal c (.mrd (wen 0 61 7 0x60)) ∧ c.whole = true) := by
  refine ⟨meets ?_, meets ?_, meets ?_⟩ <;> decide +kernel

/-- A descriptor of lines of 64 bytes in the block scratchpad. -/
def wTile : List (Nat × Word) := [(4, 0x01004000), (5, 0), (6, 0x01004000), (7, 1024)]

/-- On a tile that carries profile W. -/
def wTileW : State := (mch wTile [] [0]).modBlock 0 (fun b => { b with core := 767 })

/-- A fragment whose operands have arrived: n bytes. -/
def wLoaded (s : State) (n : Nat) : State := s.modFrag ⟨0, 0⟩ (fun f => { f with buf := some (List.replicate n 1), st := .waiting })

theorem witness_TilesLoadAndStore :
    (let s := mch wTile [] [0]
     ∃ c, s.legal c (.mld (wen 0 7 0x44 0x60)) ∧ c.f.buf = none ∧ s.descsOk c [(c.mdesc 0x44, shapeOf 7, false)]) ∧
    (∃ c, (wLoaded (mch wTile [] [0]) 1024).legal c (.mld (wen 0 7 0x44 0x60)) ∧
      (wLoaded (mch wTile [] [0]) 1024).operandsIn c (List.replicate 1024 1)) ∧
    (∃ c, wTileW.legal c (.mst (wen 3 0x44 0x60 7)) ∧ wTileW.descsOk c [(c.mdesc 0x44, shapeOf 8, true)]) := by
  unfold State.descsOk State.operandsIn
  refine ⟨meets ?_, meets ?_, meets ?_⟩ <;> decide +kernel

theorem witness_MultiplyAccumulateWritesItsTile :
    (let s := mch wTile [] [0]
     ∃ c, s.legal c (.mmaNx4I8F64 (wen 1 7 0x44 0x46)) ∧ c.f.buf = none ∧
       s.descsOk c [(c.mdesc 0x44, shapeOf 5, false), (c.mdesc 0x46, shapeOf 5, false)]) ∧
    (let s := wLoaded (mch wTile [] [0]) 2048
     ∃ c, s.legal c (.mma (wen 2 0 0x44 0x46)) ∧ s.legal c (.mmaNx4I8F64 (wen 1 7 0x44 0x46)) ∧ s.operandsIn c (List.replicate 2048 1)) ∧
    (let s := wLoaded (mch wTile [] [0]) 2304
     ∃ c, s.legal c (.mmaNx4I8F64 (wen 0 7 0x44 0x46)) ∧ s.operandsIn c (List.replicate 2304 1) ∧
       ∀ k, k < 128 → (List.replicate 2304 (1 : Byte)).getD (18 * k + 17) 0 < 128) := by
  unfold State.descsOk State.operandsIn
  refine ⟨meets ?_, meets ?_, meets ?_⟩ <;> decide +kernel

theorem witness_ScaleAndDescriptorTest :
    (∃ c, (mch [] [(1, 0x40000000)] [0]).legal c (.mscl (wen 0 7 63 0)) ∧ c.whole = true) ∧
    (∃ c, wTileW.legal c (.mscl (wen 3 7 0x44 0)) ∧ c.whole = true) ∧
    (∃ c, (mch wTile [] [0]).legal c (.mdesc (wenL 0 0x5F 0x44 0x7F 0x17)) ∧ c.whole = true) := by
  refine ⟨meets ?_, meets ?_, meets ?_⟩ <;> decide +kernel

/-- A pool with one element on tile 0, which its last summary shows. -/
def wPool : Pool :=
  ⟨0, 6, 1, 0, false, ⟨[⟨5, 6, 0, 0⟩], 1, 0, false, 0⟩ :: List.replicate 7 ⟨[], 0, 0, false, 0⟩,
    ⟨1, [⟨5, 6, 0, 0⟩], []⟩ :: List.replicate 7 ⟨0, [], []⟩, none, [], 768, 0, none, false, [], [], []⟩

/-- The pool of handle 6, and the group's fragment with one lane. -/
def wPools (p : Pool) (act : Mask) : State :=
  let s := mch [] [] [0]
  { s.modFrag ⟨0, 0⟩ (fun f => { f with act := act }) with pools := [(6, p)] }

/-- Whether a pool instruction finds the pool of `wPools`. -/
def wFinds (s : State) (c : Iss) (e : Enc) (r : Hnd → Bool) (p : Pool) : Bool :=
  match s.poolOf c e r with | .ok q => q.1 == 6 && q.2 == p | .error _ => false

theorem finds_of {s : State} {c : Iss} {e : Enc} {r : Hnd → Bool} {p : Pool} (h : wFinds s c e r p = true) :
    s.poolOf c e r = .ok (6, p) := by
  unfold wFinds at h
  split at h
  · rename_i q hq
    have h := Bool.and_eq_true _ _ ▸ h
    rw [hq, ← eq_of_beq h.1, ← eq_of_beq h.2]
  · exact absurd h Bool.false_ne_true

/-- The serving conditions of a take of lane 0 at the core's tile. -/
def wServed (s : State) (c : Iss) (p : Pool) (r : Serve) : Prop :=
  c.f.pool = none ∧ s.shardServes p c.tile ∧ (List.range 96).filter (fun k => bitOf (c.contrib c.own) k) = [0] ∧
    (s.looked p c.tile).serve (p.reached c.tile) ⟨c.cur.gid, c.cur.ent, 0, c.tile, c.tile, []⟩ c.tile = r

/-- The pool of `wPool` with no elements, and a region of 64 elements, full or not. -/
def wEmpty : Pool := { wPool with shards := List.replicate 8 ⟨[], 0, 0, false, 0⟩, sums := List.replicate 8 ⟨0, [], []⟩ }
def wRegion (n : Nat) : Pool := { wEmpty with shards := ⟨(List.range n).map (fun i => ⟨i, i, 0, i⟩), n, 0, false, 0⟩ :: List.replicate 7 ⟨[], 0, 0, false, 0⟩ }

/-- A pool with a pending insert of lane 95. -/
def wInsert (p : Pool) : State := { wPools p 1 with iq := [wEv .glob (.plins 6 95 7 8 3)] }

theorem witness_PoolInstructionsInsertTakeAndLook :
    (∃ c, (wPools wPool 1).legal c (.plins (wen 0 7 62 6)) ∧ (wPools wPool 1).poolOf c (wen 0 7 62 6) Hnd.wr = .ok (6, wPool)) ∧
    (∃ c, (wPools wPool 1).legal c (.plpeek (wen 0 0x5C 0x60 6)) ∧ (wPools wPool 1).poolOf c (wen 0 0x5C 0x60 6) Hnd.rd = .ok (6, wPool)) ∧
    (∃ c, (wPools wPool 1).legal c (.plcnt (wen 0 0x5C 0x60 6)) ∧ (wPools wPool 1).poolOf c (wen 0 0x5C 0x60 6) Hnd.rd = .ok (6, wPool)) ∧
    (∃ c, (wPools wPool 1).legal c (.pltake (wen 0 62 7 6)) ∧
      (wPools wPool 1).poolOf c (wen 0 62 7 6) (fun h => h.rd && h.wr) = .ok (6, wPool) ∧
      wServed (wPools wPool 1) c wPool (.give c.tile ⟨5, 6, 0, 0⟩) ∧ (wPool.shard c.tile).els.any (fun y => y.same ⟨5, 6, 0, 0⟩) = true) ∧
    (∃ c, (wPools wEmpty 1).legal c (.pltake (wen 0 62 7 6)) ∧
      (wPools wEmpty 1).poolOf c (wen 0 62 7 6) (fun h => h.rd && h.wr) = .ok (6, wEmpty) ∧ wServed (wPools wEmpty 1) c wEmpty .empty) ∧
    (let p := wRegion 3
     let s := wPools p 0b1000101
     ∃ c, s.legal c (.pltake (wen 0 62 7 6)) ∧ s.poolOf c (wen 0 62 7 6) (fun h => h.rd && h.wr) = .ok (6, p) ∧ c.f.pool = none ∧
       s.shardServes p c.tile ∧ p.spill = 0 ∧ (∀ m ∈ p.sums, m.urgent = []) ∧
       (p.shard c.tile).els.Pairwise (fun x y => x.same y = false) ∧
       (List.range 96).filter (fun k => bitOf (c.contrib c.own) k) = [0, 2, 6] ∧
       ((sortElems p.kord (p.shard c.tile).els).filter p.within).length = 3) ∧
    (∀ p ∈ [(wRegion 63, false), (wRegion 64, false), ({ wRegion 1 with rho := 384 }, true)],
     let v : IqEv := wEv .glob (.plins 6 95 7 8 3)
     let s := wInsert p.1
     s.iq.find? (fun x => x.id == v.id) = some v ∧ Map.find? s.pools 6 = some p.1 ∧ Map.find? s.blocks (v.gid / 32) = some loadedBlock ∧
       (Map.find? s.groups v.gid).isSome = true ∧ p.1.spill = 0 ∧
       s.iq.any (fun x => x.gid == v.gid && x.seq == v.seq && decide (x.id < v.id)) = false ∧ s.performed v.gid v.seq .dev true = true ∧
       s.tileUp (loadedBlock.core / 96) = true ∧ loadedBlock.core / 96 < p.1.shards.length ∧ s.asked 4 v.id = false ∧
       p.1.held = none ∧ p.1.stopped = false ∧ p.1.cap = 1 ∧
       (p.2 = true ↔ p.1.within ⟨7, 8, 0, (p.1.shard 0).count⟩ = true ∧ (p.1.rho - 384) / 8 ≤ (p.1.shard 0).used)) := by
  unfold wServed State.shardServes
  refine ⟨?_, ?_, ?_, ?_, ?_, ?_, ?_⟩
  · obtain ⟨c, h, k⟩ := meets (s := wPools wPool 1) (i := .plins (wen 0 7 62 6)) (P := fun c =>
      wFinds (wPools wPool 1) c (wen 0 7 62 6) Hnd.wr wPool = true) (by decide +kernel)
    exact ⟨c, h, finds_of k⟩
  · obtain ⟨c, h, k⟩ := meets (s := wPools wPool 1) (i := .plpeek (wen 0 0x5C 0x60 6)) (P := fun c =>
      wFinds (wPools wPool 1) c (wen 0 0x5C 0x60 6) Hnd.rd wPool = true) (by decide +kernel)
    exact ⟨c, h, finds_of k⟩
  · obtain ⟨c, h, k⟩ := meets (s := wPools wPool 1) (i := .plcnt (wen 0 0x5C 0x60 6)) (P := fun c =>
      wFinds (wPools wPool 1) c (wen 0 0x5C 0x60 6) Hnd.rd wPool = true) (by decide +kernel)
    exact ⟨c, h, finds_of k⟩
  · obtain ⟨c, h, k, more⟩ := meets (s := wPools wPool 1) (i := .pltake (wen 0 62 7 6)) (P := fun c =>
      wFinds (wPools wPool 1) c (wen 0 62 7 6) (fun h => h.rd && h.wr) wPool = true ∧
      (c.f.pool = none ∧ (wPool.held = none ∧ wPool.stopped = false ∧ (wPools wPool 1).takeHeld wPool = false ∧
          (wPools wPool 1).tileUp c.tile = true ∧ c.tile < wPool.shards.length ∧
          ∀ u ∈ wPool.looksAt c.tile, (wPools wPool 1).segOk wPool u = true) ∧
        (List.range 96).filter (fun k => bitOf (c.contrib c.own) k) = [0] ∧
        ((wPools wPool 1).looked wPool c.tile).serve (wPool.reached c.tile) ⟨c.cur.gid, c.cur.ent, 0, c.tile, c.tile, []⟩ c.tile = .give c.tile ⟨5, 6, 0, 0⟩) ∧
      (wPool.shard c.tile).els.any (fun y => y.same ⟨5, 6, 0, 0⟩) = true) (by decide +kernel)
    exact ⟨c, h, finds_of k, more⟩
  · obtain ⟨c, h, k, more⟩ := meets (s := wPools wEmpty 1) (i := .pltake (wen 0 62 7 6)) (P := fun c =>
      wFinds (wPools wEmpty 1) c (wen 0 62 7 6) (fun h => h.rd && h.wr) wEmpty = true ∧
      (c.f.pool = none ∧ (wEmpty.held = none ∧ wEmpty.stopped = false ∧ (wPools wEmpty 1).takeHeld wEmpty = false ∧
          (wPools wEmpty 1).tileUp c.tile = true ∧ c.tile < wEmpty.shards.length ∧
          ∀ u ∈ wEmpty.looksAt c.tile, (wPools wEmpty 1).segOk wEmpty u = true) ∧
        (List.range 96).filter (fun k => bitOf (c.contrib c.own) k) = [0] ∧
        ((wPools wEmpty 1).looked wEmpty c.tile).serve (wEmpty.reached c.tile) ⟨c.cur.gid, c.cur.ent, 0, c.tile, c.tile, []⟩ c.tile = .empty)) (by decide +kernel)
    exact ⟨c, h, finds_of k, more⟩
  · obtain ⟨c, h, k, more⟩ := meets (s := wPools (wRegion 3) 0b1000101) (i := .pltake (wen 0 62 7 6)) (P := fun c =>
      let p := wRegion 3
      let s := wPools p 0b1000101
      wFinds s c (wen 0 62 7 6) (fun h => h.rd && h.wr) p = true ∧ c.f.pool = none ∧
       (p.held = none ∧ p.stopped = false ∧ s.takeHeld p = false ∧ s.tileUp c.tile = true ∧ c.tile < p.shards.length ∧
         ∀ u ∈ p.looksAt c.tile, s.segOk p u = true) ∧ p.spill = 0 ∧ (∀ m ∈ p.sums, m.urgent = []) ∧
       (p.shard c.tile).els.Pairwise (fun x y => x.same y = false) ∧
       (List.range 96).filter (fun k => bitOf (c.contrib c.own) k) = [0, 2, 6] ∧
       ((sortElems p.kord (p.shard c.tile).els).filter p.within).length = 3) (by decide +kernel)
    exact ⟨c, h, finds_of k, more⟩
  · decide +kernel

/-- A take of lane 3 that waits for the pool of `wPools`. -/
def wTake (p : Pool) : State :=
  (wPools p (BitVec.allOnes 96)).modFrag ⟨0, 0⟩ (fun f => { f with pool := some ⟨0, wen 0 62 7 6, [3], []⟩, st := .waiting })

theorem witness_PoolRoundsPublishAndRestart :
    (let s := wPools wPool 1
     Map.find? s.pools 6 = some wPool ∧ wPool.held = none ∧ wPool.fwd = [] ∧ (∀ t, t < 8 → s.tileUp t = true) ∧ wPool.spill = 0 ∧
       wPool.wait = [] ∧ wPool.shards.length = 8 ∧ ((wPool.shards.map Shard.els).flatten).Pairwise (fun x y => x.same y = false)) ∧
    (let v : IqEv := wEv .glob (.plins 6 95 7 8 0)
     let p := { wPool with held := some 1 }
     let s := { wPools p 1 with iq := [v] }
     Map.find? s.pools 6 = some p ∧ p.held = some v.id ∧ s.iq.find? (fun x => x.id == v.id) = some v ∧
       Map.find? s.blocks (v.gid / 32) = some loadedBlock ∧ loadedBlock.core / 96 < p.shards.length ∧ (∀ t, t < 8 → s.tileUp t = true) ∧
       s.asked 4 v.id = false ∧ p.full (loadedBlock.core / 96) = false) ∧
    (let k : Take := ⟨0, 0, 3, 7, 0, [7]⟩
     let p := { wPool with fwd := [k] }
     let s := wTake p
     let u := s.logTo (k.tried.headD k.home) k.goal (.take 6)
     Map.find? s.pools 6 = some p ∧ s.wants k = true ∧ u.shardServes p k.goal ∧
       (u.looked p k.goal).serve ({ p with fwd := [] }.reached k.goal) k k.goal = .give k.goal ⟨5, 6, 0, 0⟩ ∧
       (p.shard k.goal).els.any (fun y => y.same ⟨5, 6, 0, 0⟩) = true) ∧
    (let k : Take := ⟨0, 0, 3, 7, 0, [7]⟩
     let p := { wPool with fwd := [k], stopped := true }
     Map.find? (wTake p).pools 6 = some p ∧ (wTake p).tileUp k.goal = true ∧ (wTake p).wants k = true) := by
  unfold State.shardServes
  refine ⟨?_, ?_, ?_, ?_⟩ <;> decide +kernel

/-- A header check that finds a header. -/
def wHeader (r : Found) : Bool := match r with | .ok _ => true | _ => false

theorem ok_of {r : Found} (h : wHeader r = true) : ∃ x, r = .ok x := by
  cases r with
  | ok x => exact ⟨x, rfl⟩
  | bad _ => exact absurd h Bool.false_ne_true
  | stop _ => exact absurd h Bool.false_ne_true

/-- With a tile window as h7, and a deque of n children. -/
def wForks (sc : List (Nat × Word)) (n : Nat) : State :=
  let s := mach (wLaunch 0 [rawHandle 1 1 7 0 65536]) sc [] [0]
  { s with cores := Map.put s.cores 0 { s.core 0 with deque := List.replicate n ⟨0, codeAddr 3 0, 0, 0, 0⟩ } }

/-- A fork with a join object in the tile window, whose count is x, behind a pending write or not. -/
def wJoins (x n : Nat) (busy : Bool) : State :=
  let s := wForks [(8, 0x03000000), (10, 0x0700FFF0)] n
  let s := { s with tspad := Mem.writeAll s.tspad (bytesFrom 0xFFF0 (toBytes 4 x)) }
  if busy then { s with sq := [wByte .spad 0 .rc], seq := 1 } else s

theorem witness_ForkedWorkIsPushedAndJoined :
    (∃ c, (wJoins 0 0 true).legal c (.fork (wen 0 0x5C 0x48 0x60)) ∧ c.s 11 = 0 ∧ (wJoins 0 0 true).joinCause c (c.s 10) = none ∧
      (wJoins 0 0 true).performed c.cur.gid (wJoins 0 0 true).seq .dev true = false ∧
      ∃ h, (wJoins 0 0 true).header c (codeHnd (c.s 8)) (codeOff (c.s 8)) true = .ok h) ∧
    (∀ p ∈ [(0, 255), (0, 256), (0xFFFFFFFF, 0)], let s := wJoins p.1 p.2 false
     ∃ c, s.legal c (.fork (wen 0 0x5C 0x48 0x60)) ∧ c.s 11 = 0 ∧ noObject (c.s 10) = false ∧ s.joinCause c (c.s 10) = none ∧
      s.performed c.cur.gid s.seq .dev true = true ∧ s.joinAt c (c.s 10) = some (⟨.tpad, 0xFFF0⟩, .rc) ∧
      s.atomicReady c (⟨.tpad, 0xFFF0⟩, .rc) = true ∧ lineOf 0xFFF0 ∉ s.poison ∧ s.memOk ∧ s.oldAt .tpad 0xFFF0 4 = p.1 ∧
      (s.core c.b.core).deque.length = p.2 ∧ ∃ h, s.header c (codeHnd (c.s 8)) (codeOff (c.s 8)) true = .ok h) ∧
    (∀ n ∈ [255, 256], ∃ c, (wForks [(8, 0x03000000), (10, 0xFFFFFF)] n).legal c (.fork (wen 0 0x5C 0x48 0x60)) ∧ c.s 11 = 0 ∧
      noObject (c.s 10) = true ∧ (wForks [(8, 0x03000000), (10, 0xFFFFFF)] n).performed c.cur.gid
        (wForks [(8, 0x03000000), (10, 0xFFFFFF)] n).seq .dev true = true ∧
      ∃ h, (wForks [(8, 0x03000000), (10, 0xFFFFFF)] n).header c (codeHnd (c.s 8)) (codeOff (c.s 8)) true = .ok h) ∧
    (∃ c, (wForks [(10, 0x0700FFF0)] 0).legal c (.jinit (wen 0 0x60 0x4A 0x60)) ∧
      (wForks [(10, 0x0700FFF0)] 0).joinCause c (lo32 (c.sa (wen 0 0x60 0x4A 0x60) 0x4A .n32)) = none) ∧
    (∃ c, (wForks [] 0).legal c (.join (wen 0 0x5C 0x4A 0x60)) ∧ noObject (lo32 (c.sa (wen 0 0x5C 0x4A 0x60) 0x4A .n32)) = true) ∧
    (∀ b ∈ [(0 : Byte), 1], let s := { wForks [(10, 0x0700FFF0)] 0 with tspad := Mem.write (wForks [(10, 0x0700FFF0)] 0).tspad 0xFFF0 b }
     ∃ c, s.legal c (.join (wen 0 0x5C 0x4A 0x60)) ∧ noObject (lo32 (c.sa (wen 0 0x5C 0x4A 0x60) 0x4A .n32)) = false ∧
      s.joinCause c (lo32 (c.sa (wen 0 0x5C 0x4A 0x60) 0x4A .n32)) = none ∧
      s.joinAt c (lo32 (c.sa (wen 0 0x5C 0x4A 0x60) 0x4A .n32)) = some (⟨.tpad, 0xFFF0⟩, .rc) ∧
      ∃ s' bs, s.readSync c (some .dev) ((List.range 8).map (fun i => (⟨.tpad, 0xFFF0 + i⟩, .rc))) = .got s' bs ∧
        decide ((Map.find? s'.groups c.cur.gid).isSome = true ∧ (ofBytes bs % 2 ^ 32 = 0 ↔ b = 0)) = true) := by
  refine ⟨?_, fun p hp => ?_, ?_, meets ?_, meets ?_, ?_⟩
  · obtain ⟨c, h, h1, h2, h3, h4⟩ := meets (s := wJoins 0 0 true) (i := .fork (wen 0 0x5C 0x48 0x60)) (P := fun c => c.s 11 = 0 ∧
      (wJoins 0 0 true).joinCause c (c.s 10) = none ∧ (wJoins 0 0 true).performed c.cur.gid (wJoins 0 0 true).seq .dev true = false ∧
      wHeader ((wJoins 0 0 true).header c (codeHnd (c.s 8)) (codeOff (c.s 8)) true) = true) (by decide +kernel)
    exact ⟨c, h, h1, h2, h3, ok_of h4⟩
  · obtain ⟨c, h, h1, h2, h3, h4, h5, h6, h7, h8, h9, h10, h11⟩ := meets (s := wJoins p.1 p.2 false) (i := .fork (wen 0 0x5C 0x48 0x60))
      (P := fun c => let s := wJoins p.1 p.2 false
       c.s 11 = 0 ∧ noObject (c.s 10) = false ∧ s.joinCause c (c.s 10) = none ∧
      s.performed c.cur.gid s.seq .dev true = true ∧ s.joinAt c (c.s 10) = some (⟨.tpad, 0xFFF0⟩, .rc) ∧
      s.atomicReady c (⟨.tpad, 0xFFF0⟩, .rc) = true ∧ lineOf 0xFFF0 ∉ s.poison ∧ s.memOk ∧ s.oldAt .tpad 0xFFF0 4 = p.1 ∧
      (s.core c.b.core).deque.length = p.2 ∧ wHeader (s.header c (codeHnd (c.s 8)) (codeOff (c.s 8)) true) = true)
      (by simp only [List.mem_cons, List.not_mem_nil, or_false] at hp
          obtain rfl | rfl | rfl := hp <;> decide +kernel)
    exact ⟨c, h, h1, h2, h3, h4, h5, h6, h7, h8, h9, h10, ok_of h11⟩
  · intro n hn
    obtain ⟨c, h, h1, h2, h3, h4⟩ := meets (s := wForks [(8, 0x03000000), (10, 0xFFFFFF)] n) (i := .fork (wen 0 0x5C 0x48 0x60))
      (P := fun c => c.s 11 = 0 ∧ noObject (c.s 10) = true ∧
        (wForks [(8, 0x03000000), (10, 0xFFFFFF)] n).performed c.cur.gid (wForks [(8, 0x03000000), (10, 0xFFFFFF)] n).seq .dev true = true ∧
        wHeader ((wForks [(8, 0x03000000), (10, 0xFFFFFF)] n).header c (codeHnd (c.s 8)) (codeOff (c.s 8)) true) = true)
      (by rcases List.mem_cons.1 hn with rfl | h
          · decide +kernel
          · rw [List.mem_singleton.1 h]; decide +kernel)
    exact ⟨c, h, h1, h2, h3, ok_of h4⟩
  · decide +kernel
  · decide +kernel
  · intro b hb
    obtain ⟨c, h, h1, h2, h3, h4⟩ := meets
      (s := { wForks [(10, 0x0700FFF0)] 0 with tspad := Mem.write (wForks [(10, 0x0700FFF0)] 0).tspad 0xFFF0 b })
      (i := .join (wen 0 0x5C 0x4A 0x60)) (P := fun c =>
      let s := { wForks [(10, 0x0700FFF0)] 0 with tspad := Mem.write (wForks [(10, 0x0700FFF0)] 0).tspad 0xFFF0 b }
      noObject (lo32 (c.sa (wen 0 0x5C 0x4A 0x60) 0x4A .n32)) = false ∧
      s.joinCause c (lo32 (c.sa (wen 0 0x5C 0x4A 0x60) 0x4A .n32)) = none ∧
      s.joinAt c (lo32 (c.sa (wen 0 0x5C 0x4A 0x60) 0x4A .n32)) = some (⟨.tpad, 0xFFF0⟩, .rc) ∧
      gotAnd (s.readSync c (some .dev) ((List.range 8).map (fun i => (⟨.tpad, 0xFFF0 + i⟩, .rc)))) (fun s' bs =>
        decide ((Map.find? s'.groups c.cur.gid).isSome = true ∧ (ofBytes bs % 2 ^ 32 = 0 ↔ b = 0))) = true)
      (by rcases List.mem_cons.1 hb with rfl | h
          · decide +kernel
          · rw [List.mem_singleton.1 h]; decide +kernel)
    exact ⟨c, h, h1, h2, h3, got_of h4⟩
/-! ## Traps, the system and control -/

/-- A header of n units with its low bits. -/
def wHdr (n : Nat) (bits : Nat) : Word := BitVec.ofNat 32 (0x1FE * 2 ^ 23 + n * 2 ^ 13 + bits)

/-- Code: a block of 16 units at 0 whose fusion point is the block at 64, blocks at 80 and 112, and a table of two ways, 80 and 112,
at 96. -/
def wUnits (bits : Nat) (first : Word) : List Word :=
  [wHdr 16 bits, 0x10000, first] ++ List.replicate 13 0 ++ [wHdr 4 2, 0, 0, 0] ++ [wHdr 4 0, 0, 0, 0] ++ [0xFFFF8002, 0xFFFFC000, 0x00004000, 0] ++
    [wHdr 4 0, 0, 0, 0]

/-- The usual launch with that code, a trap handler at 80 when `trap`, and one fragment. -/
def wCode (trap : Bool) (bits : Nat) (sc vs : List (Nat × Word)) (first : Word) : State :=
  let s := mach (wLaunch (if trap then codeAddr 3 80 else 0) []) sc vs []
  { s with tspad := Mem.writeAll [] (bytesFrom 0 ((wUnits bits first).flatMap unitBytes)) }

/-- A trap of the issuing fragment is delivered at once. -/
def wTraps (s : State) (c : Iss) : Bool :=
  decide (c.l.desc.trap ≠ 0) && decide (c.f.st ≠ .handler) && decide (c.g.handling = false) &&
    wHeader (s.header c (codeHnd c.l.desc.trap) (codeOff c.l.desc.trap) true)

theorem traps_of {s : State} {c : Iss} (h : wTraps s c = true) : s.mayTrap c := by
  unfold wTraps at h
  simp only [Bool.and_eq_true] at h
  exact ⟨of_decide_eq_true h.1.1.1, of_decide_eq_true h.1.1.2, of_decide_eq_true h.1.2, ok_of h.2⟩

/-- A fragment of the group is already in the handler. -/
def wHandling : State :=
  (wCode true 0 [] [] 0).modGroup 0 (fun g => g.setEntry 15 (.frag { newFrag 3 88 80 0 none 0 with st := .handler }))

theorem witness_TakingATrapEntersHandler :
    (∃ c, (wCode true 0 [] [] 0).issuer? = some c ∧ (wCode true 0 [] [] 0).mayTrap c) ∧
    (∃ c, (wCode false 0 [] [] 0).issuer? = some c ∧ c.l.desc.trap = 0 ∧ ({ wCode false 0 [] [] 0 with
      regs := { (wCode false 0 [] [] 0).regs with fnMode := 0 } } : State).assisted 3 = false ∧ c.b.st = .running) ∧
    (∃ c, wHandling.issuer? = some c ∧ c.l.desc.trap ≠ 0 ∧ c.f.st ≠ .handler ∧ c.g.handling = true) := by
  refine ⟨?_, issues ?_, issues ?_⟩
  · obtain ⟨c, h, k⟩ := issues (s := wCode true 0 [] [] 0) (P := fun c => wTraps (wCode true 0 [] [] 0) c = true) (by decide +kernel)
    exact ⟨c, h, traps_of k⟩
  · decide +kernel
  · decide +kernel

/-- `wCode` without a handler, its service duty at the host. -/
def wServices : State :=
  let s := wCode false 0 [] [] 0
  { s with regs := { s.regs with fnMode := BitVec.allOnes 7 } }

theorem witness_TrapsBreakpointsAndServices :
    (let s := wCode true 0 [] [] 0
     ∃ c, s.legal c (.trap (wen 0 0x60 1 0x7F)) ∧ s.legal c (.bkpt (wen 0 0x60 0 5)) ∧ s.mayTrap c) ∧
    (let s := (wCode true 0 [] [] 0).modLaunch 0 (fun l => { l with desc := { l.desc with fpe := 1 } })
     ∃ c, s.issuer? = some c ∧ (1 &&& c.l.desc.fpe ≠ 0) ∧ ((1 : Mask) &&& c.own &&& c.real ≠ 0) ∧ s.mayTrap c) ∧
    (let s := wCode false 0 [] [] 0
     ∃ c, s.legal c (.bkpt (wen 0 0x60 0 5)) ∧ c.l.desc.trap = 0 ∧ c.f.st ≠ .handler ∧ s.assisted 3 = false) ∧
    (let s := wServices
     ∃ c, s.legal c (.bkpt (wen 0 0x60 0 5)) ∧ c.l.desc.trap = 0 ∧ c.f.st ≠ .handler ∧ s.assisted 3 = true ∧ c.b.live = true ∧ c.f.latch = [] ∧
       s.blockEnd c c.f = some 64 ∧ c.f.pc + 4 < 64) ∧
    (let s := wCode false 0 [(30, 1)] [] 0
     ∃ c, s.legal c (.svc (wen 0 0x5E 0x7F 0x7F)) ∧ s.performed c.cur.gid s.seq .sys false = true ∧ c.b.live = true ∧ c.f.latch = [] ∧
       s.blockEnd c c.f = some 64 ∧ c.f.pc + 4 < 64) ∧
    (let s := { wCode false 0 [(30, 1)] [] 0 with sq := [wByte .spad 0 .rc], seq := 1 }
     ∃ c, s.legal c (.svc (wen 0 0x5E 0x7F 0x7F)) ∧ s.performed c.cur.gid s.seq .sys false = false) := by
  refine ⟨?_, ?_, meets ?_, meets ?_, meets ?_, meets ?_⟩
  · obtain ⟨c, h, h1, k⟩ := meets (s := wCode true 0 [] [] 0) (i := .trap (wen 0 0x60 1 0x7F)) (P := fun c =>
      (wCode true 0 [] [] 0).legal c (.bkpt (wen 0 0x60 0 5)) ∧ wTraps (wCode true 0 [] [] 0) c = true) (by decide +kernel)
    exact ⟨c, h, h1, traps_of k⟩
  · obtain ⟨c, h, h1, h2, k⟩ := issues (s := (wCode true 0 [] [] 0).modLaunch 0 (fun l => { l with desc := { l.desc with fpe := 1 } }))
      (P := fun c => (1 &&& c.l.desc.fpe ≠ 0) ∧ ((1 : Mask) &&& c.own &&& c.real ≠ 0) ∧
        wTraps ((wCode true 0 [] [] 0).modLaunch 0 (fun l => { l with desc := { l.desc with fpe := 1 } })) c = true) (by decide +kernel)
    exact ⟨c, h, h1, h2, traps_of k⟩
  all_goals decide +kernel

/-- A fragment in the handler, with the trap registers given. -/
def wReturn (r : TrapRegs) : State :=
  (wCode true 0 [] [] 0).modGroup 0 (fun g =>
    { g with trap := r, table := [(0, .frag { newFrag 3 88 80 (BitVec.allOnes 96) none 0 with st := .handler })] })

/-- The trap registers name the block at 0 and its first instruction, whose trap was an exception, within an EXLW of two words, or an
illegal word; or they name a header. -/
def wPlain : TrapRegs := ⟨3, 0, 6, 8, 0, 0, 0, 0, false, [], 0, none⟩
def wListed : TrapRegs := ⟨3, 0, 3, 8, 0, 1, 0, 0, false, [⟨5, false, 1⟩, ⟨6, false, 2⟩], 8, none⟩
def wAtHeader : TrapRegs := ⟨3, 0, 6, 80, 0, 0, 0, 0, true, [], 0, none⟩
def wReturning : State := wReturn wPlain

/-- Whether RFT or RFT.skip, with those registers, meets its conditions. -/
def wReturns (r : TrapRegs) (skip : Bool) : Prop :=
  let s := wReturn r
  ∃ c w, s.legal c (if skip then .rftSkip (wen 0 0x60 0x70 0x60) else .rft (wen 0 0x60 0x60 0x60)) ∧ c.g.trap = r ∧
    s.unitAt c r.ch.toNat r.pc.toNat = .ok w ∧ (∀ x ∈ c.g.table, ∀ f, x.2 = .frag f → f.st ≠ .pending) ∧
    (let word := r.word.toNat + (if skip then 1 else 0)
     let inList := r.cause = 3 ∧ r.latch ≠ []
     if opField w = 0x1FE then r.pc.toNat % 8 = 0 ∧ ¬ inList ∧ c.f.act &&& c.real ≠ 0 ∧ c.g.covered = none ∧
       ∃ h, s.header c r.ch.toNat r.pc.toNat (!r.written && r.cause == 1 && r.detail == 2) = .ok h ∧ h.fuse = false
     else s.unitOf c r.ch.toNat r.blk r.pc.toNat = true ∧ s.unitOf c r.ch.toNat r.blk
       (if inList then (if r.latch.length ≤ word then r.exlw + 4 else r.exlw)
        else if skip ∧ r.written = false then s.afterInstr c r.ch.toNat r.pc.toNat else r.pc.toNat) = true)

def wHeaderNoFuse (r : Found) : Bool := match r with | .ok h => !h.fuse | _ => false

def wReturnsB (r : TrapRegs) (skip : Bool) : Bool :=
  let s := wReturn r
  match s.issuer? with
  | none => false
  | some c => match s.unitAt c r.ch.toNat r.pc.toNat with
    | .error _ => false
    | .ok w => decide (s.reason c (if skip then .rftSkip (wen 0 0x60 0x70 0x60) else .rft (wen 0 0x60 0x60 0x60)) none = none) &&
      decide (c.g.trap = r) && c.g.table.all (fun x => match x.2 with | .frag f => f.st != .pending | _ => true) &&
      (let word := r.word.toNat + (if skip then 1 else 0)
       let inList := r.cause = 3 ∧ r.latch ≠ []
       if opField w = 0x1FE then decide (r.pc.toNat % 8 = 0 ∧ ¬ inList ∧ c.f.act &&& c.real ≠ 0 ∧ c.g.covered = none) &&
         wHeaderNoFuse (s.header c r.ch.toNat r.pc.toNat (!r.written && r.cause == 1 && r.detail == 2))
       else decide (s.unitOf c r.ch.toNat r.blk r.pc.toNat = true ∧ s.unitOf c r.ch.toNat r.blk
         (if inList then (if r.latch.length ≤ word then r.exlw + 4 else r.exlw)
          else if skip ∧ r.written = false then s.afterInstr c r.ch.toNat r.pc.toNat else r.pc.toNat) = true))

theorem returns_of {r : TrapRegs} {skip : Bool} (h : wReturnsB r skip = true) : wReturns r skip := by
  unfold wReturnsB at h
  dsimp only at h
  split at h
  · exact absurd h Bool.false_ne_true
  · rename_i c hc
    split at h
    · exact absurd h Bool.false_ne_true
    · rename_i w hw
      rw [Bool.and_eq_true, Bool.and_eq_true, Bool.and_eq_true] at h
      obtain ⟨⟨⟨h1, h2⟩, h3⟩, h4⟩ := h
      refine ⟨c, w, ⟨hc, of_decide_eq_true h1⟩, of_decide_eq_true h2, hw, ?_, ?_⟩
      · intro x hx f hf
        have := List.all_eq_true.1 h3 x hx
        rw [hf] at this
        simpa using this
      · dsimp only
        split at h4
        · rename_i ho
          rw [if_pos ho]
          rw [Bool.and_eq_true] at h4
          obtain ⟨k1, k2⟩ := h4
          have k1 := of_decide_eq_true k1
          refine ⟨k1.1, k1.2.1, k1.2.2.1, k1.2.2.2, ?_⟩
          unfold wHeaderNoFuse at k2
          split at k2
          · rename_i x hx; exact ⟨x, hx, by simpa using k2⟩
          · exact absurd k2 Bool.false_ne_true
        · rename_i ho
          rw [if_neg ho]
          exact of_decide_eq_true h4

theorem witness_ReturnFromTrapResumes : ∀ r ∈ [wPlain, wListed, { wListed with word := 0 }, wAtHeader], ∀ skip ∈ [false, true], wReturns r skip := by
  intro r hr skip hs
  simp only [List.mem_cons, List.not_mem_nil, or_false] at hr hs
  obtain rfl | rfl | rfl | rfl := hr <;> obtain rfl | rfl := hs <;> exact returns_of (by decide +kernel)

theorem witness_SystemRegistersReadAndWrite :
    (∃ c, (mch [] [] [0]).legal c (.rdsr (wen 0 0x5F 0 0x36))) ∧
    (∃ c, (mch [(2, 5)] [] [0]).legal c (.wrsr (wen 0 0x42 0 0x11)) ∧ (lo32 (c.sa (wen 0 0x42 0 0x11) 0x42 .n32)).toNat % 8 < 6) ∧
    (∃ c, (mch [(2, 6)] [] [0]).legal c (.wrsr (wen 0 0x42 0 0x11)) ∧ ¬ (lo32 (c.sa (wen 0 0x42 0 0x11) 0x42 .n32)).toNat % 8 < 6) ∧
    (∃ c, wReturning.legal c (.wrsr (wen 0 0x42 0 0x31)) ∧ c.g.handling = true) ∧
    (∃ c, (mch [] [] [0]).legal c (.wrsr (wen 0 0x60 0 0x10)) ∧ c.f.latch = [] ∧ (mch [] [] [0]).blockEnd c c.f = some 64 ∧ c.f.pc + 4 < 64) := by
  refine ⟨legal_of ?_, meets ?_, meets ?_, meets ?_, meets ?_⟩ <;> decide +kernel

theorem witness_LocationClockAndCounters :
    (∃ c, (mch [(2, 65536)] [] [0]).legal c (.locq (wen 0 0x5F 0x42 4)) ∧
      (mch [(2, 65536)] [] [0]).inBounds c (c.target (wen 0 0x5F 0x42 4)).h none (c.off (wen 0 0x5F 0x42 4) 0) 1 = false) ∧
    (∃ c, (mch [] [] [0]).legal c (.lwake (wen 0 0x60 0x77 0x60))) ∧ (∃ c, (mch [] [] [0]).legal c (.clkrd (wen 0 0x5C 0x60 0x60))) ∧
    (∃ c, (mch [] [] [0]).legal c (.perfrd (wen 0 0x4C 0 5))) := by
  refine ⟨meets ?_, legal_of ?_, legal_of ?_, legal_of ?_⟩ <;> decide +kernel

/-- The target at an address is sound and is not the fragment's own fusion point. -/
def wEnters (s : State) (c : Iss) (hnd addr : Nat) : Bool :=
  wHeader (s.header c hnd addr true) && decide (c.g.inner c.cur.ent c.f ≠ some (hnd, addr) ∧ c.g.covered = none ∧ c.f.act &&& c.real ≠ 0)

theorem enters_of {s : State} {c : Iss} {hnd addr : Nat} (h : wEnters s c hnd addr = true) : s.mayEnterBlock c hnd addr := by
  unfold wEnters at h
  rw [Bool.and_eq_true] at h
  have k := of_decide_eq_true h.2
  obtain ⟨x, hx⟩ := ok_of h.1
  exact ⟨⟨x, hx, fun q => k.1 q.2⟩, k.2.1, k.2.2⟩

/-- As `wCode`, with two lanes that hold other code addresses in v6. -/
def wTorn : State :=
  (wCode true 0 [] [] 0).modGroup 0 (fun g => g.vPut 6 (fun L => some (if L = 95 then codeAddr 3 112 else codeAddr 3 80)))

theorem witness_TransfersMoveTheFragment :
    (let s := wCode false 0 [(2, codeAddr 3 80)] [(6, codeAddr 3 80)] 0
     ∃ c, s.legal c (.brZ (wen 0 0 18 0x60)) ∧ s.legal c (.brNz (wen 1 0 18 0x42)) ∧ s.legal c (.jmp (wenL 0 0x60 0x60 0x7F 18)) ∧
       s.legal c (.jmpIndirect (wen 0 0x60 0x60 0x42)) ∧ s.legal c (.call (wenL 0 5 0x60 0x7F 18)) ∧
       s.legal c (.callIndirect (wen 0 5 0x60 0x42)) ∧ s.legal c (.ret (wen 0 0x60 6 0x60)) ∧ c.f.hnd = 3 ∧
       (80 : Int) = c.origin (wen 0 0 18 0x60) + 4 * (wen 0 0 18 0x60).off14.toInt ∧
       (80 : Int) = c.origin (wenL 0 0x60 0x60 0x7F 18) + 4 * (18 : Word).toInt ∧ codeHnd (lo32 (c.sa (wen 0 0x60 0x60 0x42) 0x42 .n32)) = 3 ∧
       codeOff (lo32 (c.sa (wen 0 0x60 0x60 0x42) 0x42 .n32)) = 80 ∧ (c.f.pc + 4 * 2 + 7) / 8 * 8 < 2 ^ 27 ∧
       (∀ L, L < 96 → bitOf (c.contrib c.own) L → c.g.vGet 6 L = codeAddr 3 80) ∧ c.contrib c.own ≠ 0 ∧ s.mayEnterBlock c 3 80) ∧
    (∃ c, wTorn.legal c (.ret (wen 0 0x60 6 0x60)) ∧ bitOf (c.contrib c.own) 0 = true ∧ bitOf (c.contrib c.own) 95 = true ∧
       c.g.vGet 6 0 ≠ c.g.vGet 6 95 ∧ wTorn.mayTrap c ∧ wTorn.mayEnterBlock c 3 80) := by
  refine ⟨?_, ?_⟩
  · obtain ⟨c, h, h1, h2, h3, h4, h5, h6, h7, h8, h9, h10, h11, h12, h13, h14, h15⟩ := meets
      (s := wCode false 0 [(2, codeAddr 3 80)] [(6, codeAddr 3 80)] 0) (i := .brZ (wen 0 0 18 0x60)) (P := fun c =>
       let s := wCode false 0 [(2, codeAddr 3 80)] [(6, codeAddr 3 80)] 0
       s.legal c (.brNz (wen 1 0 18 0x42)) ∧ s.legal c (.jmp (wenL 0 0x60 0x60 0x7F 18)) ∧
       s.legal c (.jmpIndirect (wen 0 0x60 0x60 0x42)) ∧ s.legal c (.call (wenL 0 5 0x60 0x7F 18)) ∧
       s.legal c (.callIndirect (wen 0 5 0x60 0x42)) ∧ s.legal c (.ret (wen 0 0x60 6 0x60)) ∧ c.f.hnd = 3 ∧
       (80 : Int) = c.origin (wen 0 0 18 0x60) + 4 * (wen 0 0 18 0x60).off14.toInt ∧
       (80 : Int) = c.origin (wenL 0 0x60 0x60 0x7F 18) + 4 * (18 : Word).toInt ∧ codeHnd (lo32 (c.sa (wen 0 0x60 0x60 0x42) 0x42 .n32)) = 3 ∧
       codeOff (lo32 (c.sa (wen 0 0x60 0x60 0x42) 0x42 .n32)) = 80 ∧ (c.f.pc + 4 * 2 + 7) / 8 * 8 < 2 ^ 27 ∧
       (∀ L, L < 96 → bitOf (c.contrib c.own) L → c.g.vGet 6 L = codeAddr 3 80) ∧ c.contrib c.own ≠ 0 ∧ wEnters s c 3 80 = true)
      (by decide +kernel)
    exact ⟨c, h, h1, h2, h3, h4, h5, h6, h7, h8, h9, h10, h11, h12, h13, h14, enters_of h15⟩
  · obtain ⟨c, h, h1, h2, h3, h4, h5⟩ := meets (s := wTorn) (i := .ret (wen 0 0x60 6 0x60)) (P := fun c =>
      bitOf (c.contrib c.own) 0 = true ∧ bitOf (c.contrib c.own) 95 = true ∧ c.g.vGet 6 0 ≠ c.g.vGet 6 95 ∧ wTraps wTorn c = true ∧
      wEnters wTorn c 3 80 = true) (by decide +kernel)
    exact ⟨c, h, h1, h2, h3, traps_of h4, enters_of h5⟩

/-- As `wCode`, with k1 and the index in v5 of lane 95. -/
def wSplit (k1 : Mask) (idx : Word) : State :=
  (wCode false 0 [] [] 0).modGroup 0 (fun g => { g.vPut 5 (fun L => some (if L = 95 then idx else 0)) with k := [(1, k1)] })

/-- A BRX's table with a number of ways, none of them empty or at the fusion point, and out-of-range lanes as given. -/
def wTable (s : State) (c : Iss) (e : Enc) (n : Nat) (out : Mask) (fusion : Int) : Bool :=
  let tb := s.table c e
  decide (tb.err = none ∧ tb.fusion = some fusion ∧ tb.ways.length = n ∧ tb.out = out) &&
    tb.ways.all (fun w => wHeader (s.header c c.f.hnd w.target true) && decide (w.target ≠ 64 ∧ w.lanes ≠ 0))

/-- As `wSplit`, with word 0 of the table naming the block at 80. -/
def wMismatch : State :=
  let s := wCode true 0 [] [] 0
  { s with tspad := Mem.writeAll s.tspad (bytesFrom 96 (unitBytes 0xFFFFC002)) }

/-- A fragment with these lanes and fusion record, k1 picking lane 0, among other entries and deferral records; lane 95 has the index given. -/
def wRecord (act : Mask) (fe : Option Nat) (es : List (Nat × Entry)) (ds : List Defer) (idx : Word) : State :=
  (wSplit 1 idx).modGroup 0 (fun g => { g with table := (0, .frag (newFrag 3 8 0 act fe 0)) :: es, defer := ds })

/-- A record of the block's fusion point, in entry 7. -/
def wFusion (exp arr : Mask) : List (Nat × Entry) := [(7, .fusion ⟨3, 64, exp, arr, none⟩)]
/-- No free entry, and n deferral records of the fragment. -/
def wTaken : List (Nat × Entry) := (List.range 15).map (fun n => (n + 1, .fusion ⟨3, 112, 1, 0, none⟩))
def wDefers (n : Nat) : List Defer := List.replicate n ⟨0, 3, 112, 12, 0, 2, 4⟩

/-- The conditions that every split shares. -/
def wSplits (s : State) (c : Iss) (i : Instr) : Prop :=
  s.legal c i ∧ s.fusionPoint c = some 64 ∧ c.g.covered = none ∧ c.f.act &&& c.real ≠ 0 ∧ (∀ n ∈ c.g.freeEntries, c.g.topDefer n = none)

theorem witness_SplitsReuseAndDefer :
    (let s := wRecord (BitVec.allOnes 96) (some 7) (wFusion (BitVec.allOnes 96) 0) [] 0
     ∃ c, wSplits s c (.brv (wen 0 0 18 1)) ∧ c.reuse 64 = some 7 ∧ 1 ≤ c.g.freeEntries.length ∧ s.blockEnd c c.f ≠ some (c.f.pc + 4) ∧
       c.f.act &&& c.k 1 = 1 ∧ wHeader (s.header c c.f.hnd (80 : Nat) true) = true) ∧
    (∀ n ∈ [0, 16], let s := wRecord (BitVec.allOnes 96) none wTaken (wDefers n) 0
     ∃ c, wSplits s c (.brv (wen 0 0 18 1)) ∧ c.reuse 64 = none ∧ c.g.freeEntries = [] ∧ c.g.defer.length = n ∧ s.assisted 3 = false ∧
       c.b.st = .running ∧ c.f.act &&& c.k 1 = 1 ∧ wHeader (s.header c c.f.hnd (80 : Nat) true) = true) ∧
    (let s := (wRecord (BitVec.allOnes 96) none [] [] 0).modGroup 0 (fun g => g.vPut 5 (fun _ => some 5))
     ∃ c, wSplits s c (.brx (wenL 0 0x60 5 0x7F 22)) ∧ wTable s c (wenL 0 0x60 5 0x7F 22) 0 (BitVec.allOnes 96) 64 = true ∧
       wEnters s c 3 64 = true) ∧
    (let s := wRecord (BitVec.allOnes 96) (some 7) (wFusion (BitVec.allOnes 96) 0) [] 1
     ∃ c, wSplits s c (.brx (wenL 0 0x60 5 0x7F 22)) ∧ wTable s c (wenL 0 0x60 5 0x7F 22) 2 0 64 = true ∧ c.reuse 64 = some 7 ∧
       1 ≤ c.g.freeEntries.length ∧ c.g.entry 7 = .fusion ⟨3, 64, BitVec.allOnes 96, 0, none⟩) ∧
    (∀ n ∈ [0, 16], let s := wRecord (BitVec.allOnes 96) none wTaken (wDefers n) 1
     ∃ c, wSplits s c (.brx (wenL 0 0x60 5 0x7F 22)) ∧ wTable s c (wenL 0 0x60 5 0x7F 22) 2 0 64 = true ∧ c.reuse 64 = none ∧
       c.g.freeEntries = [] ∧ c.g.defer.length = n ∧ s.assisted 3 = false ∧ c.b.st = .running) := by
  unfold wSplits
  refine ⟨?_, fun n hn => ?_, ?_, ?_, fun n hn => ?_⟩
  · obtain ⟨c, h, k⟩ := meets (s := wRecord (BitVec.allOnes 96) (some 7) (wFusion (BitVec.allOnes 96) 0) [] 0) (i := .brv (wen 0 0 18 1)) (P := fun c =>
      let s := wRecord (BitVec.allOnes 96) (some 7) (wFusion (BitVec.allOnes 96) 0) [] 0
      (s.fusionPoint c = some 64 ∧ c.g.covered = none ∧ c.f.act &&& c.real ≠ 0 ∧ (∀ n ∈ c.g.freeEntries, c.g.topDefer n = none)) ∧
      c.reuse 64 = some 7 ∧ 1 ≤ c.g.freeEntries.length ∧ s.blockEnd c c.f ≠ some (c.f.pc + 4) ∧
       c.f.act &&& c.k 1 = 1 ∧ wHeader (s.header c c.f.hnd (80 : Nat) true) = true) (by decide +kernel)
    exact ⟨c, ⟨h, k.1⟩, k.2⟩
  · obtain ⟨c, h, k⟩ := meets (s := wRecord (BitVec.allOnes 96) none wTaken (wDefers n) 0) (i := .brv (wen 0 0 18 1)) (P := fun c =>
      let s := wRecord (BitVec.allOnes 96) none wTaken (wDefers n) 0
      (s.fusionPoint c = some 64 ∧ c.g.covered = none ∧ c.f.act &&& c.real ≠ 0 ∧ (∀ n ∈ c.g.freeEntries, c.g.topDefer n = none)) ∧
      c.reuse 64 = none ∧ c.g.freeEntries = [] ∧ c.g.defer.length = n ∧ s.assisted 3 = false ∧
       c.b.st = .running ∧ c.f.act &&& c.k 1 = 1 ∧ wHeader (s.header c c.f.hnd (80 : Nat) true) = true)
      (by simp only [List.mem_cons, List.not_mem_nil, or_false] at hn; obtain rfl | rfl := hn <;> decide +kernel)
    exact ⟨c, ⟨h, k.1⟩, k.2⟩
  · obtain ⟨c, h, k⟩ := meets (s := (wRecord (BitVec.allOnes 96) none [] [] 0).modGroup 0 (fun g => g.vPut 5 (fun _ => some 5)))
      (i := .brx (wenL 0 0x60 5 0x7F 22)) (P := fun c =>
      let s := (wRecord (BitVec.allOnes 96) none [] [] 0).modGroup 0 (fun g => g.vPut 5 (fun _ => some 5))
      (s.fusionPoint c = some 64 ∧ c.g.covered = none ∧ c.f.act &&& c.real ≠ 0 ∧ (∀ n ∈ c.g.freeEntries, c.g.topDefer n = none)) ∧
      wTable s c (wenL 0 0x60 5 0x7F 22) 0 (BitVec.allOnes 96) 64 = true ∧ wEnters s c 3 64 = true) (by decide +kernel)
    exact ⟨c, ⟨h, k.1⟩, k.2⟩
  · obtain ⟨c, h, k⟩ := meets (s := wRecord (BitVec.allOnes 96) (some 7) (wFusion (BitVec.allOnes 96) 0) [] 1)
      (i := .brx (wenL 0 0x60 5 0x7F 22)) (P := fun c =>
      let s := wRecord (BitVec.allOnes 96) (some 7) (wFusion (BitVec.allOnes 96) 0) [] 1
      (s.fusionPoint c = some 64 ∧ c.g.covered = none ∧ c.f.act &&& c.real ≠ 0 ∧ (∀ n ∈ c.g.freeEntries, c.g.topDefer n = none)) ∧
      wTable s c (wenL 0 0x60 5 0x7F 22) 2 0 64 = true ∧ c.reuse 64 = some 7 ∧
       1 ≤ c.g.freeEntries.length ∧ c.g.entry 7 = .fusion ⟨3, 64, BitVec.allOnes 96, 0, none⟩) (by decide +kernel)
    exact ⟨c, ⟨h, k.1⟩, k.2⟩
  · obtain ⟨c, h, k⟩ := meets (s := wRecord (BitVec.allOnes 96) none wTaken (wDefers n) 1) (i := .brx (wenL 0 0x60 5 0x7F 22)) (P := fun c =>
      let s := wRecord (BitVec.allOnes 96) none wTaken (wDefers n) 1
      (s.fusionPoint c = some 64 ∧ c.g.covered = none ∧ c.f.act &&& c.real ≠ 0 ∧ (∀ n ∈ c.g.freeEntries, c.g.topDefer n = none)) ∧
      wTable s c (wenL 0 0x60 5 0x7F 22) 2 0 64 = true ∧ c.reuse 64 = none ∧
       c.g.freeEntries = [] ∧ c.g.defer.length = n ∧ s.assisted 3 = false ∧ c.b.st = .running)
      (by simp only [List.mem_cons, List.not_mem_nil, or_false] at hn; obtain rfl | rfl := hn <;> decide +kernel)
    exact ⟨c, ⟨h, k.1⟩, k.2⟩

theorem witness_SplitsFillTheTable :
    (∀ k ∈ [(1 : Mask), 0, BitVec.allOnes 96], let s := wSplit k 0
     ∃ c, s.legal c (.brv (wen 0 0 18 1)) ∧ s.fusionPoint c = some 64 ∧ c.g.covered = none ∧ c.f.act &&& c.real ≠ 0 ∧ c.reuse 64 = none ∧
       (∀ n ∈ List.range 16, c.g.topDefer n = none) ∧ (80 : Int) = c.origin (wen 0 0 18 1) + 4 * (wen 0 0 18 1).off14.toInt ∧
       wHeader (s.header c c.f.hnd (80 : Nat) true) = true ∧ 2 ≤ c.g.freeEntries.length ∧ s.blockEnd c c.f ≠ some (c.f.pc + 4) ∧
       (c.f.act &&& c.k 1 = k) ∧ wEnters s c 3 80 = true) ∧
    (∀ p ∈ [((0 : Word), 1, (0 : Mask)), (1, 2, 0), (2, 1, 1#96 <<< 95)], let s := wSplit 0 p.1
     ∃ c, s.legal c (.brx (wenL 0 0x60 5 0x7F 22)) ∧ s.fusionPoint c = some 64 ∧ c.g.covered = none ∧ c.f.act &&& c.real ≠ 0 ∧
       c.reuse 64 = none ∧ (∀ n ∈ List.range 16, c.g.topDefer n = none) ∧ wTable s c (wenL 0 0x60 5 0x7F 22) p.2.1 p.2.2 64 = true ∧
       2 ≤ c.g.freeEntries.length ∧ wEnters s c 3 80 = true) ∧
    (let s := wMismatch
     ∃ c, s.legal c (.brx (wenL 0 0x60 5 0x7F 22)) ∧ s.fusionPoint c = some 64 ∧ c.g.covered = none ∧ c.f.act &&& c.real ≠ 0 ∧
       c.reuse 64 = none ∧ (∀ n ∈ List.range 16, c.g.topDefer n = none) ∧ wTable s c (wenL 0 0x60 5 0x7F 22) 1 0 80 = true ∧
       wTraps s c = true) := by
  refine ⟨fun k hk => meets ?_, fun p hp => meets ?_, meets ?_⟩
  · simp only [List.mem_cons, List.not_mem_nil, or_false] at hk
    obtain rfl | rfl | rfl := hk <;> decide +kernel
  · simp only [List.mem_cons, List.not_mem_nil, or_false] at hp
    obtain rfl | rfl | rfl := hp <;> decide +kernel
  · decide +kernel

/-- A sound header that is, or is not, a fusion point. -/
def wHeaderIs (r : Found) (fuse : Bool) : Bool := match r with | .ok h => h.fuse == fuse | _ => false

theorem header_of {r : Found} {fuse : Bool} (h : wHeaderIs r fuse = true) : ∃ x, r = .ok x ∧ x.fuse = fuse := by
  cases r with
  | ok x => exact ⟨x, rfl, eq_of_beq h⟩
  | bad _ => exact absurd h Bool.false_ne_true
  | stop _ => exact absurd h Bool.false_ne_true

/-- A record in entry 7 with the fusion point at 64 completes soundly. -/
def wFuses (s : State) (c : Iss) : Bool :=
  decide (c.g.topDefer 7 = none ∧ c.g.inner 7 { c.f with fe := none } ≠ some (3, 64)) && wHeader (s.header c 3 (64 : Nat) true)

theorem fuses_of {s : State} {c : Iss} (exp arr : Mask) (h : wFuses s c = true) : s.mayFuse c 7 ⟨3, 64, exp, arr, none⟩ := by
  unfold wFuses at h
  rw [Bool.and_eq_true] at h
  have k := of_decide_eq_true h.1
  exact ⟨k.1, ok_of h.2, k.2⟩

/-- Lane 0 alone, at a transfer to its fusion point, whose record expects lane 1 too, or no other; with a deferral record of lane 1 that starts at
a header or within a block, or of no lane. -/
theorem witness_ArriveFuseAndDefer :
    (∀ exp ∈ [(3 : Mask), 1], let s := wRecord 1 (some 7) (wFusion exp 0) [] 0
     ∃ c h, s.legal c (.jmp (wenL 0 0x60 0x60 0x7F 14)) ∧ (64 : Int) = c.origin (wenL 0 0x60 0x60 0x7F 14) + 4 * (14 : Word).toInt ∧
       s.header c c.f.hnd (64 : Nat) true = .ok h ∧ h.fuse = true ∧ c.g.inner c.cur.ent c.f = some (c.f.hnd, 64) ∧ c.g.covered = none ∧
       c.f.act &&& c.real ≠ 0 ∧ c.g.topDefer c.cur.ent = none ∧ c.f.fe = some 7 ∧ c.g.entry 7 = .fusion ⟨3, 64, exp, 0, none⟩ ∧
       (exp &&& ~~~((0 : Mask) ||| c.f.act) = 0 ↔ exp = 1) ∧ s.mayFuse c 7 ⟨3, 64, exp, 0, none⟩) ∧
    (∀ d ∈ [(⟨0, 3, 64, 80, 80, 2, 0⟩ : Defer), ⟨0, 3, 64, 12, 0, 2, 4⟩, ⟨0, 3, 64, 80, 80, 0, 4⟩], let s := wRecord 1 none [] [d] 0
     ∃ c h, s.legal c (.jmp (wenL 0 0x60 0x60 0x7F 14)) ∧ s.header c c.f.hnd (64 : Nat) true = .ok h ∧ h.fuse = true ∧
       c.g.inner c.cur.ent c.f = some (c.f.hnd, 64) ∧ c.g.covered = none ∧ c.f.act &&& c.real ≠ 0 ∧ c.g.topDefer c.cur.ent = some d ∧
       (d.pcn = d.blk → ∃ x, s.header c d.hnd d.pcn true = .ok x ∧ x.fuse = false) ∧
       (c.g.setTop c.cur.ent none).inner c.cur.ent c.f ≠ some (c.f.hnd, 64) ∧ d.nmask &&& c.real = d.nmask ∧
       s.legal c (.exit (wen 0 0x60 0x60 0x60)) ∧ c.f.st ≠ .handler ∧ (c.g.gone c.f.act).covered = none) ∧
    (let s := wRecord 1 (some 7) (wFusion 3 2) [] 0
     ∃ c, s.legal c (.exit (wen 0 0x60 0x60 0x60)) ∧ c.f.st ≠ .handler ∧ c.g.topDefer c.cur.ent = none ∧
       (c.g.gone c.f.act).covered = some 7 ∧ (c.g.gone c.f.act).entry 7 = .fusion ⟨3, 64, 2, 2, none⟩ ∧ (2 : Mask) &&& c.real ≠ 0 ∧
       (∀ p ∈ (c.g.gone c.f.act).table, ∀ y, p.1 ≠ 7 → p.2 = .fusion y → y.exp &&& ~~~y.arr ≠ 0) ∧ s.mayFuse c 7 ⟨3, 64, 2, 2, none⟩) ∧
    (let s := wRecord 1 none [(1, .frag (newFrag 3 8 0 2 none 0))] [] 0
     ∃ c, s.legal c (.exit (wen 0 0x60 0x60 0x60)) ∧ c.f.st ≠ .handler ∧ (c.g.gone c.f.act).covered = none ∧
       c.g.topDefer c.cur.ent = none ∧ ((c.g.gone c.f.act).setEntry c.cur.ent .free).alive &&& c.real ≠ 0) := by
  refine ⟨fun exp hx => ?_, fun d hd => ?_, ?_, meets ?_⟩
  · obtain ⟨c, h, h1, h2, h3, h4, h5, h6, h7, h8, h9, h10⟩ := meets (s := wRecord 1 (some 7) (wFusion exp 0) [] 0)
      (i := .jmp (wenL 0 0x60 0x60 0x7F 14)) (P := fun c =>
      let s := wRecord 1 (some 7) (wFusion exp 0) [] 0
      (64 : Int) = c.origin (wenL 0 0x60 0x60 0x7F 14) + 4 * (14 : Word).toInt ∧ wHeaderIs (s.header c c.f.hnd (64 : Nat) true) true = true ∧
       c.g.inner c.cur.ent c.f = some (c.f.hnd, 64) ∧ c.g.covered = none ∧
       c.f.act &&& c.real ≠ 0 ∧ c.g.topDefer c.cur.ent = none ∧ c.f.fe = some 7 ∧ c.g.entry 7 = .fusion ⟨3, 64, exp, 0, none⟩ ∧
       (exp &&& ~~~((0 : Mask) ||| c.f.act) = 0 ↔ exp = 1) ∧ wFuses s c = true)
      (by simp only [List.mem_cons, List.not_mem_nil, or_false] at hx; obtain rfl | rfl := hx <;> decide +kernel)
    obtain ⟨x, hx, hf⟩ := header_of h2
    exact ⟨c, x, h, h1, hx, hf, h3, h4, h5, h6, h7, h8, h9, fuses_of _ _ h10⟩
  · obtain ⟨c, h, h1, h2, h3, h4, h5, h6, h7⟩ := meets (s := wRecord 1 none [] [d] 0)
      (i := .jmp (wenL 0 0x60 0x60 0x7F 14)) (P := fun c =>
      let s := wRecord 1 none [] [d] 0
      wHeaderIs (s.header c c.f.hnd (64 : Nat) true) true = true ∧
       c.g.inner c.cur.ent c.f = some (c.f.hnd, 64) ∧ c.g.covered = none ∧ c.f.act &&& c.real ≠ 0 ∧ c.g.topDefer c.cur.ent = some d ∧
       (d.pcn = d.blk → wHeaderIs (s.header c d.hnd d.pcn true) false = true) ∧
       (c.g.setTop c.cur.ent none).inner c.cur.ent c.f ≠ some (c.f.hnd, 64) ∧ d.nmask &&& c.real = d.nmask ∧
       s.legal c (.exit (wen 0 0x60 0x60 0x60)) ∧ c.f.st ≠ .handler ∧ (c.g.gone c.f.act).covered = none)
      (by simp only [List.mem_cons, List.not_mem_nil, or_false] at hd; obtain rfl | rfl | rfl := hd <;> decide +kernel)
    obtain ⟨x, hx, hf⟩ := header_of h1
    exact ⟨c, x, h, hx, hf, h2, h3, h4, h5, fun q => header_of (h6 q), h7⟩
  · obtain ⟨c, h, h1, h2, h3, h4, h5, h6, h7⟩ := meets (s := wRecord 1 (some 7) (wFusion 3 2) [] 0) (i := .exit (wen 0 0x60 0x60 0x60)) (P := fun c =>
      let s := wRecord 1 (some 7) (wFusion 3 2) [] 0
      c.f.st ≠ .handler ∧ c.g.topDefer c.cur.ent = none ∧
       (c.g.gone c.f.act).covered = some 7 ∧ (c.g.gone c.f.act).entry 7 = .fusion ⟨3, 64, 2, 2, none⟩ ∧ (2 : Mask) &&& c.real ≠ 0 ∧
       ((c.g.gone c.f.act).table.filter (fun p => p.1 != 7)).all (fun p => match p.2 with | .fusion _ => false | _ => true) = true ∧
       wFuses s c = true) (by decide +kernel)
    refine ⟨c, h, h1, h2, h3, h4, h5, fun p hp y hn hy => ?_, fuses_of _ _ h7⟩
    have := List.all_eq_true.1 h6 p (List.mem_filter.2 ⟨hp, by simpa using hn⟩)
    rw [hy] at this
    exact absurd this Bool.false_ne_true
  · decide +kernel

theorem witness_ExitPassAndLatch :
    (let s := wCode false 1 [] [(4, 0x3081_4283), (5, 0x3081_4283)] 0
     ∃ c, s.legal c (.exit (wen 0 0x60 0x60 0x60)) ∧ c.f.fe = none ∧ c.g.topDefer c.cur.ent = none ∧ s.legal c (.nop (wen 0 0 0 0)) ∧
       s.legal c (.yield (wen 0 0x60 0x60 0x60)) ∧ c.f.latch = [] ∧ s.blockEnd c c.f = some 64 ∧ c.f.pc + 4 < 64 ∧
       s.legal c (.exlw (wen 0 0x60 4 0x60)) ∧ c.own ≠ 0 ∧
       ∀ L, L < 96 → bitOf c.own L → s.laneReason c ((c.g.vGet 4 L).zeroExtend 64) false = none) ∧
    (let s := wCode false 1 [] [(4, 0xFF80_0C80), (5, 0x3301_8082)] 0
     ∃ c, s.legal c (.exlw2 (wen 0 0x60 4 0x60)) ∧ c.own ≠ 0 ∧
       ∀ L, L < 96 → bitOf c.own L → s.laneReason c (c.g.vGet 5 L ++ c.g.vGet 4 L) true = none) := by
  refine ⟨meets ?_, meets ?_⟩ <;> decide +kernel

/-! ## Events -/

theorem witness_LinksColumnsAndTimersMove :
    (∃ (s : State) (n : Nat), isLink n = true ∧ s.linkState n = .full) ∧
    (∃ (s : State) (n : Nat), s.linkState n = .narrow ∧ s.assisted 6 = false ∧ s.asked 6 n = false) ∧
    (∃ (s : State) (n : Nat), s.linkState n = .narrow ∧ s.assisted 6 = true ∧ s.asked 6 n = false) ∧
    (∃ (s : State) (n : Nat), s.linkState n = .widening) ∧ (∃ (s : State) (n : Nat), s.linkState n = .waking) ∧
    (∃ s : State, s.assisted 5 = false ∧ ∀ col, col < 96 → s.asked 5 col = false) ∧
    (∃ (s : State) (col : Nat), s.assisted 5 = false ∧ s.asked 5 col = false ∧ col < 96 ∧ (s.column col).dwell = true) ∧
    (∃ (s : State) (col temp10 : Nat), s.assisted 5 = true ∧ s.asked 5 col = false ∧ col < 96 ∧ (s.column col).throttled = true ∧
      (s.column col).dwell = false ∧ temp10 ≤ 10 * (s.regs.tthrot - s.regs.hyst)) ∧
    (∃ (s : State) (cur : Cursor), (s.fragAt cur).isSome = true) :=
  let h : State := { State.reset with regs := { State.reset.regs with accept := BitVec.allOnes 7, fnMode := BitVec.allOnes 7 } }
  ⟨⟨State.reset, ((List.range 512).find? isLink).getD 0, by decide +kernel⟩,
    ⟨{ State.reset with links := [(0, .narrow)] }, 0, by decide +kernel⟩, ⟨{ h with links := [(0, .narrow)] }, 0, by decide +kernel⟩,
    ⟨{ State.reset with links := [(0, .widening)] }, 0, by decide +kernel⟩, ⟨{ State.reset with links := [(0, .waking)] }, 0, by decide +kernel⟩,
    ⟨State.reset, by decide +kernel⟩, ⟨{ State.reset with columns := [(95, ⟨900, true, true⟩)] }, 95, by decide +kernel⟩,
    ⟨{ h with columns := [(95, ⟨900, true, false⟩)] }, 95, 100, by decide +kernel⟩, ⟨mch [] [] [0], ⟨0, 0⟩, by decide +kernel⟩⟩

/-- A core of `mch`'s block with one half retired, or none, and a repeated transfer of each half. -/
def wCore (ret : Nat) : State := { mch [] [] [0] with cores := [(0, { Core.reset 0 with ret := ret, crc := [0, 1] })] }

theorem witness_HardwareFaultsAreRecorded :
    (∃ s : State, (s.core 767).ret < 3 ∧ (s.core 767).ret ≠ 0 + 1 ∧ 0 ∉ (s.core 767).crc) ∧
    (∀ r ∈ [0, 1], let s := wCore r
      (s.core 0).ret < 3 ∧ (s.core 0).ret ≠ 1 + 1 ∧ 1 ∈ (s.core 0).crc ∧ (s.core 0).ret = r ∧
        Map.find? s.blocks 0 = some loadedBlock ∧ loadedBlock.core = 0 ∧ loadedBlock.st = .running) ∧
    State.reset.regs.sageRecent = false ∧ (∃ s : State, s.regs.sageHalted = true) ∧ (2 ^ 43 - 128) % 128 = 0 ∧
    State.reset.populated (2 ^ 43 - 128) 128 = true ∧ (∃ r, State.reset.regs.rails[0]? = some r ∧ r.good ≠ 0) := by
  refine ⟨⟨State.reset, by decide +kernel⟩, by decide +kernel, by decide +kernel,
    ⟨{ State.reset with regs := { State.reset.regs with sageHalted := true } }, rfl⟩, by decide +kernel, by decide +kernel, _, rfl, by decide +kernel⟩

/-- A cluster in a state, with nothing on it but what `mch` holds. -/
def wClu (n : Nat) (x : CluState) : State := { mch [] [] [0] with clusters := [(n, x)] }

theorem witness_ClustersGateAndWake :
    (wClu 0 .on).cluState 0 = .on ∧ (∃ b ∈ [loadedBlock], Map.find? (wClu 0 .on).blocks 0 = some b ∧ b.st = .running ∧ b.core / 8 = 0) ∧
    (∀ x ∈ [CluState.drain, .save, .gated, .waking], (wClu 95 x).cluState 95 = x) ∧
    ((wClu 95 .drain).cluState 95 = .drain ∧ ∀ p ∈ (wClu 95 .drain).blocks, p.2.core / 8 ≠ 95) ∧
    ((wClu 95 .save).cluState 95 = .save ∧ (∀ p ∈ (wClu 95 .save).engines, p.2.core / 8 ≠ 95) ∧
      ∀ w ∈ (wClu 95 .save).cbuf, w.core / 8 ≠ 95) := by decide +kernel

/-- A tile in a state, its launch able to restart or not, with its block lost, one message logged, and a core's deque kept. -/
def wTileIn (x : TileState) (restart : Bool) (lost : List (Nat × Nat × Option Child)) : State :=
  let s := mch [] [] [0]
  { s.modLaunch 0 (fun l => { l with desc := { l.desc with restart := restart } }) with
    tiles := [(0, { Tile.reset with st := x, lost := lost, log := [⟨8, 0, false, .byte ⟨.tpad, 4⟩ 9⟩], deques := [(5, [⟨0, codeAddr 3 0, 0, 0, 0⟩])] })] }

/-- The area that tile 3 keeps for tile 7 is homed there. -/
theorem checkpointHome (k : Nat) (h : k < 2 ^ 29) : State.reset.homeTile (State.reset.checkpointArea 7 + k) = 7 ^^^ 4 := by
  have hi : State.reset.interleaved = 824633720832 := by decide +kernel
  have ha : State.reset.checkpointArea 7 = 961535803392 := by decide +kernel
  have hg : State.reset.regs.ig4 = 24 := rfl
  unfold State.homeTile
  rw [hi, ha, hg, if_neg (by omega)]
  show _ = 3
  omega

theorem witness_TilesResetAndReplay :
    ((State.reset.tileRec 7).st = .run ∧ (State.reset.tileRec (7 ^^^ 4)).st = .run ∧ (∀ k, k < 2 ^ 29 → State.reset.homeTile (State.reset.checkpointArea 7 + k) = 7 ^^^ 4) ∧
      (State.reset.tileRec 7).held = [] ∧ ∀ k, k < State.reset.checkpointLen 7 [] [] [] → State.reset.takes (State.reset.checkpointArea 7 + k)) ∧
    (∃ s : State, (s.tileRec (7 ^^^ 4)).st = .run) ∧
    (∃ s : State, (s.tileRec (4 ^^^ 4)).st ≠ .run ∧ s = wTileIn .halt true []) ∧
    (∃ b ∈ [loadedBlock], Map.find? (mch [] [] [0]).blocks 0 = some b ∧ b.core / 96 = 0 ∧ b.st ≠ .over) ∧
    ((wTileIn .halt true []).tileRec 0).st = .halt ∧
    (((wTileIn .restore true []).tileRec 0).st = .restore ∧ ∃ ds, ((wTileIn .restore true []).tileRec 0).deques = [(5, ds)]) ∧
    (((wTileIn .replay true []).tileRec 0).st = .replay ∧ ((wTileIn .replay true []).tileRec 0).lost = [] ∧
      ((wTileIn .replay true []).tileRec 0).held = []) ∧
    (∀ r ∈ [true, false], ((wTileIn .replay r [(0, 0, none)]).tileRec 0).st = .replay ∧
      ∀ x ∈ ((wTileIn .replay r [(0, 0, none)]).tileRec 0).lost, ∃ l ∈ ((wTileIn .replay r [(0, 0, none)]).launches.map Prod.snd),
        Map.find? (wTileIn .replay r [(0, 0, none)]).launches x.1 = some l ∧ l.phase = .admitted ∧ l.desc.restart = r) := by
  unfold State.takes
  refine ⟨⟨by decide +kernel, by decide +kernel, checkpointHome, by decide +kernel, by decide +kernel⟩, ⟨State.reset, by decide +kernel⟩, ⟨_, ?_, rfl⟩, ?_, ?_,
    ⟨?_, _, rfl⟩, ?_, ?_⟩ <;> decide +kernel

/-- A page table at 0x100000 that maps the first GiB onto itself in one leaf, and 4 KiB at 0x4000_0000 to 0x300000. -/
def wTables : List (Nat × Byte) :=
  let w := fun (a x : Nat) => bytesFrom a (toBytes 8 x)
  w 0x100000 (0x101001 + 15 * 2 ^ 60) ++ w 0x101000 (0x102001 + 15 * 2 ^ 60) ++ w 0x102000 (0x1D + 10 * 2 ^ 60) ++
    w 0x102008 (0x103001 + 15 * 2 ^ 60) ++ w 0x103000 (0x104001 + 15 * 2 ^ 60) ++ w 0x104000 0x30001D

/-- `mch` with that table for context 0, and bytes in memory. -/
def wMapped (bytes : List (Nat × Byte)) : State :=
  let s := mch [] [] [0]
  { s with mem := Mem.writeAll (Mem.writeAll s.mem wTables) bytes
           ctxs := [(0, { Ctx.reset with en := true, root := 0x100000, tsLen := 1, weight := 1, imgBase := 0x200000, imgPg := 64 })] }

/-- An entry of the context table for context n, at CTX.BASE = 0. -/
def wCtxEntry (n : Nat) : List (Nat × Byte) := bytesFrom (32 * n) (toBytes 32 (1 + 2 ^ 224 + 0x100 * 2 ^ 116 + 2 ^ 242))

theorem witness_ContextsEnableAndLeave :
    (∃ s : State, s.ctxReady ∧ (s.ctx 0).en = true ∧ Map.find? s.launches 0 = some (wLaunch 0 []) ∧ (wLaunch 0 []).ctx = 0) ∧
    (∃ s : State, s.ctxReady ∧ s.entryOk (s.ctxEntry 4095) = true ∧ (s.ctx 4095).en = false ∧ s = wMapped (wCtxEntry 4095)) ∧
    (∃ s : State, ¬ s.ctxReady ∧ s = State.reset) ∧ (∃ s : State, s.ctxReady ∧ (s.ctx 4095).en = false ∧ s = wMapped []) ∧
    (∃ s : State, (s.ctx 0).going = true ∧ (∀ p ∈ s.launches, p.2.ctx = 0 → p.2.phase = .ended) ∧ s.regs.own = .owned) ∧
    (∀ p ∈ State.reset.decants, p.2.ctx ≠ 0) ∧ (∃ s : State, s.regs.invOn = true ∧
      s.pendingIn s.regs.invRanges s.regs.invSeq = false) ∧ (∃ s : State, s.regs.invOn = false) ∧
    (∃ s : State, ∃ p ∈ s.decants, p.2.ctx = 0 ∧ (s.regs.invLen = 0 ∨ overlap p.2.va p.2.size s.regs.invVa (4096 * s.regs.invLen.toNat) = true)) := by
  refine ⟨⟨mch [] [] [0], ⟨?_, ?_⟩, ?_, rfl, rfl⟩, ⟨_, ⟨?_, ?_⟩, ?_, ?_, rfl⟩, ⟨_, fun h => absurd h.2 ?_, rfl⟩, ⟨_, ⟨?_, ?_⟩, ?_, rfl⟩,
    ⟨{ mch [] [] [0] with ctxs := [(0, { Ctx.reset with en := true, going := true })], launches := [] }, ?_⟩, ?_,
    ⟨{ State.reset with regs := { State.reset.regs with invOn := true } }, ?_⟩,
    ⟨State.reset, ?_⟩, ⟨{ State.reset with decants := [(9, ⟨0, 0x40000000, 4096, 0x300000, 0x301000, [], [], 0, false, true, 0⟩)] }, ?_⟩⟩ <;>
    decide +kernel
/-- What a decant is told of a page. -/
def wDecantable (s : State) (n va dst : Nat) (size pa : Nat) : Bool :=
  match s.decantable n va dst with | .ok l => decide (l.size = size ∧ l.pa = pa ∧ l.va = va) | .error _ => false

theorem decantable_of {s : State} {n va dst size pa : Nat} (h : wDecantable s n va dst size pa = true) :
    ∃ l, s.decantable n va dst = .ok l ∧ l.size = size ∧ l.pa = pa ∧ l.va = va := by
  unfold wDecantable at h
  split at h
  · rename_i l hl; exact ⟨l, hl, of_decide_eq_true h⟩
  · exact absurd h Bool.false_ne_true

/-- A decant of the 4 KiB page of `wTables` to 0x301000, frozen or not, in a round, with n lines to come. -/
def wDecant (frozen : Bool) (round n : Nat) : State :=
  { wMapped [] with decants := [(9, ⟨0, 0x40000000, 4096, 0x300000, 0x301000, [], List.replicate n 0x300000, round, frozen, true, 0⟩)] }

def wHostMode (s : State) : State := { s with regs := { s.regs with fnMode := BitVec.allOnes 7 } }

theorem witness_DecantsCopyAndMove :
    (let s := { wMapped [] with regs := { (wMapped []).regs with decVa := 0x40000000, decDst := 0x301000 } }
     ∃ l, s.decantable 0 s.regs.decVa s.regs.decDst = .ok l ∧ l.size = 4096 ∧ l.pa = 0x300000 ∧ l.va = 0x40000000) ∧
    (∃ stat, (wMapped []).decantable 0 0x40000000 0x300000 = .error stat) ∧
    (∃ l, (wMapped []).decantable 0 0x40000000 0x301000 = .ok l ∧ l.size = 4096 ∧ l.pa = 0x300000 ∧ l.va = 0x40000000) ∧
    ((wMapped []).partOf 0x301000 = (wMapped []).partOf 0x300000 ∧ (wMapped []).partOf 0x301FFF = (wMapped []).partOf 0x300000 ∧
      (wMapped []).assisted 2 = false ∧
      (wMapped []).regs.sageHalted = false ∧ (wMapped []).asked 2 (pageOf 0 0x40000000) = false) ∧
    ((wHostMode (wMapped [])).assisted 2 = true ∧ (wHostMode (wMapped [])).asked 2 (pageOf 0 0x40000000) = false) ∧
    (∀ p ∈ [((0 : Nat), (63 : Nat)), (8, 512), (7, 64), (8, 513)], ∃ d, Map.find? (wDecant false p.1 p.2).decants 9 = some d ∧
      d.frozen = false ∧ (wDecant false p.1 p.2).frameUp d.dst d.size = true ∧ d.round = p.1 ∧ d.marked.length = p.2 ∧ d.old % 128 = 0 ∧ d.dst % 128 = 0 ∧ d.size % 128 = 0 ∧
      (wDecant false p.1 p.2).populated d.dst d.size = true ∧ overlap d.old d.size d.dst d.size = false ∧
      (wDecant false p.1 p.2).inWindow d.old d.size = false ∧ (wDecant false p.1 p.2).inWindow d.dst d.size = false ∧
      (wDecant false p.1 p.2).roomy (d.size + 128 * (wDecant false p.1 p.2).guests.length)) ∧
    (∃ d, Map.find? (wDecant true 1 0).decants 9 = some d ∧ d.frozen = true ∧ d.host = true ∧
      ({ wDecant true 1 0 with guests := [] } : State).pendingIn [(d.old, d.size)] (wDecant true 1 0).seq = false ∧
      (wDecant true 1 0).guests = [] ∧ (wDecant true 1 0).entryOf d.ctx d.va = some (0, 0x104000, 0x30001D) ∧
      (wDecant true 1 0).roomy (128 * (wDecant true 1 0).guests.length) ∧ (wDecant true 1 0).populated 0x104000 8 = true ∧
      (wDecant true 1 0).inWindow 0x104000 8 = false) := by
  unfold State.roomy
  refine ⟨decantable_of ?_, ?_, decantable_of ?_, ?_, ?_, ?_, ⟨_, rfl, ?_⟩⟩
  · decide +kernel
  · have h : (match (wMapped []).decantable 0 0x40000000 0x300000 with | .error _ => true | .ok _ => false) = true := by decide +kernel
    split at h
    · rename_i n hn; exact ⟨n, hn⟩
    · exact absurd h Bool.false_ne_true
  · decide +kernel
  · decide +kernel
  · decide +kernel
  · intro p hp
    simp only [List.mem_cons, List.not_mem_nil, or_false] at hp
    obtain rfl | rfl | rfl | rfl := hp <;> exact ⟨_, rfl, by decide +kernel⟩
  · decide +kernel

/-- An owned module with window 0 set for one superblock. -/
def wWindow : State :=
  { mch [] [] [0] with
    regs := { (mch [] [] [0]).regs with windows := (mch [] [] [0]).regs.windows.set 0 { Window.reset with sbcnt := 1, abase := 0x400000, cbase := 0x500000 } } }

theorem answers_of {s : State} (h : s.tiles = []) (l : Loc) : s.answers l = true := by
  unfold State.answers State.tileUp State.tileRec
  rw [h]
  split <;> rfl

theorem takes_of {s : State} {pa : Nat} (ht : s.tiles = []) (hw : s.regs.windows.all (fun w => !w.en) = true) (hp : pa < 2 ^ 40) :
    s.takes pa := by
  refine ⟨?_, by rw [noAlias_of hw]; rfl, answers_of ht _⟩
  unfold State.populated
  simp only [Bool.or_eq_true, decide_eq_true_eq]
  left; left; omega

/-- A firmware image that is two bytes of payload and whatever signature, held as loaded. -/
def wOwned : State := { State.reset with regs := { State.reset.regs with
  ownerKey := some (List.replicate 8 7), firmware := [some [1, 2], none, none] } }

/-- A key pair, an image of no code that its owner has signed, and a module of that owner that loads it. -/
def wSigner : SlhKey := ⟨[], [], List.replicate 32 0⟩
def wImage : List Byte := List.replicate 64 0 ++ wSigner.sign [] (List.replicate 64 0)
def wBoot (m : Mem) (n : Nat) (ks : List DWord) : State := { State.reset with
  mem := m, regs := { State.reset.regs with bootStat := 1, ownerKey := some ks, bootRun := (0, n, 0) } }

theorem wBoot_byte (m : Mem) (n : Nat) (ks : List DWord) (i : Nat) : (wBoot m n ks).ownerByte i = m.read i := by
  have : (wBoot m n ks).aliasOf i = none := rfl
  rw [State.ownerByte, this]; rfl

theorem written_image (img : List Byte) (n : Nat) (ks : List DWord) :
    tab img.length (fun i => (wBoot (Mem.writeAll [] (bytesFrom 0 img)) n ks).ownerByte (0 + i)) = img := by
  refine List.ext_getElem (by simp) (fun i h1 h2 => ?_)
  have : (wBoot (Mem.writeAll [] (bytesFrom 0 img)) n ks).ownerByte i = img.getD i 0 :=
    (wBoot_byte ..).trans ((Mem.read_writeAll_from img 0 i (m := []) rfl).trans (by rw [if_pos (by omega), Nat.sub_zero]))
  simp [tab, this, h2]

theorem witness_BootSigned : ∃ (s : State) (ks : List DWord), s.regs.bootStat = 1 ∧ s.regs.ownerKey = some ks ∧
    let (src, len, _) := s.regs.bootRun
    let img := tab len (fun i => s.ownerByte (src + i))
    slhValid (ks.flatMap (fun x => toBytes 8 x.toNat)) (img.take (img.length - 29792)) (img.drop (img.length - 29792)) = true := by
  have hs : wSigner.seed.length = 32 := rfl
  obtain ⟨ks, hk⟩ := keyBytes_surj 8 wSigner.public (wSigner.public_length hs)
  have hn : wImage.length - 29792 = 64 := by
    rw [wImage, List.length_append, wSigner.sign_length _ _ hs, List.length_replicate]
  have h1 : wImage.take 64 = List.replicate 64 0 := List.take_left' (List.length_replicate ..)
  have h2 : wImage.drop 64 = wSigner.sign [] (List.replicate 64 0) := List.drop_left' (List.length_replicate ..)
  have hv : slhValid (keyBytes ks) (wImage.take (wImage.length - 29792)) (wImage.drop (wImage.length - 29792)) = true := by
    rw [hk, hn, h1, h2]; exact wSigner.sign_valid _ _ hs
  generalize wImage = img at hv
  refine ⟨wBoot (Mem.writeAll [] (bytesFrom 0 img)) img.length ks, ks, rfl, rfl, ?_⟩
  have e := written_image img img.length ks
  show slhValid (keyBytes ks)
    ((tab img.length (fun i => (wBoot (Mem.writeAll [] (bytesFrom 0 img)) img.length ks).ownerByte (0 + i))).take
      ((tab img.length (fun i => (wBoot (Mem.writeAll [] (bytesFrom 0 img)) img.length ks).ownerByte (0 + i))).length - 29792))
    ((tab img.length (fun i => (wBoot (Mem.writeAll [] (bytesFrom 0 img)) img.length ks).ownerByte (0 + i))).drop
      ((tab img.length (fun i => (wBoot (Mem.writeAll [] (bytesFrom 0 img)) img.length ks).ownerByte (0 + i))).length - 29792)) = true
  rw [e]
  exact hv

theorem witness_OwnershipAndUnitsTakeRequests :
    (∃ s : State, s.regs.own = .owned ∧ (s.ctx 0).en = true) ∧ (∃ s : State, s.regs.own = .unowned) ∧ State.reset.regs.own ≠ .unowned ∧
    (State.reset.regs.own = .scrubbing ∧ ∀ p ∈ State.reset.ctxs, p.2.en = false) ∧ State.reset.regs.evWait = [] ∧
    (0 < wWindow.regs.windows.length ∧ wWindow.windowBad 0 (wWindow.window 0) (1#4).toNat = false) ∧
    wWindow.windowBad 0 (wWindow.window 0) (2#4).toNat = true ∧
    (∃ s : State, s.regs.own = .owned ∧ (∀ p ∈ s.ctxs, p.2.en = false) ∧
      s.regs.bootLen.toNat = 64 + s.ownerNum (s.regs.bootSrc + 8) 4 + 29792) ∧
    (∃ s : State, s.regs.bootStat = 1 ∧ s.regs.ownerKey = some [] ∧ s.regs.bootRun = (0, 0, 0) ∧ slhValid [] [] [] = false ∧
      slhValid (tab 64 Config.vendorKey) [] [] = false) ∧
    (wOwned.regs.nonce.length = 4 ∧ (∀ k, k < 30048 → wOwned.takes (wOwned.regs.attDst + k)) ∧
      wOwned.regs.firmware[0]? = some (some [1, 2]) ∧ wOwned.regs.ownerKey = some (List.replicate 8 7) ∧ State.reset.regs.ownerKey = none) ∧
    State.reset.feat 0 = false ∧
    (let s := { mch [] [] [0] with mem := Mem.writeAll (mch [] [] [0]).mem (bytesFrom 16 (toBytes 16 (1 + 2 ^ 48 + 0x200 * 2 ^ 64))) }
     let x := s.ownerNum (s.regs.collBase + 16) 16
     s.feat 0 = true ∧ s.collBusy 1 = false ∧ x % 2 = 1 ∧ fld x 15 1 = 0 ∧ fld x 47 32 < fld x 63 48 + 1 ∧ fld x 63 48 = 1 ∧
       BitVec.ofNat 32 (s.ownerNum (fld x 127 64 + 4 * fld x 47 32) 4) = s.regs.linkId) :=
  ⟨⟨mch [] [] [0], by decide +kernel⟩, ⟨{ State.reset with regs := { State.reset.regs with own := .unowned } }, rfl⟩, by decide +kernel,
    by decide +kernel, by decide +kernel, by decide +kernel, by decide +kernel,
    ⟨{ mch [] [] [0] with ctxs := [], regs := { (mch [] [] [0]).regs with bootLen := 29856 } }, by decide +kernel⟩,
    ⟨{ State.reset with regs := { State.reset.regs with bootStat := 1, ownerKey := some [] } }, rfl, rfl, rfl, by decide +kernel, by decide +kernel⟩,
    ⟨by decide +kernel, fun k hk => takes_of rfl (by decide +kernel) (by rw [show wOwned.regs.attDst = 0 by decide +kernel]; omega),
      rfl, rfl, rfl⟩, by decide +kernel, by decide +kernel⟩

/-- A queue of context 0 with one packet, at 0x200000. -/
def wQueue (x : Nat) : State :=
  { wMapped (bytesFrom 0x200000 (toBytes 64 x)) with
    queues := [(3, { Queue.reset with base := 0x200000, en := true, drv := true, tail := 1, log2 := 1 })] }

/-- A tile in reset, and one with a block's lane slices. -/
def wTileDown : State := { State.reset with tiles := [(1, { Tile.reset with st := .halt })] }
def wSlices : State := { State.reset with tiles := [(0, { Tile.reset with slices := [(0x8000, 128)] })] }

theorem witness_HostReadsAndWrites :
    (State.reset.hostReach 0x1000 64 = true ∧ (∀ k, k < 64 → State.reset.takes (0x1000 + k)) ∧ (∀ k, k < 64 → State.reset.inSlice (0x1000 + k) = false)) ∧
    wTileDown.hostReach 0xFFF 2 = false ∧ (wSlices.inSlice 0x8000 = true ∧ wSlices.hostReach 0x8000 8 = true ∧ ∀ g ∈ wSlices.guests, g.dirty = false) ∧
    State.reset.populated (2 ^ 40) 1 = false ∧
    (∃ s : State, (s.aliasOf 0x400000).isSome = true) ∧ (3 ≠ 4 ∧ 3 ≠ 8) ∧ (0x142 % 4 ≠ 0) ∧ (0x144 % 8 ≠ 0) ∧
    (((wQueue 0).queue 3).en = true ∧ (wQueue 0).accepts ((wQueue 0).queue 3).ctx = true ∧
      ((2 : Word) - ((wQueue 0).queue 3).head).toNat ≤ 2 ^ ((wQueue 0).queue 3).log2 ∧
      2 ^ ((wQueue 0).queue 3).log2 < ((3 : Word) - ((wQueue 0).queue 3).head).toNat) ∧
    (∃ s : State, (s.queue 3).en = true ∧ s.accepts (s.queue 3).ctx = false) ∧ (State.reset.queue 3).en = false :=
  ⟨⟨by decide +kernel, fun k hk => takes_of rfl (by decide +kernel) (by omega), by decide +kernel⟩, by decide +kernel, by decide +kernel, by decide +kernel, ⟨{ wWindow with regs := { wWindow.regs with windows :=
      [{ Window.reset with sbcnt := 1, abase := 0x400000, cbase := 0x500000, en := true }] } }, by decide +kernel⟩, by decide, by decide, by decide,
    by decide +kernel, ⟨{ wQueue 0 with ctxs := [] }, by decide +kernel⟩, by decide +kernel⟩

/-- The packets of the witnesses: LAUNCH, RESUME, EDGE, SIGNAL, WAIT, MARK, and a duty reply. -/
def wPktLaunch : Nat := 1 + 0x10000 * 2 ^ 64 + 0x20000 * 2 ^ 128 + 4 * 2 ^ 192 + 2 ^ 204 + 2 ^ 208 + 0x30000 * 2 ^ 256
def wPktResume : Nat := 2 + 0x10000 * 2 ^ 64
def wPktEdge : Nat := 3 + 0x10000 * 2 ^ 128
def wPktSignal : Nat := 4 + 7 * 2 ^ 32 + 0x10000 * 2 ^ 64
def wPktWait : Nat := 5 + 7 * 2 ^ 32 + 0x10000 * 2 ^ 64
def wPktMark : Nat := 6 + 7 * 2 ^ 32 + 0x10000 * 2 ^ 64
def wPktReply : Nat := 4 + 5 * 2 ^ 128

/-- The queue of `wQueue` with acts and a wait. -/
def wActs (x : Nat) (acts : List QAct) (wait : Option (Nat × Word)) : State :=
  { wQueue x with queues := [(3, { (wQueue x).queue 3 with acts := acts, wait := wait })] }

theorem witness_PacketsAct :
    (∀ p ∈ [(wPktLaunch, 1), (wPktResume, 2), (wPktEdge, 3), (wPktWait, 5)], ({ wQueue p.1 with ctxs := [] } : State).packet 3 = some p.1 ∧
      p.1 % 256 = p.2 ∧ ({ wQueue p.1 with ctxs := [] } : State).accepts ((wQueue p.1).queue 3).ctx = false) ∧
    (∀ x ∈ [0, 7, 255], (wQueue x).packet 3 = some x ∧ (x % 256 = 0 ∨ 6 < x % 256) ∧ (wQueue x).accepts 0 = true) ∧
    ((wQueue wPktLaunch).packet 3 = some wPktLaunch ∧ (wQueue wPktLaunch).accepts 0 = true ∧
      (wQueue wPktLaunch).goodAddr 0 (fld wPktLaunch 319 256) 32 32 = true ∧ (wQueue wPktLaunch).badPacket 0 wPktLaunch = false) ∧
    ((wQueue (wPktLaunch + 2 ^ 256)).packet 3 = some (wPktLaunch + 2 ^ 256) ∧
      (wQueue (wPktLaunch + 2 ^ 256)).goodAddr 0 (fld (wPktLaunch + 2 ^ 256) 319 256) 32 32 = false) ∧
    ((wQueue (wPktLaunch - 2 ^ 208)).packet 3 = some (wPktLaunch - 2 ^ 208) ∧
      (wQueue (wPktLaunch - 2 ^ 208)).goodAddr 0 (fld (wPktLaunch - 2 ^ 208) 319 256) 32 32 = true ∧
      (wQueue (wPktLaunch - 2 ^ 208)).badPacket 0 (wPktLaunch - 2 ^ 208) = true) ∧
    ((wQueue wPktResume).packet 3 = some wPktResume ∧
      (wQueue wPktResume).latestLaunch 0 (BitVec.ofNat 32 (fld wPktResume 63 32)) (fun l => l.phase == .admitted && decide (l.status < 6)) = some (0, wLaunch 0 []) ∧
      fld wPktResume 511 128 = 0 ∧ fld wPktResume 31 8 = 0 ∧ fld wPktResume 127 64 % 4096 = 0 ∧ (wLaunch 0 []).images = []) ∧
    (∀ va ∈ [0x10000, 0x11000], let x := 2 + va * 2 ^ 64
     let l := { wLaunch 0 [] with images := [⟨0x200000, false, 4096, 0, false, false, 5, 0, 0, (0, 0), [], 0⟩] }
     let s := { wQueue x with launches := [(0, l)] }
     s.packet 3 = some x ∧ s.latestLaunch 0 0 (fun l => l.phase == .admitted && decide (l.status < 6)) = some (0, l) ∧
       (l.images.find? (fun i => !i.ready && i.bidx == s.numVa 0 (va + 0x18) 8 && i.child == (s.numVa 0 (va + 0x38) 4 % 2 == 1))).isSome = true) ∧
    ((wQueue (wPktResume + 2 ^ 32)).packet 3 = some (wPktResume + 2 ^ 32) ∧
      (wQueue (wPktResume + 2 ^ 32)).latestLaunch 0 (BitVec.ofNat 32 (fld (wPktResume + 2 ^ 32) 63 32)) (fun l => l.phase == .admitted && decide (l.status < 6)) = none) ∧
    ((wQueue wPktEdge).packet 3 = some wPktEdge ∧ fld wPktEdge 31 8 = 0 ∧ fld wPktEdge 127 100 = 0 ∧ fld wPktEdge 511 192 = 0 ∧
      (wQueue wPktEdge).goodAddr 0 (fld wPktEdge 191 128) 16 16 = true ∧
      (wQueue wPktEdge).latestLaunch 0 (BitVec.ofNat 32 (fld wPktEdge 63 32)) (fun _ => true) = some (0, wLaunch 0 [])) ∧
    ((wQueue (wPktEdge + 2 ^ 32)).packet 3 = some (wPktEdge + 2 ^ 32) ∧
      (wQueue (wPktEdge + 2 ^ 32)).latestLaunch 0 (BitVec.ofNat 32 (fld (wPktEdge + 2 ^ 32) 63 32)) (fun _ => true) = none) ∧
    ((wQueue (wPktEdge + 2 ^ 128)).packet 3 = some (wPktEdge + 2 ^ 128) ∧
      (wQueue (wPktEdge + 2 ^ 128)).goodAddr 0 (fld (wPktEdge + 2 ^ 128) 191 128) 16 16 = false) ∧
    (let s := { wQueue wPktSignal with launches := [] }
     s.packet 3 = some wPktSignal ∧ fld wPktSignal 159 128 = 0 ∧ s.accepts 0 = true ∧ s.dueSignal 3 = none ∧ fld wPktSignal 31 8 = 0 ∧
       fld wPktSignal 511 168 = 0 ∧ (∀ p ∈ s.launches, p.2.queue = 3 → p.2.phase = .ended) ∧ s.vaUp 0 0x10000 4 = true ∧ s.goodAddr 0 0x10000 4 4 = true) ∧
    (let s := { wQueue wPktSignal with launches := [(0, { wLaunch 0 [] with queue := 3 })] }
     s.packet 3 = some wPktSignal ∧ s.dueSignal 3 = none ∧ ∃ p ∈ s.launches, p.2.queue = 3 ∧ p.2.phase ≠ .ended) ∧
    (let s := wActs 0 [.signal 0x10000 7 []] none
     s.dueSignal 3 = some (.signal 0x10000 7 []) ∧ s.goodAddr 0 0x10000 4 4 = true) ∧
    (let s := wQueue wPktMark
     s.packet 3 = some wPktMark ∧ s.accepts 0 = true ∧ (s.queue 3).acts = [] ∧ fld wPktMark 31 8 = 0 ∧ fld wPktMark 511 128 = 0 ∧
       s.goodAddr 0 (fld wPktMark 127 64) 16 16 = true ∧ s.vaUp 0 (fld wPktMark 127 64) 16 = true) ∧
    (let s := wActs 0 [.mark 0x10000 7] none
     (s.queue 3).acts = .mark 0x10000 7 :: [] ∧ s.goodAddr 0 0x10000 16 16 = true ∧ s.vaUp 0 0x10000 16 = true) ∧
    (let s := wQueue wPktWait
     s.packet 3 = some wPktWait ∧ s.accepts 0 = true ∧ fld wPktWait 31 8 = 0 ∧ fld wPktWait 511 128 = 0 ∧
       s.goodAddr 0 (fld wPktWait 127 64) 4 4 = true) ∧
    (let s := wQueue (wPktWait + 2 ^ 64)
     s.packet 3 = some (wPktWait + 2 ^ 64) ∧ s.goodAddr 0 (fld (wPktWait + 2 ^ 64) 127 64) 4 4 = false) ∧
    (let s := wActs 0 [] (some (0x10000, 0))
     (s.queue 3).wait = some (0x10000, 0) ∧ s.scheduling = true ∧ s.vaUp 0 0x10000 4 = true ∧ s.goodAddr 0 0x10000 4 4 = true) ∧
    (∀ p ∈ [(0, 0), (0, 1), (1, 0), (5, 1), (6, 0), (6, 1)], let x := wPktReply + p.2 * 2 ^ 160
     let d : Duty := ⟨5, p.1, 0, []⟩
     let s := { wQueue x with regs := { (wQueue x).regs with duties := [d] }, links := [(0, .narrow)] }
     s.packet 3 = some x ∧ fld x 159 128 ≠ 0 ∧ s.accepts 0 = true ∧ fld x 31 8 = 0 ∧ fld x 511 168 = 0 ∧
       s.regs.duties.find? (fun d => d.seq == BitVec.ofNat 32 (fld x 159 128)) = some d ∧
       s.regs.unposted (BitVec.ofNat 32 (fld x 159 128)) = false ∧ (s.queue 3).drv = true ∧ fld x 167 160 = p.2 ∧
       p.2 < (if d.duty = 1 ∨ d.duty = 2 then 1 else 2) ∧ Map.find? s.launches d.what = some (wLaunch 0 []) ∧ s.linkState d.what = .narrow) ∧
    (let x := wPktReply + 2 ^ 160
     let s := { wQueue x with regs := { (wQueue x).regs with duties := [⟨5, 0, 0, []⟩] }
                              launches := [(0, { wLaunch 0 [] with phase := .parsed })] }
     s.packet 3 = some x ∧ Map.find? s.launches 0 = some { wLaunch 0 [] with phase := .parsed } ∧ s.accepts 0 = true) ∧
    (let x := wPktReply + 2 * 2 ^ 160
     let s := { wQueue x with regs := { (wQueue x).regs with duties := [⟨5, 5, 0, []⟩] } }
     s.packet 3 = some x ∧ (s.regs.duties.find? (fun d => d.seq == BitVec.ofNat 32 (fld x 159 128))).isSome = true ∧ 2 ≤ fld x 167 160 ∧
       s.accepts 0 = true) ∧
    (∀ d ∈ (wQueue wPktReply).regs.duties, d.seq ≠ BitVec.ofNat 32 (fld wPktReply 159 128)) := by
  refine ⟨?_, ?_, ?_, ?_, ?_, ?_, ?_, ?_, ?_, ?_, ?_, ?_, ?_, ?_, ?_, ?_, ?_, ?_, ?_, ?_, ?_, ?_, ?_⟩ <;> decide +kernel
/-- `wMapped` with other launches, blocks and groups. -/
def wLaunches (ls : List (Nat × Launch)) : State := { wMapped [] with launches := ls, blocks := [], groups := [] }

/-- A launch of 2 blocks none of which has started. -/
def wFresh : Launch := { wLaunch 0 [] with nblk := 2, next := 0 }

/-- A core with one child at its deque's tail. -/
def wDeque : State :=
  let s := wLaunches [(0, { wFresh with next := 2 })]
  { s with cores := [(5, { Core.reset 5 with deque := [⟨0, codeAddr 3 0, 7, 0, 0⟩] })] }
/-- A launch of tag 0 that has been parsed and is first in its queue, with its descriptor at 0x10000 and its table at 0x20000; h4 is a
global handle from `base`, 16 bytes long. -/
def wParsed (desc : Nat) (base : Nat) : Launch × State :=
  let l := { wLaunch 0 [] with phase := .parsed, read := false, daddr := 0x10000, htab := 0x20000, hcnt := 5, queue := 3 }
  let s := wLaunches [(0, l)]
  (l, { s with
    mem := Mem.writeAll s.mem (bytesFrom 0x10000 (toBytes 64 desc) ++ bytesFrom 0x20060 (toBytes 32 loadedHandle.toNat) ++
      bytesFrom 0x20080 (toBytes 32 (rawHandle 1 0 1 (base / 16) 16).toNat))
    queues := [(3, { Queue.reset with en := true, acts := [.launch 0] })] })

def wDescNum : Nat := 0x03000000 + 96 * 2 ^ 64 + 64 * 2 ^ 76

/-- Whether the launch of `wParsed` is admissible; what its descriptor, table and lease then come to. -/
def wAdmits (p : Launch × State) (badDesc breaks leased : Bool) : Bool :=
  let s := p.2
  let r := s.readLaunch p.1
  decide (Map.find? s.launches 0 = some p.1 ∧ p.1.phase = .parsed ∧ p.1.read = false ∧ s.firstInQueue 0 p.1 = true ∧ s.edgesMet p.1 = true ∧
    s.scheduling = true ∧ (s.ctx p.1.ctx).en = true ∧ (s.ctx p.1.ctx).going = false ∧ s.assisted 0 = false ∧ s.assisted 1 = false ∧ p.1.asked = [] ∧ p.1.answered = [] ∧
    ∀ q ∈ s.pools, q.2.lid ≠ 0) && (List.range 8).all s.tileUp &&
    r.2.2.badDesc r.1 == badDesc && (badDesc || (s.tableBreaks r.2.2 r.2.1 == breaks && (breaks ||
      ((s.setLaunch 0 { r.2.2 with answered := [0] }).lease 0 { r.2.2 with answered := [0] }).2.1 == leased)))

/-- A state with the block of `mch` ended with a cause, or stopped, under a launch that restarts or not. -/
def wBlock (st : BState) (cause : Nat) (restart : Bool) : State :=
  let s := wMapped []
  (s.modBlock 0 (fun b => { b with st := st, cause := cause })).modLaunch 0 (fun l => { l with desc := { l.desc with restart := restart } })

/-- A child block, ended with cause 16, whose join object is at the end of the tile window's first 64 KiB. -/
def wChild : Child := ⟨0, codeAddr 3 0, 0, 0x0700FFF0, 0⟩
def wJoining : State :=
  let s := wLaunches [(0, wLaunch 0 [rawHandle 1 1 7 0 65536])]
  { s with blocks := [(0, { loadedBlock with st := .ending, cause := 16, child := some wChild })] }

def wEnds (s : State) : Bool :=
  match Map.find? s.blocks 0 with
  | some b => decide (b.st = .ending ∧ s.busy 0 = false ∧ b.child = none ∧ s.forked 0 = false ∧ s.reached 0 b = false) &&
      (Map.find? s.launches b.lid).isSome && (s.cleanAll (s.dirtyOf 0)).isSome
  | none => false

/-- A waiting launch of priority 3 beside the resident one of priority 0. -/
def wContest : State :=
  let s := wMapped []
  { s with launches := Map.put s.launches 1 { wFresh with ctx := 1, prio := 3 } }

theorem witness_LaunchesStartAndEnd :
    (wAdmits (wParsed 0 0) true false false = true ∧ wAdmits (wParsed (wDescNum + 1) (2 ^ 40)) false false false = true ∧
      wAdmits (wParsed wDescNum 0x10000) false false true = true ∧
      wAdmits ((wParsed wDescNum 0).1, { (wParsed wDescNum 0).2 with mem := Mem.write (wParsed wDescNum 0).2.mem 0x20000 1 }) false true false = true) ∧
    ((wLaunches [(0, wFresh)]).scheduling = true ∧ Map.find? (wLaunches [(0, wFresh)]).launches 0 = some wFresh ∧ wFresh.live = true ∧
      ∃ r, (wLaunches [(0, wFresh)]).firstFor 0 = some (.sage, [(⟨0, 0, none, none⟩, 0, r)])) ∧
    (wDeque.scheduling = true ∧ Map.find? wDeque.launches 0 = some { wFresh with next := 2 } ∧ ({ wFresh with next := 2 } : Launch).live = true ∧
      (∃ x r, wDeque.firstFor 5 = some (.head 5, [(x, 5, r)]) ∧ x.lid = 0 ∧ x.img = none) ∧
      ∀ core ∈ [1, 767], ∃ x r, wDeque.firstFor core = some (.tail core 5, [(x, core, r)]) ∧ x.lid = 0 ∧ x.img = none) ∧
    (State.reset.firstFor 0 = none) ∧
    (wEnds (wBlock .ending 0 false) = true ∧ wEnds (wBlock .ending 28 true) = true ∧ wEnds (wBlock .ending 16 true) = true ∧
      wEnds (wBlock .ending 5 false) = true) ∧
    (let s := wJoining
     ∃ b ∈ s.blocks.map Prod.snd, Map.find? s.blocks 0 = some b ∧ b.st = .ending ∧ s.busy 0 = false ∧ s.forked 0 = false ∧
       s.reached 0 b = false ∧ b.cause ≠ 28 ∧ (s.cleanAll (s.dirtyOf 0)).isSome = true ∧ b.child = some wChild ∧
       s.joinLoc (wLaunch 0 [rawHandle 1 1 7 0 65536]) wChild.join = some ⟨.tpad, 0xFFF0⟩ ∧ s.answers ⟨.tpad, 0xFFF0⟩ = true ∧
       Map.find? s.launches b.lid = some (wLaunch 0 [rawHandle 1 1 7 0 65536])) ∧
    (let s := wLaunches [(0, wLaunch 0 [])]
     Map.find? s.launches 0 = some (wLaunch 0 []) ∧ (wLaunch 0 []).phase = .admitted ∧ s.unfinished 0 (wLaunch 0 []) = false ∧
       (wLaunch 0 []).cmpl % 32 = 0 ∧ s.regs.sageHalted = false ∧ s.recordUp (wLaunch 0 []) = true ∧
       ((s.cleanAll ((s.guests.filter (fun g => g.dirty && g.writers.any (fun p => decide (2 ^ 40 ≤ p.1)))).map Copy.line)).any
         (fun u => u.recordUp (wLaunch 0 []))) = true ∧ (s.cleanAll ((s.guests.filter (fun g => g.dirty && g.writers.any (fun p => decide (2 ^ 40 ≤ p.1)))).map
         Copy.line)).isSome = true) ∧
    (let s := wContest
     s.scheduling = true ∧ ((s.launches.filter (fun q => q.2.waiting)).map (fun q => q.2.prio)).max? = some 3 ∧
       List.find? (fun v => v.1 == 0) (s.victimsOf 3) = some (0, 0) ∧ (∀ w ∈ s.victimsOf 3, 0 ≤ w.2) ∧
       (∀ w ∈ ((s.victimsOf 3).filter (fun w => w.2 == 0)).map Prod.fst, s.exceeds (((s.victimsOf 3).filter (fun w => w.2 == 0)).map Prod.fst) 0 w = true) ∧
       0 ∈ s.coresOf 0) ∧
    (let s := wBlock (.stopping .preempt) 0 false
     ∃ b ∈ s.blocks.map Prod.snd, Map.find? s.blocks 0 = some b ∧ b.st = .stopping .preempt ∧ s.regs.sageHalted = false ∧ s.passParked 0 = s ∧
       s.forked 0 = false ∧ s.reached 0 b = false ∧ s.busy 0 = false ∧ (∀ w ∈ s.cbuf, w.core ≠ b.core) ∧
       (∀ w ∈ s.unjoined, ∀ g ∈ w.obs, g / 32 ≠ 0) ∧ s.atBoundary 0 = true ∧ (s.cleanAll (s.dirtyOf 0 ++ s.seenDirty 0)).isSome = true ∧
       (firstFit (s.ctx 0).imgBase ((s.ctx 0).imgBase + 4096 * (s.ctx 0).imgPg) 16384 (imageLen (wLaunch 0 []).desc) (s.ctx 0).runs).isSome = true) := by
  refine ⟨⟨?_, ?_, ?_, ?_⟩, ⟨?_, ?_, ?_, ⟨[(0, 0)], 0, 824633720832⟩, ?_⟩, ⟨?_, ?_, ?_,
    ⟨⟨0, 0, some ⟨0, codeAddr 3 0, 7, 0, 0⟩, none⟩, ⟨[(0, 0)], 0, 824633720832⟩, ?_⟩, fun core hc => ?_⟩, ?_, ⟨?_, ?_, ?_, ?_⟩, ?_, ?_, ?_, ?_⟩
  case refine_13 =>
    simp only [List.mem_cons, List.not_mem_nil, or_false] at hc
    obtain rfl | rfl := hc
    · exact ⟨⟨0, 0, some ⟨0, codeAddr 3 0, 7, 0, 0⟩, none⟩, ⟨[(0, 0)], 0, 824633720832⟩, by decide +kernel⟩
    · exact ⟨⟨0, 0, some ⟨0, codeAddr 3 0, 7, 0, 0⟩, none⟩, ⟨[(0, 0)], 0, 1065151889408⟩, by decide +kernel⟩
  all_goals decide +kernel

/-! ## Operands -/

theorem witness_OperandCodesRead :
    (0x3F : Code).toNat < 0x40 ∧ (0x40 ≤ (0x40 : Code).toNat ∧ (0x40 : Code).toNat < 0x5D) ∧ (0x40 ≤ (0x5B : Code).toNat ∧ (0x5B : Code).toNat < 0x5C) ∧
    (∀ b, b < 3 → (BitVec.ofNat 7 (0x5D + b)).toNat = 0x5D + b) ∧ (∃ c : Iss, (mch [] [] [0]).issuer? = some c ∧ bitOf c.g.lanes 95 = true) ∧
    ((wenL 0 1 2 0x7F 5).lit = some 5) ∧ ∀ k ∈ [1, 2, 3, 4, 7, 8, 9, 12], (BitVec.ofNat 4 k).toNat = k ∧ 95 < 96 := by
  refine ⟨by decide, by decide, by decide, by decide, issues ?_, rfl, by decide⟩
  decide +kernel

end Sys2Proof.Tests
end

