-- ==== Sys2Proof/Tests/Steps.lean ====
section
/-! SUPPORT. Single steps on small states, their expected results from the spec's worked examples or by hand from its rules. -/

namespace Sys2Proof.Tests

set_option maxRecDepth 100000
set_option Elab.async false

open Sys2Proof.Machine

/-- What a property of the state after one step is, if the step goes on. -/
def stepped {α : Type} (s : State) (f : State → α) : Option α :=
  match step s with | .next t => some (f t) | _ => none

/-- What a property of the issuing group is after one step. -/
def grp {α : Type} (s : State) (f : Group → α) : Option α := (stepped s (fun t => (Map.find? t.groups 0).map f)).join

/-- What a property of the state is after one instruction or event. -/
def ran {α : Type} (i : Instr) (s : State) (f : State → α) : Option α :=
  match exec i s with | .next t => some (f t) | _ => none

/-- The first lanes of a vector register. -/
def lanes (n r : Nat) (g : Group) : List Word := (List.range n).map (g.vGet r)

/-! Scalars -/

/-- `sli s3, -5`. -/
theorem test_sli : grp (mch [] [] [0x1090_FFFB]) (fun g => g.sGet 3) = some 0xFFFF_FFFB := by decide +kernel
/-- `scmp.lt.n32 s2, s4, 96` with s4 = 95 and 0xFFFFFFFF. -/
theorem test_scmp : [95, 0xFFFF_FFFF].map (fun x => grp (mch [(4, x)] [] [0x19B0_A277]) (fun g => g.sGet 2)) = [some 1, some 0] := by decide +kernel
/-- A 64-bit sum carries into the second register (R82). -/
theorem test_sadd_carries : grp (mch [(0, 0xFFFF_FFFF), (2, 1)] [] [0b000100010_10_1000100_1000000_1000010]) (fun g => (g.sGet 4, g.sGet 5)) =
    some (0, 1) := by decide +kernel
/-- R104: division by zero, and −2^31 ÷ −1. -/
theorem test_sdiv : [(5, 0), (0x8000_0000, 0xFFFF_FFFF)].map (fun p => grp (mch [(0, p.1), (1, p.2)] [] [0b000100110_00_1000010_1000000_1000001])
    (fun g => g.sGet 2)) = [some 0xFFFF_FFFF, some 0x8000_0000] := by decide +kernel
/-- R103: a shift takes its count modulo the width. -/
theorem test_ssar : grp (mch [(0, 0x8000_0000), (1, 33)] [] [0b000101110_00_1000010_1000000_1000001]) (fun g => g.sGet 2) =
    some 0xC000_0000 := by decide +kernel

/-! The six-lane block of the lane chapter's worked example -/

/-- The registers of the example, and its group's lanes: 0 to 5, with helpers 6 and 7. -/
def sixLanes (units : List Word) : State :=
  let s := mch [] [(2, 99), (3, 99)] units
  s.modGroup 0 (fun g =>
    { (g.vPut 1 (fun L => some ([5, 3, 0, 7, 2, 9, 4, 4].getD L 0))) with
      lanes := 0xFF, helpers := 0xC0, k := [(1, 0xFB)],
      table := [(0, .frag (newFrag 3 8 0 0xFF none 0))] })

/-- Step 1: `lscan.add.i32 v2, v1 [k1]`; lane 8 keeps 99. -/
theorem test_six_scan : grp (sixLanes [0xFF91_8000, 0xA700_80E0]) (lanes 9 2) = some [5, 8, 99, 15, 17, 26, 26, 26, 99] := by decide +kernel
/-- Step 2: `lred.max.i32 v3, v1 [k1 zero]`. -/
theorem test_six_reduce : grp (sixLanes [0xFF91_8200, 0b101000111_00_0000011_0000001_1100000]) (lanes 9 3) =
    some [9, 9, 0, 9, 9, 9, 9, 9, 99] := by decide +kernel
/-- Step 3: `lrot.i32 v4, v1, 3`. -/
theorem test_six_rotate : grp (sixLanes [0b101000011_00_0000100_0000001_1111111, 3]) (lanes 8 4) = some [7, 2, 9, 4, 4, 0, 0, 0] := by decide +kernel
/-- Step 4: `kpop s5, k1`. -/
theorem test_six_kpop : grp (sixLanes [0b010001000_00_1000101_0000001_1100000]) (fun g => g.sGet 5) = some 5 := by decide +kernel

/-! Vectors, masks and floating point -/

/-- `vadd.i32 v5, v4, 1000` wraps. -/
theorem test_vadd_wraps : grp (mch [] [(4, 0xFFFF_FFFF)] [0x3081_427F, 1000]) (fun g => g.vGet 5 95) = some 999 := by decide +kernel
/-- `vmad.i32 v6, v1, v2, v3 [sat]` of 2^16 × 2^16 + 0 clamps (R99). -/
theorem test_vmad_saturates : grp (mch [] [(1, 65536), (2, 65536)] [0xFF80_0C80, 0x3301_8082]) (fun g => g.vGet 6 0) =
    some 0x7FFF_FFFF := by decide +kernel
/-- R105: VADDC adds the low words and a carry in, as a pair. -/
theorem test_vaddc : grp (mch [] [(4, 0xFFFF_FFFF), (6, 1)] [0b001100010_01_0000010_0000100_0000110]) (fun g => (g.vGet 2 7, g.vGet 3 7)) =
    some (0, 1) := by decide +kernel
/-- R106: a packed comparison is true when both elements satisfy it. -/
theorem test_vcmp_packed : grp (mch [] [(2, 0x0001_0001), (3, 0x0002_0000)] [0b001110110_11_0000011_0000010_0000011]) (fun g => g.kGet 3) =
    some 0 := by decide +kernel
/-- A mask operation writes the fragment's lanes only. -/
theorem test_knot_owned : grp (sixLanes [0b010000110_00_0000010_0000001_1100000]) (fun g => g.kGet 2) = some 0x04 := by decide +kernel
/-- `fmul.f32 v3, v2, 0.5 [absa rz]` of −3. -/
theorem test_fmul : grp (mch [] [(2, 0xC040_0000)] [0xFF83_8010, 0x7100_C16C]) (fun g => g.vGet 3 0) = some 0x3FC0_0000 := by decide +kernel
/-- 1 ÷ 0 is +∞ and raises DZ (R127). -/
theorem test_fdiv_by_zero : grp (mch [] [(1, 0x3F80_0000)] [0b011110001_00_0000000_0000001_0000010]) (fun g => (g.vGet 0 95, g.fl.dz, g.fl.nv)) =
    some (0x7F80_0000, BitVec.allOnes 96, 0) := by decide +kernel
/-- −2.75 to E5M2, rounded to even: −3 with NX (the format chapter's worked encodings). -/
theorem test_e5m2_ties_even : (fmtE5.round 0 false 0 (opCvt (fmt32.unpack 0xC030_0000)).1 = (0xC2, excNX)) ∧
    fmtE4.round 0 false 0 (opCvt (fmt32.unpack 0xC030_0000)).1 = (0xC3, 0) := by decide +kernel
/-- 1 + 2^−9 to BF16 under rs with the two draws of the example. -/
theorem test_rounding_stochastic : [0x3A2C_0000, 0x9000_0000].map (fun u => fmtB16.round 5 false u (opCvt (fmt32.unpack 0x3F80_4000)).1) =
    [(0x3F81, excNX), (0x3F80, excNX)] := by decide +kernel
/-- `nxdec.f32 v9, v6, v7` of the example: −11. -/
theorem test_nxdec : grp (mch [] [(6, 0x0000_3281), (7, 0x005B_8001)] [0x8002_4307]) (fun g => (g.vGet 9 0, g.fl.nx)) =
    some (0xC130_0000, 0) := by decide +kernel
/-- `nxenc.f32 v10, v5` of the example. -/
theorem test_nxenc : grp ((mch [] [] [0x7F82_82E0]).modGroup 0 (fun g =>
      g.vPut 5 (fun L => some ([0x3F40_0000, 0xC130_0000, 0x4000_0000, 0x4046_6666].getD L 0)))) (fun g =>
      (g.vGet 10 0, g.vGet 10 7, g.vGet 10 8, g.vGet 11 31, g.fl.nx &&& 0xFFFF_FFFF)) =
    some (0x3281, 0x3281, 0, 0x5B80, 9) := by decide +kernel

/-! Memory -/

/-- A store enters the store queue, and no byte of memory changes yet (R195). -/
theorem test_stv_enters : stepped (mch [(0, 256)] [(3, 0xAABBCCDD)] [0b101110001_00_0000011_1000000_0000001])
    (fun t => (t.sq.map (fun w => w.bytes.length), t.spad.read 256)) = some ([4], 0) := by decide +kernel
/-- RISE-C of a scratchpad write performs it. -/
theorem test_rise_scratchpad : ran (.riseC 1) { mch [] [] [0] with sq := [wByte .spad 0 .rc] } (fun t => (t.spad.read 127, t.sq.length)) =
    some (0xAB, 0) := by decide +kernel
/-- A line that tile 1 homes: pages of 4 KiB go to the tiles in turn (R28, R29). -/
def farLine : Nat := 0x201000
/-- A write of tile 0 to it becomes a dirty guest there, and WRITEBACK brings it home (R194, R195). -/
theorem test_write_goes_home :
    (let s := { mch [] [] [0] with clv := [wByte .glob farLine .rc] }
     ran (.riseT 1) s (fun t => (t.homeByte ⟨.glob, farLine + 127⟩, t.ownerByte (farLine + 127), t.guests.length)) = some (0, 0xAB, 1) ∧
     (ran (.riseT 1) s (fun t => ran (.writeback 0 farLine) t (fun u => u.homeByte ⟨.glob, farLine + 127⟩))).join = some 0xAB) := by
  decide +kernel
/-- A load's byte reaches its register when it is performed. -/
theorem test_read_performs : ran (.read 1) { mch [] [] [0] with iq := [wEv .spad (.load 0 [(5, .vec 3 7 2)] none)], spad := [(5, 0x77)] }
    (fun t => ((Map.find? t.groups 0).map (fun g => g.vGet 3 7), t.iq.length)) = some (some 0x0077_0000, 0) := by decide +kernel
/-- An atomic add returns the old value (R185). -/
theorem test_atomic_add : ran (.atomic 1) { mch [] [] [0] with iq := [wEv .spad (.atom 8 ⟨.add, 1, 4, 5, 0, .sca 2 0⟩)], spad := [(8, 7)] }
    (fun t => (t.spad.read 8, (Map.find? t.groups 0).map (fun g => g.sGet 2))) = some (12, some 7) := by decide +kernel
/-- An access outside its handle ends the block with cause BOUNDS (R170). -/
theorem test_bounds : stepped (mch [(0, 4093)] [] [0b101110000_00_0000011_1000000_0000001]) (fun t => (Map.find? t.blocks 0).map (fun b => (b.st, b.cause))) =
    some (some (.ending, 19)) := by decide +kernel
/-- STCQ of the worked example: four words in ascending lane order at the counter, displacement 64. -/
theorem test_stcq : grp ((mch [(4, 0), (5, 64)] [] [0xFF91_8000, 0xC891_0104]).modGroup 0 (fun g => { g with k := [(1, 0b1011010)] }))
      (fun g => g.perf.length) ≠ none ∧
    stepped ((mch [(4, 0), (5, 64)] [(2, 0x11)] [0xFF91_8000, 0xC891_0104]).modGroup 0 (fun g => { g with k := [(1, 0b1011010)] }))
      (fun t => t.iq.map (fun e => match e.kind with | .stcq a q => (a, q.cnt, q.disp, q.data.map Prod.fst) | _ => (0, 0, 0, []))) =
    some [(0x200000, 4, 64, [1, 3, 4, 6])] := by decide +kernel

/-! Copies and barriers -/

/-- CPY with an immediate length forks one thread in the open set. -/
theorem test_cpy_forks : stepped (mch [] [] [0xD000_427F, 0x40]) (fun t => (t.engines.map (fun p => (p.2.n, p.2.dst)), (Map.find? t.groups 0).map
    (fun g => g.openSet.length))) = some ([(64, .pt .spad 0)], some 1) := by decide +kernel
/-- CBAT closes the open set under number 1. -/
theorem test_cbat : grp (mch [] [] [0b110100011_00_1000010_1100000_1100000]) (fun g => (g.sGet 2, g.lastb, g.batches.map Prod.fst)) =
    some (1, 1, [1]) := by decide +kernel
/-- The last arrival turns the phase (R228). -/
theorem test_barrier_turns : (Bar.update ⟨false, 1, 3, 0⟩ 1 0 = ⟨true, 3, 3, 0⟩) ∧ Bar.update ⟨false, 1, 3, 16⟩ 1 0 = ⟨false, 0, 3, 16⟩ := by
  decide +kernel
/-- All lanes of a block of one group arrive at barrier 2, and its phase completes (R234). -/
theorem test_bsync : stepped (mch [] [] [0b110101011_00_1100000_1110001_1100000]) (fun t => (Map.find? t.blocks 0).map (fun b => Map.get 0 b.bars 2)) =
    some (some 1) := by decide +kernel

/-! Tiles -/

/-- MWR and MRD keep a word: v3 lane 95 is word 95 of the FP32 view (R154). -/
theorem test_mwr : grp (mch [] [(3, 0x1234)] [0b111000110_00_0000010_0000011_1100000]) (fun g => (g.tileWord 2 95, g.tileWord 2 96)) =
    some (0x1234, 0) := by decide +kernel
/-- `mzero m2`. -/
theorem test_mzero : grp ((mch [] [] [0xE000_B060]).modGroup 0 (fun g => { g with tiles := [(2, [7, 7])] })) (fun g => g.tileWord 2 1) = some 0 := by
  decide +kernel

/-! Control and traps -/

/-- EXIT of the last lanes ends the block. -/
theorem test_exit : stepped (mch [] [] [0x0398_3060]) (fun t => (Map.find? t.blocks 0).map (fun b => (b.st, b.cause))) = some (some (.ending, 0)) := by
  decide +kernel
/-- A taken `jmp` enters the block at its target (R88, R261). -/
theorem test_jmp : stepped { wCode false 0 [] [] 0x0218_307F with
      tspad := Mem.writeAll (wCode false 0 [] [] 0x0218_307F).tspad (bytesFrom 12 (unitBytes 18)) } (fun t => (t.fragAt ⟨0, 0⟩).map (fun f => (f.pc, f.blk))) =
    some (some (88, 80)) := by decide +kernel
/-- `brv` splits: the entry becomes the fusion record, and the two ways follow (R259). -/
theorem test_brv : (ran (.brv (wen 0 0 18 1)) (wSplit 1 0) (fun t => ((t.fragAt ⟨0, 1⟩).map (fun f => (f.act, f.pc)), (t.fragAt ⟨0, 2⟩).map (fun f => f.pc)))) =
    some (some (1, 88), some 12) := by decide +kernel
/-- `trap 5` without a handler ends the block with cause 6 and detail 5. -/
theorem test_trap : stepped (mch [] [] [0xF998_0005]) (fun t => (Map.find? t.blocks 0).map (fun b => (b.st, b.cause, b.detail))) =
    some (some (.ending, 6, 5)) := by decide +kernel
/-- With a handler it enters it, and the trap registers hold the trap (R370). -/
theorem test_trap_handler : ran (.trap (wen 0 0x60 0 5)) (wCode true 0 [] [] 0) (fun t => ((t.fragAt ⟨0, 0⟩).map (fun f => (f.st, f.pc)),
    (Map.find? t.groups 0).map (fun g => (g.trap.cause, g.trap.detail, g.trap.pc)))) = some (some (.handler, 88), some (6, 5, 8)) := by decide +kernel
/-- A reserved opcode raises cause 1, reason 4 (R91, R94). -/
theorem test_illegal : stepped (mch [] [] [0x0780_0000]) (fun t => (Map.find? t.blocks 0).map (fun b => (b.cause, b.detail))) = some (some (1, 4)) := by
  decide +kernel
/-- `rdsr s4, CAP.PROFILE` on tile 3 and tile 7 (0x32 and 0x75, the scope chapter). -/
theorem test_rdsr_profile : [288, 672].map (fun core => grp ((mch [] [] [0xF811_0000]).modBlock 0 (fun b => { b with core := core })) (fun g => g.sGet 4)) =
    [some 0x32, some 0x75] := by decide +kernel
/-- CAP.CORE of core 437 is 0x561B5. -/
theorem test_rdsr_core : grp ((mch [] [] [0xF811_0001]).modBlock 0 (fun b => { b with core := 437 })) (fun g => g.sGet 4) = some 0x561B5 := by
  decide +kernel

/-! Pools, fork and events -/

/-- FORK writes 0 and pushes nothing when 256 children wait (R298). -/
theorem test_fork_full : [255, 256].map (fun n => ran (.fork (wen 0 0x42 0x48 0x60)) (wForks [(8, 0x03000000)] n) (fun t =>
    ((Map.find? t.groups 0).map (fun g => g.sGet 2), (t.core 0).deque.length))) = [some (some 1, 256), some (some 0, 256)] := by decide +kernel
/-- A take that the shard serves writes key and payload (R320). -/
theorem test_pltake : ran (.pltake (wen 0 4 2 6)) (wPools wPool 1) (fun t => (Map.find? t.groups 0).map (fun g => (g.vGet 4 0, g.vGet 5 0))) =
    some (some (5, 6)) := by decide +kernel
/-- A column at the throttle threshold is throttled and starts its dwell (R291). -/
theorem test_column : ran (.columnTempChange 5 (10 * State.reset.regs.tthrot)) State.reset (fun t => ((t.column 5).throttled, (t.column 5).dwell)) =
    some (true, true) := by decide +kernel
/-- The end of a scrub leaves the module unowned with zero bytes. -/
theorem test_scrub : ran .scrubDone { State.reset with mem := [(5, 9)] } (fun t => (t.regs.own, t.mem.read 5)) = some (.unowned, 0) := by decide +kernel
/-- An odd-sized register write reaches nothing (R351). -/
theorem test_register_write_size : ran (.registerWrite 0x1030 3 2000) State.reset (fun t => t.regs.rho == State.reset.regs.rho) = some true := by
  decide +kernel
/-- A doorbell past the ring sets CODE 2 (R353). -/
theorem test_doorbell : ran (.wqDoorbell 3 3) (wQueue 0) (fun t => ((t.queue 3).errCode, (t.queue 3).tail)) = some (2, 1) := by decide +kernel
/-- A MARK writes the clock and its tag (R356). -/
theorem test_mark : ran (.mark 3) (wQueue wPktMark) (fun t => (t.mem.read 0x10008, t.mem.read 0x1000C)) = some (7, 1) := by decide +kernel

/-- Whether a group has started: every tile word zero, no count, and its one fragment, of all its lanes, past the header at an entry. -/
def wEntered (gid : Nat) (entry : Word) (t : State) : Bool :=
  match t.issOf gid 0, Map.find? t.groups gid with
  | some c, some g => wHeader (t.header c (codeHnd entry) (codeOff entry) true) && decide (g.lanes &&& ~~~g.helpers ≠ 0) &&
      (match g.entry 0 with
      | .frag f => f.act == g.lanes && f.fe.isNone && f.st == .ready && f.hnd == codeHnd entry && f.pc == codeOff entry + 8
      | _ => false) && [1, 15].all (fun n => g.entry n == .free) && (List.range 8).all (fun m => g.tileWord m 255 == 0) && g.lastb == 0
  | _, _ => false

/-- A placed block and a stolen child start at their entries (R242, R299). -/
theorem test_block_starts : ran (.blockPlace 0) (wLaunches [(0, wFresh)]) (wEntered (32 * (wLaunches [(0, wFresh)]).nextId) wFresh.desc.entry) = some true ∧
    ran (.dequeSteal 1) wDeque (wEntered (32 * wDeque.nextId) (codeAddr 3 0)) = some true := by decide +kernel
/-- HOST-W takes WRITEBACK of a dirty guest, then writes at home (R208). -/
theorem test_host_write : ran (.hostW 0x200005 [1]) { mch [] [] [0] with guests := [wGuest true, { wGuest false with line := 0 }] } (fun t =>
    (t.guests.any (fun g => g.dirty && g.line == 0x200000), t.mem.read 0x200005)) = some (false, 1) := by decide +kernel
/-- An invalidation waits for an access that a dropped entry translated (R339). -/
theorem test_invalidation_waits :
    (let s := { State.reset with regs := { State.reset.regs with invStat := 1, invRanges := [(0x200000, 4096)], invSeq := 5 }, sq := [wByte .glob 0x200000 .rc] }
     s.pendingIn s.regs.invRanges s.regs.invSeq = true ∧ ran .xlInvDone s (fun t => t.regs.invStat) = some 1) := by decide +kernel
/-- An L1 copy is dropped at a 64th place of the issue order (R206). -/
theorem test_copies_drop : stepped { State.reset with seq := 63, l1 := [wGuest false, { wGuest false with line := 0 }] } (fun t => t.l1.map Copy.line) =
    some [0x200000] := by decide +kernel

end Sys2Proof.Tests
end

/-! SUPPORT. Tables written twice, lane masks and lists of lanes. -/

namespace Sys2Proof

variable {α β : Type}

@[simp] theorem Map.put_put_self (m : Map α) (k : Nat) (x y : α) :
    Map.put (Map.put m k x) k y = Map.put m k y := by
  induction m with
  | nil => simp [Map.put]
  | cons p m ih =>
    simp only [Map.put]
    split
    · simp [Map.put]
    · next hlt =>
      split
      · simp [Map.put]
      · next hne => simp [Map.put, hlt, hne, ih]

/-- Writes at two keys can change places. -/
theorem Map.put_comm (m : Map α) {j k : Nat} (h : j ≠ k) (x y : α) :
    Map.put (Map.put m j x) k y = Map.put (Map.put m k y) j x := by
  induction m with
  | nil => simp only [Map.put]; grind
  | cons p m ih => simp only [Map.put]; grind [Map.put]

/-- A change of every value goes past a write. -/
theorem Map.map_put (f : α → β) (m : Map α) (k : Nat) (x : α) :
    (Map.put m k x).map (fun p => (p.1, f p.2)) = Map.put (m.map (fun p => (p.1, f p.2))) k (f x) := by
  induction m with
  | nil => rfl
  | cons p m ih =>
    simp only [Map.put, List.map_cons]
    split
    · rfl
    · split
      · rfl
      · simp [ih]

/-- The bits gathered from a list of lanes. -/
theorem getLsbD_foldl_lanes (f : Nat → Bool) (L : Nat) (hL : L < 96) (ls : List Nat) (m : Mask) :
    bitOf (ls.foldl (fun m L => if f L then m ||| (1#96 <<< L) else m) m) L = (bitOf m L || (decide (L ∈ ls) && f L)) := by
  induction ls generalizing m with
  | nil => simp
  | cons j ls ih =>
    rw [List.foldl_cons, ih]
    by_cases e : L = j
    · subst e; cases h : f L <;> simp [hL]
    · have : bitOf (1#96 <<< j) L = false := by
        simp [hL]; omega
      cases h : f j <;> simp [e, this]

@[simp] theorem bitOf_maskOf (f : Nat → Bool) {L : Nat} (hL : L < 96) : bitOf (maskOf f) L = f L := by
  simp only [maskOf, getLsbD_foldl_lanes f L hL]; simp [hL]

/-- Masks that agree in each of the 96 lanes are equal. -/
theorem Mask.ext {m n : Mask} (h : ∀ L, L < 96 → bitOf m L = bitOf n L) : m = n := BitVec.eq_of_getLsbD_eq h

theorem maskOf_bitOf (m : Mask) : maskOf (fun L => bitOf m L) = m := Mask.ext (fun _ h => bitOf_maskOf _ h)

/-- The lanes of a mask that a test picks, whatever the test says of lanes beyond the group. -/
theorem bitOf_maskOf_and (m : Mask) (f : Nat → Bool) (L : Nat) :
    bitOf (maskOf (fun L => bitOf m L && f L)) L = (bitOf m L && f L) := by
  by_cases hL : L < 96
  · exact bitOf_maskOf _ hL
  · have beyond : ∀ k : Mask, bitOf k L = false := fun k => BitVec.getLsbD_of_ge k L (Nat.not_lt.mp hL)
    rw [beyond, beyond, Bool.false_and]

theorem bitOf_and (m k : Mask) (L : Nat) : bitOf (m &&& k) L = (bitOf m L && bitOf k L) := BitVec.getLsbD_and

theorem bitOf_or (m k : Mask) (L : Nat) : bitOf (m ||| k) L = (bitOf m L || bitOf k L) := BitVec.getLsbD_or

theorem bitOf_not (m : Mask) {L : Nat} (hL : L < 96) : bitOf (~~~m) L = !bitOf m L := by
  rw [bitOf, BitVec.getLsbD_not, decide_eq_true hL, Bool.true_and]

theorem Mask.and_maskOf_and (m : Mask) (f : Nat → Bool) :
    m &&& maskOf (fun L => bitOf m L && f L) = maskOf (fun L => bitOf m L && f L) :=
  Mask.ext (fun L _ => by rw [bitOf_and, bitOf_maskOf_and, ← Bool.and_assoc, Bool.and_self])

/-- Without the lanes that a part leaves out, the part remains. -/
theorem Mask.and_not_and_not {m k : Mask} (h : m &&& k = k) : m &&& ~~~(m &&& ~~~k) = k := by
  rw [BitVec.not_and, BitVec.not_not, BitVec.and_or_distrib_left, BitVec.and_not_self, h]
  exact BitVec.zero_or

@[simp] theorem mem_lanesOf {m : Mask} {L : Nat} (hL : L < 96) : L ∈ lanesOf m ↔ bitOf m L = true := by
  simp [lanesOf, hL]

/-- Reading a table that holds `f L` for each lane L of a list. -/
theorem Map.find?_lanes (f : Nat → α) (ls : List Nat) (L : Nat) :
    Map.find? (ls.map (fun L => (L, f L))) L = if L ∈ ls then some (f L) else none := by
  induction ls with
  | nil => rfl
  | cons j ls ih =>
    rw [List.map_cons, Map.find?_cons, ih]
    by_cases e : L = j <;> simp [e]

end Sys2Proof

/-! SUPPORT. Reading code depends on no group: a write to a group leaves every unit and header where it was. -/

namespace Sys2Proof.Machine

section
variable (s : State) (gid : Nat) (g : Group)

@[simp] theorem State.setGroup_aliasOf (pa : Nat) : (s.setGroup gid g).aliasOf pa = s.aliasOf pa := rfl
@[simp] theorem State.setGroup_dirty? (line : Nat) : (s.setGroup gid g).dirty? line = s.dirty? line := rfl
@[simp] theorem State.setGroup_populated (pa n : Nat) : (s.setGroup gid g).populated pa n = s.populated pa n := rfl
@[simp] theorem State.setGroup_ctx (n : Nat) : (s.setGroup gid g).ctx n = s.ctx n := rfl
@[simp] theorem State.setGroup_icLine (core : Nat) (l : Loc) : (s.setGroup gid g).icLine core l = s.icLine core l := rfl
@[simp] theorem State.setGroup_slotBlock (c : Iss) (slot : Nat) : (s.setGroup gid g).slotBlock c slot = s.slotBlock c slot := rfl
@[simp] theorem State.setGroup_homeByte (l : Loc) : (s.setGroup gid g).homeByte l = s.homeByte l := rfl

@[simp] theorem State.setGroup_homeRead (n : Nat) : (s.setGroup gid g).homeRead n = s.homeRead n := by
  induction n with
  | zero => rfl
  | succ n ih => funext pa; simp only [State.homeRead, ih, State.setGroup_aliasOf, State.setGroup_mem]

@[simp] theorem State.setGroup_ownerByte (pa : Nat) : (s.setGroup gid g).ownerByte pa = s.ownerByte pa := by
  simp only [State.ownerByte, State.setGroup_homeRead, State.setGroup_aliasOf, State.setGroup_dirty?, State.setGroup_mem]

@[simp] theorem State.setGroup_devByte (l : Loc) : (s.setGroup gid g).devByte l = s.devByte l := by
  simp only [State.devByte, State.readHome, State.setGroup_ownerByte, State.setGroup_homeRead, State.setGroup_homeByte]

@[simp] theorem State.setGroup_poisoned (l : Loc) : (s.setGroup gid g).poisoned l = s.poisoned l := by
  simp only [State.poisoned, State.isPoison, State.setGroup_homeRead, State.setGroup_aliasOf, State.setGroup_poison]

@[simp] theorem State.setGroup_ownerNum (pa n : Nat) : (s.setGroup gid g).ownerNum pa n = s.ownerNum pa n := by
  simp only [State.ownerNum, State.setGroup_ownerByte]

/-- The walk's own recursion sees the state through these two functions only; Lean gives `walkFrom` no equation to unfold it by, so the
functional that it recurses on is rewritten. -/
@[simp] theorem State.setGroup_walkFrom (va level table : Nat) :
    walkFrom (s.setGroup gid g) va level table = walkFrom s va level table := by
  have functional : walkFrom._f (s.setGroup gid g) va = walkFrom._f s va := by
    delta walkFrom._f
    simp only [State.setGroup_ownerNum, State.setGroup_populated]
    rfl
  delta walkFrom
  rw [functional]

@[simp] theorem State.setGroup_lookup (k : Walker) (va : Nat) : (s.setGroup gid g).lookup k va = s.lookup k va := by
  simp only [State.lookup, State.walk, State.setGroup_walkFrom, State.setGroup_ctx, State.setGroup_tlb1, State.setGroup_tlb2]

@[simp] theorem State.setGroup_place (c : Iss) (h : Hnd) (lane : Option Nat) (off : Nat) (acc : Acc) :
    (s.setGroup gid g).place c h lane off acc = s.place c h lane off acc := by
  simp only [State.place, State.setGroup_lookup, State.setGroup_ctx, State.setGroup_slotBlock]

@[simp] theorem State.setGroup_unitAt (c : Iss) (hnd : Nat) (off : Int) :
    (s.setGroup gid g).unitAt c hnd off = s.unitAt c hnd off := by
  simp only [State.unitAt, State.codeByte, State.setGroup_place, State.setGroup_poisoned, State.setGroup_icLine,
    State.setGroup_devByte]

@[simp] theorem State.setGroup_blockEnd (c : Iss) (f : Frag) : (s.setGroup gid g).blockEnd c f = s.blockEnd c f := by
  simp only [State.blockEnd, State.setGroup_unitAt]

end

end Sys2Proof.Machine

/-! SUPPORT. The end of an instruction that writes the group's data or its activity mask, as `State.leaves` says it (R245, R249). -/

namespace Sys2Proof.Machine

/-! The issuing fragment -/

/-- The fragment that issues stands at its entry of its group's table. -/
theorem State.issuer?_entry {s : State} {c : Iss} (h : s.issuer? = some c) :
    c.bid = c.cur.gid / 32 ∧ c.g.entry c.cur.ent = .frag c.f := by
  unfold State.issuer? at h
  split at h
  · cases h
  · split at h
    · next f hf =>
      split at h
      · cases h
      · split at h
        · cases h
        · cases h; exact ⟨rfl, by simp [Group.entry, Map.get, hf]⟩
    · cases h

/-! Groups and entries that are written twice -/

@[simp] theorem State.setGroup_setGroup (s : State) (gid : Nat) (g h : Group) : (s.setGroup gid g).setGroup gid h = s.setGroup gid h := by
  simp [State.setGroup]

@[simp] theorem State.find?_setGroup (s : State) (gid : Nat) (g : Group) : Map.find? (s.setGroup gid g).groups gid = some g := by
  simp

@[simp] theorem Group.setEntry_setEntry (g : Group) (e : Nat) (x y : Entry) : (g.setEntry e x).setEntry e y = g.setEntry e y := by
  simp [Group.setEntry]

theorem Group.setEntry_comm (g : Group) {d e : Nat} (h : d ≠ e) (x y : Entry) :
    (g.setEntry d x).setEntry e y = (g.setEntry e y).setEntry d x := by
  simp [Group.setEntry, Map.put_comm _ h]

@[simp] theorem Group.entry_setEntry_self (g : Group) (e : Nat) (x : Entry) : (g.setEntry e x).entry e = x := by
  simp [Group.entry]

theorem Group.entry_setEntry_ne (g : Group) {d e : Nat} (x : Entry) (h : d ≠ e) : (g.setEntry e x).entry d = g.entry d :=
  Map.get_put_ne _ _ _ h

theorem Group.entry_congr {g h : Group} (e : g.table = h.table) (n : Nat) : g.entry n = h.entry n := by
  simp [Group.entry, e]

@[simp] theorem Group.topDefer_setEntry (g : Group) (d e : Nat) (x : Entry) : (g.setEntry e x).topDefer d = g.topDefer d := rfl

theorem State.modFrag_setGroup {s : State} {cur : Cursor} {g : Group} {f : Frag} (h : g.entry cur.ent = .frag f) (F : Frag → Frag) :
    (s.setGroup cur.gid g).modFrag cur F = s.setGroup cur.gid (g.setEntry cur.ent (.frag (F f))) := by
  simp only [State.modFrag, State.modGroup, State.find?_setGroup, Group.modFrag, h, State.setGroup_setGroup]

theorem State.fragAt_setGroup {s : State} {cur : Cursor} {g : Group} {f : Frag} (h : g.entry cur.ent = .frag f) :
    (s.setGroup cur.gid g).fragAt cur = some f := by
  have found : Map.find? g.table cur.ent = some (.frag f) := by
    cases e : Map.find? g.table cur.ent <;> simp_all [Group.entry, Map.get]
  simp only [State.fragAt, State.find?_setGroup, found]

/-! Moving on within a block -/

/-- Between two units of a block, or two words of a list, a fragment past its instruction is one that has gone onward. -/
theorem Frag.past_eq_onward {f : Frag} {units : Nat} (h : f.latch = [] ∨ f.latchAt + 1 < f.latch.length) :
    f.past units = f.onward units := by
  by_cases e : f.latch = []
  · simp [Frag.past, Frag.onward, e]
  · have inside := h.resolve_left e
    simp [Frag.past, Frag.onward, e, inside]

/-- A fragment that stands before its block's end falls into no other block (R88). -/
theorem State.fallThrough_eq_self {t : State} {c : Iss} (h : ∀ f, t.fragAt c.cur = some f → ∀ n, t.blockEnd c f = some n → f.pc < n) :
    t.fallThrough c = t := by
  unfold State.fallThrough
  split
  · rfl
  · next f hf =>
    split
    · next n hn => rw [if_neg (Nat.not_le.mpr (h f hf n hn))]
    · rfl

/-- With its group written, whatever lanes it keeps, a fragment gone onward within its block stays there. -/
theorem State.fallThrough_setGroup {s : State} {c : Iss} {units : Nat} {g : Group} {m : Mask} (stays : s.staysIn c units)
    (h : g.entry c.cur.ent = .frag { c.f.onward units with act := m }) :
    (s.setGroup c.cur.gid g).fallThrough c = s.setGroup c.cur.gid g := by
  refine State.fallThrough_eq_self (fun f hf n hn => ?_)
  rw [State.fragAt_setGroup h, Option.some.injEq] at hf
  subst hf
  rw [State.setGroup_blockEnd] at hn
  exact stays.2 n hn

/-- A block's end takes its fragments out of the table, or finds the block over and changes nothing (R251). -/
theorem State.endBlock_cases (t : State) (bid cause detail : Nat) :
    t.endBlock bid cause detail = t ∨ ∀ cur : Cursor, cur.gid / 32 = bid → (t.endBlock bid cause detail).fragAt cur = none := by
  unfold State.endBlock
  split
  · exact .inl rfl
  · split
    · exact .inl rfl
    · refine .inr (fun cur hcur => ?_)
      have table_nil : ∀ gs : Map Group, ∀ g, Map.find? (gs.map (fun (p : Nat × Group) =>
          if p.1 / 32 = bid then (p.1, { p.2 with table := [], defer := [] }) else p)) cur.gid = some g → g.table = [] := by
        intro gs
        induction gs with
        | nil => intro g hg; cases hg
        | cons p gs ih =>
          intro g hg
          obtain ⟨k, x⟩ := p
          rw [List.map_cons] at hg
          by_cases e : cur.gid = k
          · subst e
            simp only [hcur, if_true, Map.find?_cons] at hg
            cases hg; rfl
          · refine ih g ?_
            dsimp only at hg
            split at hg <;> simpa [Map.find?_cons, e] using hg
      dsimp only [State.fragAt]
      split
      · next g hg => rw [table_nil _ g hg]; rfl
      · rfl

/-- After lanes have left, a fragment that goes onward within its block stays there, unless its block has ended (R88, R251). -/
theorem State.fallThrough_checkExit {s : State} {c : Iss} {units : Nat} {g : Group} {m : Mask} (hbid : c.bid = c.cur.gid / 32)
    (stays : s.staysIn c units) (h : g.entry c.cur.ent = .frag { c.f.onward units with act := m }) :
    ((s.setGroup c.cur.gid g).checkExit c.bid).fallThrough c = (s.setGroup c.cur.gid g).checkExit c.bid := by
  unfold State.checkExit
  split
  · obtain same | gone := (s.setGroup c.cur.gid g).endBlock_cases c.bid 0 0
    · rw [same]; exact State.fallThrough_setGroup stays h
    · refine State.fallThrough_eq_self (fun f hf => ?_)
      rw [gone c.cur hbid.symm] at hf; cases hf
  · exact State.fallThrough_setGroup stays h

/-! Lanes that leave (R245, R249) -/

/-- An entry when lanes leave the group: they are no longer expected at a fusion record (R250). -/
def Entry.gone (m : Mask) : Entry → Entry
  | .fusion r => .fusion { r with exp := r.exp &&& ~~~m }
  | x => x

theorem Group.gone_table (g : Group) (m : Mask) : (g.gone m).table = g.table.map (fun p => (p.1, p.2.gone m)) :=
  List.map_congr_left (fun p _ => by obtain ⟨k, x⟩ := p; cases x <;> rfl)

theorem Group.gone_setEntry (g : Group) (e : Nat) (x : Entry) (m : Mask) : (g.setEntry e x).gone m = (g.gone m).setEntry e (x.gone m) := by
  have tables : ((g.setEntry e x).gone m).table = ((g.gone m).setEntry e (x.gone m)).table := by
    rw [Group.gone_table, Group.setEntry_table, Map.map_put, Group.setEntry_table, Group.gone_table]
  exact congrArg (fun t => { g with table := t }) tables

theorem Group.entry_gone_frag {g : Group} {e : Nat} {f : Frag} (h : g.entry e = .frag f) (m : Mask) : (g.gone m).entry e = .frag f := by
  simp only [Group.entry, Map.get, Group.gone_table] at h ⊢
  rw [Map.find?_map g.table (fun _ x => x.gone m)]
  cases e : Map.find? g.table _ <;> simp_all [Entry.gone]

/-- Lanes that leave a fragment leave it where it stands. -/
theorem Group.entry_without {g : Group} {ent : Nat} {f : Frag} (h : g.entry ent = .frag f) (fe : Option Nat) (m : Mask) (now : Nat) :
    (g.without ent fe m now).entry ent = .frag f := by
  unfold Group.without
  split
  · exact h
  · exact Group.entry_gone_frag h m
  · next r _ =>
    split
    · next x hx =>
      have ne : ent ≠ r := by rintro rfl; rw [h] at hx; cases hx
      rw [Group.entry_setEntry_ne _ _ ne, h]
    · exact h

/-- The moves of a group are over when no list is left and no fusion record is complete (R252). -/
theorem Group.moves_nil (look : Nat → Nat → Bool → Found) (now n : Nat) {g : Group} (bad : List BadEntry) (h : g.covered = none) :
    g.moves look now (n + 1) [] bad = (g, bad) := by
  simp only [Group.moves, h]

/-- Lanes arrive, and others stay in the fragment (R249). -/
theorem Group.moves_arrive_some (look : Nat → Nat → Bool → Found) (now n : Nat) {g : Group} {ent : Nat} {f : Frag} {m : Mask}
    (ms : List Move) (bad : List BadEntry) (h : g.entry ent = .frag f) (left : f.act &&& ~~~m ≠ 0) :
    g.moves look now (n + 1) (.arrive ent m :: ms) bad =
      ((g.setEntry ent (.frag { f with act := f.act &&& ~~~m })).without ent f.fe (m &&& f.act) now).moves look now n ms bad := by
  simp only [Group.moves, h, Group.without, Group.topDefer_setEntry]
  cases g.topDefer ent with
  | some d => simp only [ne_eq, left, not_false_eq_true, if_true]
  | none =>
    cases f.fe with
    | none => simp only [left, if_false]
    | some r => exact if_neg left

/-- Freeing an entry that held a fragment, before or after lanes left the group. -/
theorem Group.setEntry_free_gone (g : Group) (ent now : Nat) (f : Frag) (m : Mask) :
    ({ (g.setEntry ent (.frag f)).gone m with exitAt := now } : Group).setEntry ent .free =
      { (g.setEntry ent .free).gone m with exitAt := now } := by
  rw [Group.gone_setEntry, Group.gone_setEntry]
  exact congrArg (fun g : Group => { g with exitAt := now }) (Group.setEntry_setEntry _ _ _ _)

/-- The last lanes of a fragment arrive, with no deferral record on its entry: the entry is free (R249). -/
theorem Group.moves_arrive_all (look : Nat → Nat → Bool → Found) (now n : Nat) {g : Group} {ent : Nat} {f : Frag} {m : Mask}
    (ms : List Move) (bad : List BadEntry) (h : g.entry ent = .frag f) (none_left : f.act &&& ~~~m = 0) (nd : g.topDefer ent = none) :
    g.moves look now (n + 1) (.arrive ent m :: ms) bad =
      ((g.setEntry ent .free).without ent f.fe (m &&& f.act) now).moves look now n ms bad := by
  simp only [Group.moves, h, Group.without, Group.topDefer_setEntry, nd, none_left]
  cases f.fe with
  | none =>
    simp only [if_true]
    exact congrArg (fun g => Group.moves look now n ms g bad) (Group.setEntry_free_gone g ent now _ _)
  | some r =>
    simp only [if_true]
    by_cases e : r = ent
    · subst e; simp only [Group.entry_setEntry_self, Group.setEntry_setEntry]
    · simp only [Group.entry_setEntry_ne _ _ e]
      cases g.entry r with
      | fusion x =>
        simp only
        rw [Group.setEntry_comm _ e, Group.setEntry_setEntry]
      | frag _ => simp only [Group.setEntry_setEntry]
      | free => simp only [Group.setEntry_setEntry]

/-- Changes of a group's split table that fail at no entry and complete no fusion record (R249, R251). -/
theorem State.moves_setGroup {s : State} {c : Iss} {g g' : Group} {m : Move} (done : g'.covered = none)
    (h : ∀ look n, g.moves look s.seq (n + 1) [m] [] = g'.moves look s.seq n [] []) :
    (s.setGroup c.cur.gid g).moves c [m] = (s.setGroup c.cur.gid g').checkExit c.bid := by
  simp only [State.moves, State.find?_setGroup, State.setGroup_seq, moveFuel, h, Group.moves_nil _ _ _ _ done, State.setGroup_setGroup,
    List.foldl_nil]

section
variable {s : State} {c : Iss} {e : Enc} {x : Eff} (hent : x.g.entry c.cur.ent = .frag c.f)
include hent

/-- With no lane leaving, within its block, a fragment stands at its next instruction. -/
theorem State.advance_within (none_gone : x.clear = 0) (stays : s.staysIn c e.units) :
    s.advance c e x false = s.setGroup c.cur.gid (x.g.setEntry c.cur.ent (.frag (c.f.onward e.units))) := by
  simp only [State.advance, none_gone, ne_eq, not_true, decide_false, Bool.false_and, if_true]
  rw [State.modFrag_setGroup hent, Frag.past_eq_onward stays.1]
  exact State.fallThrough_setGroup stays (Group.entry_setEntry_self _ _ _)

variable (hgone : x.clear &&& c.f.act = x.clear) (some_gone : x.clear ≠ 0)
include hgone some_gone

/-- Where every lane leaves and no deferral record stands on the entry, the entry is free, if no fusion record is complete then. -/
theorem State.advance_all_leave (none_left : c.f.act &&& ~~~x.clear = 0) (nd : x.g.topDefer c.cur.ent = none)
    (done : ((x.g.setEntry c.cur.ent .free).without c.cur.ent c.f.fe x.clear s.seq).covered = none) :
    s.advance c e x false =
      (s.setGroup c.cur.gid ((x.g.setEntry c.cur.ent .free).without c.cur.ent c.f.fe x.clear s.seq)).checkExit c.bid := by
  simp only [State.advance, none_left, some_gone, ne_eq, not_false_eq_true, decide_true, Bool.true_and, beq_self_eq_true, if_true]
  refine State.moves_setGroup done (fun look n => ?_)
  rw [Group.moves_arrive_all look _ n [] [] hent none_left nd, hgone]

/-- Where some lanes leave, the others stand at their next instruction, if no fusion record is complete then. -/
theorem State.advance_some_leave (left : c.f.act &&& ~~~x.clear ≠ 0) (hbid : c.bid = c.cur.gid / 32) (stays : s.staysIn c e.units)
    (done : ((x.g.setEntry c.cur.ent (.frag { c.f.onward e.units with act := c.f.act &&& ~~~x.clear })).without c.cur.ent c.f.fe
      x.clear s.seq).covered = none) :
    s.advance c e x false = (s.setGroup c.cur.gid ((x.g.setEntry c.cur.ent (.frag { c.f.onward e.units with
      act := c.f.act &&& ~~~x.clear })).without c.cur.ent c.f.fe x.clear s.seq)).checkExit c.bid := by
  simp only [State.advance, beq_eq_false_iff_ne.mpr left, some_gone, Bool.and_false, if_false, Bool.false_eq_true]
  rw [State.modFrag_setGroup hent, Frag.past_eq_onward stays.1, State.moves_setGroup done (fun look n => ?_)]
  · exact State.fallThrough_checkExit hbid stays (Group.entry_without (Group.entry_setEntry_self _ _ _) _ _ _)
  · rw [Group.moves_arrive_some (f := c.f.onward e.units) look _ n [] [] (Group.entry_setEntry_self _ _ _) left, Group.setEntry_setEntry]
    exact congrArg (fun m => Group.moves look s.seq n [] (Group.without _ _ _ m _) []) hgone

end

/-- R245, R249, R251: an instruction's end leaves what `State.leaves` says, when the lanes that it takes from the activity mask are
those that do not stay. -/
theorem State.advance_leaves {s : State} {c : Iss} (hc : s.issuer? = some c) (e : Enc) (x : Eff) (stay : Nat → Bool)
    (htable : x.g.table = c.g.table) (hclear : x.clear = c.f.act &&& ~~~maskOf (fun L => bitOf c.f.act L && stay L)) :
    s.leaves (s.advance c e x false) c x.g e.units stay := by
  obtain ⟨hbid, hcg⟩ := State.issuer?_entry hc
  have hent : x.g.entry c.cur.ent = .frag c.f := (Group.entry_congr htable _).trans hcg
  have hkept := Mask.and_not_and_not (Mask.and_maskOf_and c.f.act stay)
  rw [← hclear] at hkept
  have hgone : x.clear &&& c.f.act = x.clear := by
    rw [hclear, BitVec.and_assoc, BitVec.and_comm (~~~_), ← BitVec.and_assoc, BitVec.and_self]
  unfold State.leaves
  dsimp only
  rw [← hkept]
  have all_gone : c.f.act &&& ~~~(c.f.act &&& ~~~x.clear) = x.clear := by
    rw [hkept, ← hclear]
  rw [all_gone]
  refine ⟨fun none_gone stays => ?_, fun some_gone done rest => ?_⟩
  · have all_kept : c.f.act &&& ~~~x.clear = c.f.act := by rw [none_gone]; exact BitVec.and_allOnes
    rw [State.advance_within hent none_gone stays, all_kept, if_neg (fun h => h.1 none_gone)]
    rfl
  · by_cases none_left : c.f.act &&& ~~~x.clear = 0
    · rw [if_pos ⟨some_gone, none_left⟩] at done ⊢
      rw [if_pos none_left] at rest
      exact State.advance_all_leave hent hgone some_gone none_left rest done
    · rw [if_neg (fun h => none_left h.2)] at done ⊢
      rw [if_neg none_left] at rest
      exact State.advance_some_leave hent hgone some_gone none_left hbid rest done

end Sys2Proof.Machine

/-! SUPPORT. What a vector destination receives (R86, R102), for any instruction that writes one, and masks after a write. -/

namespace Sys2Proof.Machine

/-! Registers after a write -/

theorem Group.vGet_vPut_self (g : Group) (r : Nat) (val : Nat → Option Word) {L : Nat} (hL : L < 96) :
    (g.vPut r val).vGet r L = (val L).getD (g.vGet r L) := by
  simp only [Group.vGet, Group.vPut, Map.get_put_self, laneGet_tab _ hL]

theorem Group.vGet_vPut_ne (g : Group) {r q : Nat} (val : Nat → Option Word) (L : Nat) (h : q ≠ r) :
    (g.vPut r val).vGet q L = g.vGet q L := by
  simp only [Group.vGet, Group.vPut, Map.get_put_ne _ _ _ h]

@[simp] theorem Group.kGet_kPut_self (g : Group) (n : Nat) (m : Mask) : (g.kPut n m).kGet n = m := by
  simp only [Group.kGet, Group.kPut_k, Map.get_put_self]

theorem Group.kGet_kPut_ne (g : Group) {n k : Nat} (m : Mask) (h : k ≠ n) : (g.kPut n m).kGet k = g.kGet k := by
  simp only [Group.kGet, Group.kPut_k, Map.get_put_ne _ _ _ h]

/-! Vector destinations -/

/-- Word i of a destination in lane L, as `putVec` writes it: a result in an Active lane, zero in another Owned lane under the zero policy
(R86, R102). -/
def Iss.destWord (c : Iss) (e : Enc) (active : Mask) (f : Nat → DWord) (i L : Nat) : Option Word :=
  if bitOf active L then some ((f L).extractLsb' (32 * i) 32) else if e.p.zero && bitOf c.own L then some 0 else none

section
variable (c : Iss) (e : Enc) (wide : Bool) (active : Mask) (f : Nat → DWord) {r L : Nat}

/-- The two vector writes of `putVec`, at the lanes that exist. -/
theorem Iss.vGet_putVec_words (x : Eff) (hdst : e.dst.toNat < 0x40) (hL : L < 96) :
    (c.putVec e x wide active ((lanesOf active).map (fun L => (L, f L)))).g.vGet r L =
      if r = e.dst.toNat then (c.destWord e active f 0 L).getD (x.g.vGet r L)
      else if wide = true ∧ r = e.dst.toNat + 1 then (c.destWord e active f 1 L).getD (x.g.vGet r L)
      else x.g.vGet r L := by
  have word : ∀ i, (if bitOf active L then
        (Map.find? ((lanesOf active).map (fun L => (L, f L))) L).map (fun (w : DWord) => w.extractLsb' (32 * i) 32)
      else if e.p.zero && bitOf c.own L then some (0 : Word) else none) = c.destWord e active f i L := by
    intro i
    rw [Map.find?_lanes, Iss.destWord]
    by_cases ha : bitOf active L = true
    · rw [if_pos ha, if_pos ((mem_lanesOf hL).mpr ha), if_pos ha]; rfl
    · rw [if_neg ha, if_neg ha]
  unfold Iss.putVec
  dsimp only
  rw [if_neg (Nat.not_le.mpr hdst)]
  by_cases low : r = e.dst.toNat
  · subst low
    have ne : e.dst.toNat ≠ e.dst.toNat + 1 := by omega
    cases wide <;>
      simp only [if_true, if_false, Bool.false_eq_true, Group.vGet_vPut_ne _ _ _ ne, Group.vGet_vPut_self _ _ _ hL, word]
  · rw [if_neg low]
    cases wide with
    | false => simp only [Bool.false_eq_true, if_false, false_and, Group.vGet_vPut_ne _ _ _ low]
    | true =>
      by_cases high : r = e.dst.toNat + 1
      · subst high
        simp only [if_true, and_self, Group.vGet_vPut_self _ _ _ hL, word, Group.vGet_vPut_ne _ _ _ low]
      · simp only [if_true, high, and_false, if_false, Group.vGet_vPut_ne _ _ _ high, Group.vGet_vPut_ne _ _ _ low]

/-- The statements' account of a vector destination, by its words. -/
theorem vectorDest_eq (old : Word) :
    vectorDest e wide active c.own f r L old =
      if e.dst.toNat < 0x40 then
        if r = e.dst.toNat then (c.destWord e active f 0 L).getD old
        else if wide = true ∧ r = e.dst.toNat + 1 then (c.destWord e active f 1 L).getD old
        else old
      else old := by
  have word : ∀ i (w : Word), (f L).extractLsb' (32 * i) 32 = w →
      (c.destWord e active f i L).getD old = if bitOf active L then w else if e.p.zero ∧ bitOf c.own L then 0 else old := by
    rintro i w rfl
    unfold Iss.destWord
    cases bitOf active L <;> cases e.p.zero <;> cases bitOf c.own L <;> rfl
  rw [word 0 (lo32 (f L)) rfl, word 1 (hi32 (f L)) rfl]
  unfold vectorDest
  by_cases low : e.dst.toNat = r
  · subst low; simp only [true_or, and_true, if_true]
  · simp only [low, Ne.symm low, false_or, if_false, eq_comm (a := r), ite_and]

/-- `putVec` writes the destination's words and no other vector register. -/
theorem Iss.vGet_putVec (x : Eff) (hL : L < 96) :
    (c.putVec e x wide active ((lanesOf active).map (fun L => (L, f L)))).g.vGet r L =
      vectorDest e wide active c.own f r L (x.g.vGet r L) := by
  rw [vectorDest_eq]
  by_cases hdst : e.dst.toNat < 0x40
  · rw [if_pos hdst, Iss.vGet_putVec_words c e wide active f x hdst hL]
  · rw [if_neg hdst, Iss.putVec, if_pos (Nat.not_lt.mp hdst)]

end

theorem Iss.putVec_frame (c : Iss) (e : Enc) (x : Eff) (wide : Bool) (active : Mask) (res : Lanes) :
    (c.putVec e x wide active res).clear = x.clear ∧
      (c.putVec e x wide active res).g = { x.g with v := (c.putVec e x wide active res).g.v } := by
  unfold Iss.putVec
  dsimp only
  split
  · exact ⟨rfl, rfl⟩
  · cases wide <;> exact ⟨rfl, rfl⟩

/-- R86, R102: an instruction with a vector result per lane writes its destination, counts in its Active lanes, and takes no lane away. -/
theorem State.vec_sets {s : State} {c : Iss} (hc : s.issuer? = some c) (e : Enc) (wide : Bool) (f : Nat → DWord) :
    s.vectorsSet (s.vec c e wide f) c e.units (c.active e)
      (fun r L => vectorDest e wide (c.active e) c.own f r L (c.g.vGet r L)) := by
  obtain ⟨hclear, hg⟩ := Iss.putVec_frame c e c.eff wide (c.active e) ((lanesOf (c.active e)).map (fun L => (L, f L)))
  refine ⟨_, State.finishV_wrote .., ?_, ?_, fun r L hL => ?_, ?_⟩
  · rw [hg]; rfl
  · rw [hg]; exact Group.count_ticked _ _
  · exact Iss.vGet_putVec c e wide (c.active e) f c.eff hL
  · refine State.advance_leaves hc e _ _ ?_ ?_
    · rw [hg]; rfl
    · simp only [hclear, Bool.and_true, maskOf_bitOf]; exact (BitVec.and_not_self _).symm

end Sys2Proof.Machine

/-! SUPPORT. The exchange of lanes (R114, R115). -/

namespace Sys2Proof.Machine

theorem intTy_wide (v : BitVec 2) : (intTy v).wide = (v == 2) := by
  revert v; decide

/-- Each exchange is the common one, with the lane that the statement's table names. -/
theorem exec_exchange {i : Instr} {e : Enc} {j : Nat → Word → Nat} (h : exchangeLane i = some (e, j)) (s : State) :
    exec i s = issuing i s (fun c => s.exchange c e j) := by
  unfold exchangeLane at h
  split at h <;> cases h
  case h_1 e =>
    have lane : (fun (L : Nat) (p : Word) => 4 * (L / 4) + (p >>> (2 * (L % 4))).toNat % 4) =
        fun L p => 4 * (L / 4) + (p.extractLsb' (2 * (L % 4)) 2).toNat := by
      funext L p; rw [BitVec.extractLsb'_toNat, BitVec.toNat_ushiftRight]
    rw [← lane]; rfl
  case h_2 e =>
    have lane : (fun (L : Nat) (i : Word) => 4 * (L / 4) + i.toNat % 4) = fun L i => 4 * (L / 4) + (i.extractLsb' 0 2).toNat := by
      funext L i; rw [BitVec.extractLsb'_toNat, Nat.shiftRight_zero]
    rw [← lane]; rfl
  all_goals rfl

/-- What a lane reads of another: nothing of one that does not exist (R115). -/
theorem Iss.fromLane_eq (c : Iss) (e : Enc) (k : Nat) :
    c.fromLane e (intTy e.var) k =
      if k < 96 ∧ bitOf c.g.lanes k then
        (if e.var == 2 then c.g.vGet (e.a.toNat + 1) k ++ c.g.vGet e.a.toNat k else (c.g.vGet e.a.toNat k).zeroExtend 64)
      else 0 := by
  unfold Iss.fromLane
  by_cases h : k < 96 ∧ bitOf c.g.lanes k = true
  · rw [if_pos h, if_pos (by simpa using h)]
    simp only [Iss.readVec, intTy_wide]
  · rw [if_neg h, if_neg (by simpa using h)]
    rfl

/-- Settles O20: an exchange writes a vector result per lane, and that result is what `fromLane` reads of the lane it names. -/
theorem laneExchangeResults : Obligations.LaneExchangeResults := by
  unfold Obligations.LaneExchangeResults
  intro s c i e j hi hlegal
  refine ⟨_, (exec_exchange hi s).trans (issuing_legal hlegal _), ?_⟩
  simp only [State.exchange, intTy_wide, Iss.fromLane_eq]
  exact State.vec_sets hlegal.1 e _ _

end Sys2Proof.Machine

/-! SUPPORT. Vector comparisons (R106): the condition on elements as bit vectors, and the mask bits written. -/

namespace Sys2Proof.Machine

/-! Elements as numbers -/

theorem signedOf_toNat {w : Nat} (hw : 0 < w) (x : BitVec w) : signedOf w x.toNat = x.toInt := by
  obtain ⟨n, rfl⟩ : ∃ n, w = n + 1 := ⟨w - 1, by omega⟩
  rw [BitVec.toInt_eq_toNat_cond, signedOf, Nat.add_sub_cancel, Nat.pow_succ]
  have half : x.toNat < 2 ^ n ↔ 2 * x.toNat < 2 ^ n * 2 := by omega
  simp only [half]
  split <;> push_cast <;> ring_nf

theorem Ty.raw_eq (ty : Ty) (x : DWord) (i : Nat) : ty.raw x i = (elemAt ty.bits x i).toNat := by
  rw [Ty.raw, elemAt, BitVec.extractLsb'_toNat]

theorem Ty.bits_pos (ty : Ty) : 0 < ty.bits := by cases ty <;> decide

/-- An element's number, by the element's bits (R99). -/
theorem Ty.val_eq (ty : Ty) (x : DWord) (i : Nat) : ty.val x i = numOf (decide (ty = .n32)) (elemAt ty.bits x i) := by
  rw [Ty.val, Ty.raw_eq, signedOf_toNat ty.bits_pos, numOf]
  by_cases h : ty = .n32 <;> simp only [h, if_true, if_false, decide_true, decide_false, Bool.false_eq_true]

theorem numOf_inj {w : Nat} (uns : Bool) (a b : BitVec w) : numOf uns a = numOf uns b ↔ a = b := by
  cases uns
  · exact BitVec.toInt_inj
  · simp only [numOf, if_true, Int.natCast_inj, BitVec.toNat_inj]

/-- A condition on two elements is the condition on their numbers (R106). -/
theorem elemCond_eq_eval (cc : Cond) (w : Nat) (uns : Bool) (a b : BitVec w) :
    elemCond cc w uns a b = cc.eval (numOf uns a) (numOf uns b) := by
  have less : ∀ x y : BitVec w, (if uns then x.ult y else x.slt y) = decide (numOf uns x < numOf uns y) := by
    intro x y; cases uns
    · exact BitVec.slt_eq_decide
    · simp [numOf, BitVec.ult_eq_decide]
  have atMost : ∀ x y : BitVec w, (if uns then x.ule y else x.sle y) = decide (numOf uns x ≤ numOf uns y) := by
    intro x y; cases uns
    · exact BitVec.sle_eq_decide
    · simp [numOf, BitVec.ule_eq_decide]
  cases cc
  case eq => exact (Bool.eq_iff_iff.mpr (by simp [numOf_inj]) : (a == b) = (numOf uns a == numOf uns b))
  case ne => exact (Bool.eq_iff_iff.mpr (by simp [numOf_inj]) : (a != b) = (numOf uns a != numOf uns b))
  case lt => exact less a b
  case le => exact atMost a b
  case gt => exact less b a
  case ge => exact atMost b a

/-- R106: a comparison holds when every element satisfies it, element by element of the variant. -/
theorem Cond.all_eq_elemAll (cc : Cond) (v : BitVec 2) (a b : DWord) : cc.all (intTy v) a b = elemAll v cc a b := by
  have variants : v = 0 ∨ v = 1 ∨ v = 2 ∨ v = 3 := by revert v; decide
  have elems : cc.all (intTy v) a b = (List.range (intTy v).count).all (fun i =>
      elemCond cc (intTy v).bits (decide (intTy v = .n32)) (elemAt _ a i) (elemAt _ b i)) := by
    simp only [Cond.all, Ty.val_eq, elemCond_eq_eval]
  have wide : ∀ x : DWord, elemAt 64 x 0 = x := fun x => BitVec.extractLsb'_eq_self
  rw [elems]
  obtain rfl | rfl | rfl | rfl := variants
  · exact Bool.and_true _
  · exact Bool.and_true _
  · refine (Bool.and_true _).trans ?_
    rw [show elemAll 2 cc a b = elemCond cc 64 false a b from rfl]
    exact congrArg₂ (elemCond cc 64 false) (wide a) (wide b)
  · exact congrArg (_ && ·) (Bool.and_true _)

/-! Mask destinations -/

/-- What `kPut` makes of mask n ≥ 1 in a lane: the new bit where it is written, else the old one (R86, R112). -/
theorem Eff.kGet_kPut (x : Eff) (act wr bits : Mask) (dst : Code) {n L : Nat} (hn : 1 ≤ n) (hL : L < 96) :
    bitOf ((x.kPut act dst.toNat wr bits).g.kGet n) L = maskDestBit dst wr (bitOf bits L) n L (bitOf (x.g.kGet n) L) := by
  unfold Eff.kPut maskDestBit
  by_cases k0 : dst.toNat = 0
  · rw [if_pos k0, if_neg (fun h => by omega)]
  · rw [if_neg k0]
    by_cases e : dst.toNat = n
    · subst e
      rw [Group.kGet_kPut_self, bitOf_or, bitOf_and, bitOf_and, bitOf_not _ hL]
      cases bitOf wr L
      · rw [if_neg (by simp), Bool.not_false, Bool.and_true, Bool.and_false, Bool.or_false]
      · rw [if_pos ⟨rfl, rfl⟩, Bool.not_true, Bool.and_false, Bool.false_or, Bool.and_true]
    · rw [if_neg (fun h => e h.1), Group.kGet_kPut_ne _ _ (Ne.symm e)]

/-- The lanes that `kPut` takes from the activity mask are those that the write of k0 leaves without their bit (R245). -/
theorem Eff.clear_kPut (g : Group) (act wr bits : Mask) (dst : Code) :
    ((⟨g, 0⟩ : Eff).kPut act dst.toNat wr bits).clear =
      act &&& ~~~maskOf (fun L => bitOf act L && maskDestBit dst wr (bitOf bits L) 0 L (bitOf act L)) := by
  refine Mask.ext (fun L hL => ?_)
  rw [bitOf_and, bitOf_not _ hL, bitOf_maskOf_and]
  unfold Eff.kPut maskDestBit
  by_cases k0 : dst.toNat = 0
  · rw [if_pos k0, bitOf_or, bitOf_and, bitOf_and, bitOf_not _ hL]
    simp only [k0, true_and]
    have none_before : bitOf (0 : Mask) L = false := BitVec.getLsbD_zero
    rw [none_before]
    cases bitOf act L <;> cases bitOf wr L <;> rfl
  · rw [if_neg k0, if_neg (fun h => k0 h.1), Bool.and_self, Bool.and_not_self]
    exact BitVec.getLsbD_zero

theorem Eff.kPut_frame (x : Eff) (act wr bits : Mask) (n : Nat) :
    (x.kPut act n wr bits).g = { x.g with k := (x.kPut act n wr bits).g.k } := by
  unfold Eff.kPut
  split <;> rfl

/-- R86, R112, R245: an instruction that writes bits to a mask in some lanes and is counted per lane; k0 is the activity mask. -/
theorem State.finishV_kPut_sets {s : State} {c : Iss} (hc : s.issuer? = some c) (e : Enc) (wr bits active : Mask) :
    s.masksSet (s.finishV c e (c.eff.kPut c.f.act e.dst.toNat wr bits) active false) c e.units active
      (fun n L => maskDestBit e.dst wr (bitOf bits L) n L (bitOf (c.k n) L)) := by
  have hg := Eff.kPut_frame c.eff c.f.act wr bits e.dst.toNat
  refine ⟨_, State.finishV_wrote .., ?_, ?_, fun n L hn hL => ?_, ?_⟩
  · rw [hg]; rfl
  · rw [hg]; exact Group.count_ticked _ _
  · have own : c.k n = c.g.kGet n := if_neg (Nat.ne_of_gt hn)
    dsimp only
    rw [own]
    exact Eff.kGet_kPut c.eff c.f.act wr bits e.dst hn hL
  · refine State.advance_leaves hc e _ _ ?_ (Eff.clear_kPut c.g c.f.act wr bits e.dst)
    rw [hg]; rfl

/-- R106: VCMP writes the condition's truth in the Active lanes of its mask, or in all Owned lanes under the zero policy. -/
theorem State.vecCmp_sets {s : State} {c : Iss} (hc : s.issuer? = some c) (e : Enc) (cc : Cond) :
    s.masksSet (s.vecCmp c e cc) c e.units (c.active e) (fun n L =>
      maskDestBit e.dst (if e.p.zero then c.own else c.active e)
        (bitOf (c.active e) L && elemAll e.var cc (c.a e (intTy e.var) L) (c.b' e (intTy e.var) L)) n L (bitOf (c.k n) L)) := by
  unfold State.vecCmp Iss.putMask
  simp only [Cond.all_eq_elemAll, BitVec.and_comm _ (c.active e), Mask.and_maskOf_and]
  have sets := State.finishV_kPut_sets hc e (if e.p.zero then c.own else c.active e)
    (maskOf (fun L => bitOf (c.active e) L && elemAll e.var cc (c.a e (intTy e.var) L) (c.b' e (intTy e.var) L))) (c.active e)
  simp only [bitOf_maskOf_and] at sets
  exact sets

/-! The instruction -/

/-- Each comparison is the common one, with its condition. -/
theorem exec_vectorCmp {i : Instr} {e : Enc} {cc : Cond} (h : vectorCmp i = some (e, cc)) (s : State) :
    exec i s = issuing i s (fun c => s.vecCmp c e cc) := by
  unfold vectorCmp at h
  split at h <;> cases h <;> rfl

/-- Where a row's first field may not hold the destination's code, the word is illegal. -/
theorem Enc.reason_isSome_of_dst {e : Enc} {vars : List Nat} {u : PrefixUse} {d a b : FieldKind} {pair extra : Bool}
    (h : d.admits e.dst = false) : (e.reason vars u d a b pair extra).isSome := by
  unfold Enc.reason
  simp only [h, Bool.not_false, Bool.true_or, if_true]
  split_ifs <;> rfl

/-- R94: a comparison whose destination is no mask register is illegal, whatever the state. -/
theorem vectorCmp_reason {i : Instr} {e : Enc} {cc : Cond} (h : vectorCmp i = some (e, cc)) (hdst : 8 ≤ e.dst.toNat) (s : State) (c : Iss) :
    ∃ r, s.reason c i none = some r := by
  have notMask : FieldKind.kreg.admits e.dst = false := decide_eq_false (Nat.not_lt.mpr hdst)
  have word : ∃ op : BitVec 9, opcodeOf i = some (op, e) ∧ needsFeature op.toNat e.var = none ∧ (staticReason i).isSome := by
    unfold vectorCmp at h
    split at h <;> cases h
    all_goals exact ⟨_, rfl, rfl, Enc.reason_isSome_of_dst notMask⟩
  obtain ⟨op, hop, hfeat, hr⟩ := word
  obtain ⟨r, hr⟩ := Option.isSome_iff_exists.mp hr
  exact ⟨r, by simp only [State.reason, hop, hfeat, hr, Bool.false_eq_true, if_false, Option.isSome_none]⟩

theorem issuing_illegal {s : State} {c : Iss} {i : Instr} {r : Nat} (hc : s.issuer? = some c) (hr : s.reason c i none = some r)
    (eff : Iss → State) : issuing i s eff = .next (s.illegal c i r) := by
  simp only [issuing, hc, hr]

/-- Settles O12: a destination that is no mask register is refused by the word's row; else the comparison writes its mask. -/
theorem vectorComparisonSetsMask : Obligations.VectorComparisonSetsMask := by
  unfold Obligations.VectorComparisonSetsMask
  intro s c i e cc hi
  refine ⟨fun hc hdst => ?_, fun hlegal => ?_⟩
  · obtain ⟨r, hr⟩ := vectorCmp_reason hi hdst s c
    exact ⟨r, hr, (exec_vectorCmp hi s).trans (issuing_illegal hc hr _)⟩
  · exact ⟨_, (exec_vectorCmp hi s).trans (issuing_legal hlegal _), State.vecCmp_sets hlegal.1 e cc⟩

end Sys2Proof.Machine

/-! SUPPORT. What a table holds after a write, folds of masks, and the lowest lane of a mask. -/

namespace Sys2Proof

variable {α : Type}

theorem Map.mem_of_find? {m : Map α} {k : Nat} {x : α} (h : Map.find? m k = some x) : (k, x) ∈ m := by
  induction m with
  | nil => cases h
  | cons p m ih =>
    obtain ⟨j, y⟩ := p
    rw [Map.find?_cons] at h
    split at h
    · next e => cases h; rw [e]; exact List.mem_cons_self
    · exact List.mem_cons_of_mem _ (ih h)

theorem Map.mem_put {m : Map α} {k : Nat} {x : α} {p : Nat × α} (h : p ∈ Map.put m k x) : p = (k, x) ∨ p ∈ m := by
  induction m with
  | nil => exact .inl (List.mem_singleton.mp h)
  | cons q m ih =>
    simp only [Map.put] at h
    split at h
    · exact List.mem_cons.mp h
    · split at h
      · exact (List.mem_cons.mp h).imp_right (List.mem_cons_of_mem _)
      · obtain rfl | h := List.mem_cons.mp h
        · exact .inr List.mem_cons_self
        · exact (ih h).imp_right (List.mem_cons_of_mem _)

theorem Mask.exists_bitOf_of_ne_zero {m : Mask} (h : m ≠ 0) : ∃ L, L < 96 ∧ bitOf m L = true := by
  by_contra none
  refine h (Mask.ext (fun L hL => ?_))
  rw [Bool.eq_false_iff.mpr (fun set => none ⟨L, hL, set⟩)]
  exact BitVec.getLsbD_zero.symm

/-- A lane in a mask stays in it through a fold that only adds lanes. -/
theorem bitOf_foldl_of_init {f : Mask → α → Mask} {L : Nat} (adds : ∀ m a, bitOf m L = true → bitOf (f m a) L = true)
    (l : List α) {m : Mask} (h : bitOf m L = true) : bitOf (l.foldl f m) L = true := by
  induction l generalizing m with
  | nil => exact h
  | cons a l ih => exact ih (adds m a h)

/-- A lane that some element of the list adds is in the mask gathered. -/
theorem bitOf_foldl_of_mem {f : Mask → α → Mask} {L : Nat} (adds : ∀ m a, bitOf m L = true → bitOf (f m a) L = true)
    {l : List α} {a : α} (ha : a ∈ l) (h : ∀ m, bitOf (f m a) L = true) (m : Mask) : bitOf (l.foldl f m) L = true := by
  induction l generalizing m with
  | nil => cases ha
  | cons b l ih =>
    obtain rfl | ha := List.mem_cons.mp ha
    · exact bitOf_foldl_of_init adds l (h m)
    · exact ih ha _

theorem lanesOf_head?_eq_some {m : Mask} {L : Nat} :
    (lanesOf m).head? = some L ↔ L < 96 ∧ bitOf m L = true ∧ ∀ k, k < L → bitOf m k = false := by
  rw [lanesOf, List.head?_filter, List.find?_range_eq_some, List.mem_range]
  simp only [Bool.not_eq_true']
  exact ⟨fun ⟨set, lt, least⟩ => ⟨lt, set, least⟩, fun ⟨lt, set, least⟩ => ⟨set, lt, least⟩⟩

end Sys2Proof

/-! SUPPORT. Entering a block whole (R88, R249), passing on, and what the target of a legal transfer finds (R90, R255). -/

namespace Sys2Proof.Machine

/-! The issuing fragment's group and code -/

theorem State.issuer?_group {s : State} {c : Iss} (h : s.issuer? = some c) : Map.find? s.groups c.cur.gid = some c.g := by
  unfold State.issuer? at h
  split at h
  · cases h
  · next g hg =>
    split at h
    · split at h
      · cases h
      · split at h
        · cases h
        · cases h; exact hg
    · cases h

@[simp] theorem State.setGroup_header (s : State) (gid : Nat) (g : Group) (c : Iss) (hnd : Nat) (addr : Int) (tr : Bool) :
    (s.setGroup gid g).header c hnd addr tr = s.header c hnd addr tr := by
  simp only [State.header, State.setGroup_unitAt]

theorem Group.modFrag_eq_setEntry {g : Group} {e : Nat} {f : Frag} (h : g.entry e = .frag f) (F : Frag → Frag) :
    g.modFrag e F = g.setEntry e (.frag (F f)) := by
  simp only [Group.modFrag, h]

/-! Fragments in a table -/

/-- A fragment completes no fusion record (R252). -/
theorem Group.covered_setEntry_frag {g : Group} (h : g.covered = none) (e : Nat) (f : Frag) :
    (g.setEntry e (.frag f)).covered = none := by
  simp only [Group.covered, Option.map_eq_none_iff, List.find?_eq_none] at h ⊢
  intro p hp
  obtain rfl | hp := Map.mem_put hp
  · exact Bool.false_ne_true
  · exact h p hp

/-- The lanes of a fragment in the table have not exited (R250). -/
theorem Group.bitOf_alive_of_mem {g : Group} {e : Nat} {f : Frag} (h : (e, Entry.frag f) ∈ g.table) {L : Nat}
    (hL : bitOf f.act L = true) : bitOf g.alive L = true := by
  unfold Group.alive
  refine bitOf_foldl_of_init (fun m d hm => by simp only [bitOf_or, hm, Bool.true_or]) _ ?_
  refine bitOf_foldl_of_mem (fun m p hm => ?_) h (fun m => by simp only [bitOf_or, hL, Bool.or_true]) _
  split
  · simp only [bitOf_or, hm, Bool.true_or]
  · simp only [bitOf_or, hm, Bool.true_or]
  · exact hm

/-- A block with a fragment that has a lane, no helper lane, has not exited (R251). -/
theorem State.checkExit_eq_self {s : State} {cur : Cursor} {g : Group} {f : Frag} (hg : Map.find? s.groups cur.gid = some g)
    (hf : Map.find? g.table cur.ent = some (.frag f)) (lane : f.act &&& (g.lanes &&& ~~~g.helpers) ≠ 0) :
    s.checkExit (cur.gid / 32) = s := by
  refine if_neg (fun exited => ?_)
  obtain ⟨L, -, hL⟩ := Mask.exists_bitOf_of_ne_zero lane
  have member : (cur.gid, g) ∈ s.groupsOf (cur.gid / 32) :=
    List.mem_filter.mpr ⟨Map.mem_of_find? hg, beq_self_eq_true _⟩
  have dead := eq_of_beq (List.all_eq_true.mp exited _ member)
  have dead_lane := congrArg (fun m => bitOf m L) dead
  rw [bitOf_and] at hL
  obtain ⟨hact, hreal⟩ := Bool.and_eq_true_iff.mp hL
  rw [BitVec.and_assoc, bitOf_and, hreal, Group.bitOf_alive_of_mem (Map.mem_of_find? hf) hact] at dead_lane
  exact Bool.noConfusion (dead_lane.trans BitVec.getLsbD_zero)

/-- A fragment's innermost fusion point does not depend on where it stands (R248). -/
theorem Group.inner_setEntry_frag {g : Group} {ent : Nat} {f f' : Frag} (hf : g.entry ent = .frag f) (hfe : f'.fe = f.fe) :
    (g.setEntry ent (.frag f')).inner ent f' = g.inner ent f := by
  simp only [Group.inner, Group.topDefer_setEntry, hfe]
  cases g.topDefer ent with
  | some d => rfl
  | none =>
    cases f.fe with
    | none => rfl
    | some r =>
      by_cases e : r = ent
      · subst e; simp only [Group.entry_setEntry_self, hf]
      · simp only [Group.entry_setEntry_ne _ _ e]

/-! Entering a block -/

/-- A fragment enters a sound block that is not its fusion point (R249). -/
theorem Group.moves_enter {look : Nat → Nat → Bool → Found} {g : Group} {ent addr : Nat} {f : Frag} {tr : Bool} {h : Header}
    (hf : g.entry ent = .frag f) (found : look f.hnd addr tr = .ok h)
    (away : ¬ (h.fuse = true ∧ g.inner ent f = some (f.hnd, addr))) (now n : Nat) (ms : List Move) (bad : List BadEntry) :
    g.moves look now (n + 1) (.enter ent addr tr :: ms) bad =
      (g.setEntry ent (.frag { f with pc := addr + 8, blk := addr })).moves look now n ms bad := by
  have stays : (h.fuse && g.inner ent f == some (f.hnd, addr)) = false :=
    Bool.eq_false_iff.mpr (fun arrives => away (by simpa only [Bool.and_eq_true, beq_iff_eq] using arrives))
  simp only [Group.moves, hf, found, stays, Bool.false_eq_true, if_false]

/-- A fragment with a lane, no helper lane, enters a sound block, and with no fusion to be made nothing else happens (R251, R252). -/
theorem State.moves_enter {s : State} {c : Iss} {g : Group} {addr : Nat} {f : Frag} {tr : Bool} {h : Header} (hbid : c.bid = c.cur.gid / 32)
    (hf : g.entry c.cur.ent = .frag f) (found : s.header c f.hnd addr tr = .ok h)
    (away : ¬ (h.fuse = true ∧ g.inner c.cur.ent f = some (f.hnd, addr))) (done : g.covered = none)
    (lane : f.act &&& (g.lanes &&& ~~~g.helpers) ≠ 0) :
    (s.setGroup c.cur.gid g).moves c [.enter c.cur.ent addr tr] =
      s.setGroup c.cur.gid (g.setEntry c.cur.ent (.frag { f with pc := addr + 8, blk := addr })) := by
  have look : (s.setGroup c.cur.gid g).header c f.hnd addr tr = .ok h := by rw [State.setGroup_header, found]
  simp only [State.moves, State.find?_setGroup, moveFuel]
  rw [Group.moves_enter hf look away, Group.moves_nil _ _ _ _ (Group.covered_setEntry_frag done _ _), State.setGroup_setGroup,
    List.foldl_nil, hbid]
  exact State.checkExit_eq_self (State.find?_setGroup _ _ _) (Map.find?_put_self _ _ _) lane

/-- What a transfer writes: the counted group, and at its entry the fragment past the block's header. -/
theorem State.goTo_eq {s : State} {c : Iss} {g : Group} {hnd addr : Nat} (hc : s.issuer? = some c) (hg : g = { c.g with v := g.v })
    (enters : s.mayEnterBlock c hnd addr) :
    s.goTo c g hnd addr =
      s.setGroup c.cur.gid ((g.count c.own).setEntry c.cur.ent (.frag { c.f with hnd := hnd, pc := addr + 8, blk := addr })) := by
  obtain ⟨⟨h, found, away⟩, done, lane⟩ := enters
  obtain ⟨hbid, hent⟩ := State.issuer?_entry hc
  have standing : g.entry c.cur.ent = .frag c.f := (Group.entry_congr (congrArg Group.table hg) _).trans hent
  have inner : g.inner c.cur.ent c.f = c.g.inner c.cur.ent c.f := by rw [hg]; rfl
  have redirected_inner := (Group.inner_setEntry_frag (f' := { c.f with hnd := hnd }) standing rfl).trans inner
  have done' : g.covered = none := by rw [hg]; exact done
  have lane' : c.f.act &&& (g.lanes &&& ~~~g.helpers) ≠ 0 := by rw [hg]; exact lane
  rw [State.goTo, State.ctl, Group.modFrag_eq_setEntry standing]
  have entered := State.moves_enter (g := (g.setEntry c.cur.ent (.frag { c.f with hnd := hnd })).count c.own) hbid
    (Group.entry_setEntry_self g _ _) found (fun arrives => away ⟨arrives.1, redirected_inner.symm.trans arrives.2⟩)
    (Group.covered_setEntry_frag done' _ _) lane'
  refine entered.trans (congrArg (s.setGroup c.cur.gid) ?_)
  exact congrArg (fun t => { g.count c.own with table := t }) (Map.put_put_self g.table _ _ _)

/-- R88, R249, R255: a transfer to a sound block moves the whole fragment there. -/
theorem State.goTo_goesTo {s : State} {c : Iss} {g : Group} {hnd addr : Nat} (hc : s.issuer? = some c) (hg : g = { c.g with v := g.v })
    (enters : s.mayEnterBlock c hnd addr) : s.goesTo (s.goTo c g hnd addr) c g hnd addr := by
  have standing := State.fragAt_setGroup (s := s) (cur := c.cur)
    (Group.entry_setEntry_self (g.count c.own) c.cur.ent (.frag { c.f with hnd := hnd, pc := addr + 8, blk := addr }))
  have moved := State.moved_setGroup (State.find?_setGroup s c.cur.gid (g.count c.own))
    (Group.sameData_setEntry (g.count c.own) c.cur.ent (.frag { c.f with hnd := hnd, pc := addr + 8, blk := addr }))
  rw [State.setGroup_setGroup] at moved
  rw [State.goTo_eq hc hg enters]
  refine ⟨g.count c.own, _, moved, rfl, ?_, standing, rfl, rfl, rfl, rfl⟩
  rw [hg]
  exact Group.count_ticked _ _

/-- R63, R88: an instruction that passes leaves the fragment at the next unit. -/
theorem State.pass_onward {s : State} {c : Iss} (hc : s.issuer? = some c) (e : Enc) : s.onward (s.pass c e) c e := by
  refine ⟨⟨c.g.count c.own, State.finish_wrote s c e c.eff c.own false, rfl, Group.count_ticked _ _⟩, fun n latch ends before => ?_⟩
  have next : c.f.onward e.units = { c.f with st := if c.f.st = .waiting then .ready else c.f.st, pc := c.f.pc + 4 * e.units } := by
    simp only [Frag.onward, latch, if_true]
  have stays : s.staysIn c e.units := ⟨.inl latch, fun m hm => by
    rw [next]; exact (Option.some.inj (ends.symm.trans hm)) ▸ before⟩
  have still : (c.g.count c.own).entry c.cur.ent = .frag c.f := (State.issuer?_entry hc).2
  refine ⟨c.f.onward e.units, ?_, by rw [next], rfl, rfl, rfl⟩
  exact (congrArg (fun t => State.fragAt t c.cur) (State.advance_within (x := ⟨c.g.count c.own, 0⟩) still rfl stays)).trans
    (State.fragAt_setGroup (Group.entry_setEntry_self _ _ _))

/-! The target of a legal transfer (R90, R94, R255) -/

theorem State.staticReason_of_reason {s : State} {c : Iss} {i : Instr} (h : s.reason c i none = none) : staticReason i = none := by
  unfold State.reason at h
  cases hr : staticReason i with
  | none => rfl
  | some r =>
    rw [hr] at h
    split at h
    · simp only [Option.isSome_none, Bool.false_eq_true, if_false] at h
      split_ifs at h
    · cases h

/-- The fields of a word that its row does not refuse hold what the row admits (R80, R94). -/
theorem Enc.admits_of_reason {e : Enc} {vars : List Nat} {u : PrefixUse} {d a b : FieldKind} {pair extra : Bool}
    (h : e.reason vars u d a b pair extra = none) : d.admits e.dst = true ∧ a.admits e.a = true ∧ b.admits e.b = true := by
  cases fits : (!d.admits e.dst || !a.admits e.a || !b.admits e.b)
  case false =>
    simpa only [Bool.or_eq_false_iff, Bool.not_eq_false', and_assoc] using fits
  case true =>
    have refused : (e.reason vars u d a b pair extra).isSome := by
      unfold Enc.reason
      simp only [fits, Bool.true_or, if_true]
      split_ifs <;> rfl
    rw [h] at refused
    cases refused

/-- A transfer with a legal word to a sound header has its effect. -/
theorem State.transfer_eq {s : State} {c : Iss} {i : Instr} {found : Found} {h : Header} (legal : s.reason c i none = none)
    (sound : found = .ok h) (addr : Int) (eff : State) : s.transfer c i addr found eff = eff := by
  subst sound
  simp only [State.transfer, Found.reason, legal]

end Sys2Proof.Machine

/-! SUPPORT. A trap that is delivered at once enters the handler (R370, R372). -/

namespace Sys2Proof.Machine

/-- The issuing fragment as it stands at the handler's first unit (R372). -/
def Iss.handlerFrag (c : Iss) : Frag :=
  { c.f with st := .handler, trap := none, hnd := codeHnd c.l.desc.trap, latch := [], latchAt := 0, park := none, buf := none,
             pc := codeOff c.l.desc.trap + 8, blk := codeOff c.l.desc.trap }

/-- What a trap that may be delivered writes: the handler's fragment and the trap registers (R370). -/
theorem State.takeTrap_eq {s : State} {c : Iss} (hc : s.issuer? = some c) (may : s.mayTrap c) (r : TrapRec) :
    s.takeTrap c r = s.setGroup c.cur.gid
      { c.g.setEntry c.cur.ent (.frag c.handlerFrag) with trap := { r.regs c.f.blk with fresh := some s.seq } } := by
  obtain ⟨handler, outside, free, h, sound⟩ := may
  have delivered : s.takeTrap c r = s.deliver c r := by
    simp only [State.takeTrap, State.issuer?_group hc, handler, free, decide_false, beq_eq_false_iff_ne.mpr outside, Bool.or_self,
      Bool.false_eq_true, if_false]
  rw [delivered]
  simp only [State.deliver, State.modGroup, State.issuer?_group hc, State.setGroup_header, sound]
  have standing : ∀ f : Frag, ({ c.g.setEntry c.cur.ent (.frag f) with trap := { r.regs c.f.blk with fresh := some s.seq } } : Group).entry
      c.cur.ent = .frag f := fun f => Group.entry_setEntry_self c.g _ _
  refine (State.modFrag_setGroup (standing _) _).trans ?_
  exact congrArg (fun t => s.setGroup c.cur.gid { c.g with table := t, trap := { r.regs c.f.blk with fresh := some s.seq } })
    (Map.put_put_self c.g.table _ _ _)

/-- R369, R370, R372: a trap that may be delivered enters the handler, and the trap registers hold it. -/
theorem State.takeTrap_inHandler {s : State} {c : Iss} (hc : s.issuer? = some c) (may : s.mayTrap c) (r : TrapRec) :
    s.inHandler (s.takeTrap c r) c r := by
  refine ⟨(State.moved.refl s).takeTrap, ?_⟩
  rw [State.takeTrap_eq hc may]
  exact ⟨fun l => State.setGroup_homeByte .., _, c.handlerFrag, State.find?_setGroup ..,
    State.fragAt_setGroup (Group.entry_setEntry_self c.g _ _), rfl, rfl, rfl, rfl, rfl, rfl, rfl,
    fun n hn => Group.entry_setEntry_ne c.g _ hn, rfl, rfl, rfl, rfl, rfl, rfl, rfl, rfl, rfl, rfl⟩

end Sys2Proof.Machine

/-! SUPPORT. BR, JMP, CALL and RET (R258, R261, R262). -/

namespace Sys2Proof.Machine

section
variable {s : State} {c : Iss} {i : Instr} {e : Enc} {hnd addr : Nat}

/-- R258: the fragment goes to the target of a BR that is taken, whole, and passes one that is not. -/
theorem execBr_moves (hl : s.legal c i) (enters : s.mayEnterBlock c c.f.hnd addr)
    (target : (addr : Int) = c.origin e + 4 * e.off14.toInt) (taken : Word → Bool) :
    ∃ t, execBr i e s taken = .next t ∧
      if taken (lo32 (c.sa e e.b .n32)) = true then s.goesTo t c c.g c.f.hnd addr else s.onward t c e := by
  obtain ⟨hc, legal⟩ := hl
  obtain ⟨h, found, -⟩ := enters.1
  have at_addr : c.brTarget e = addr := target.symm
  refine ⟨if taken (lo32 (c.sa e e.b .n32)) then s.goTo c c.g c.f.hnd addr else s.pass c e, ?_, ?_⟩
  · simp only [execBr, hc, at_addr]
    exact congrArg Host.Outcome.next (State.transfer_eq legal found _ _)
  · split
    · exact State.goTo_goesTo hc rfl enters
    · exact State.pass_onward hc e

theorem State.jumpFound_eq {h : Header} (target : c.jumpTo e = (hnd, (addr : Int))) (named : e.b = 0x7F ∨ FieldKind.sreg.admits e.b = true)
    (found : s.header c hnd addr true = .ok h) : s.jumpFound c e = .ok h := by
  have named_code : (e.b == 0x7F || FieldKind.sreg.admits e.b) = true := by simpa only [Bool.or_eq_true, beq_iff_eq] using named
  simp only [State.jumpFound, target, found, named_code, Found.when, if_true]

/-- R261: JMP. -/
theorem execJump_goesTo (hl : s.legal c i) (target : c.jumpTo e = (hnd, (addr : Int)))
    (named : e.b = 0x7F ∨ FieldKind.sreg.admits e.b = true) (enters : s.mayEnterBlock c hnd addr) :
    ∃ t, execJump i e s = .next t ∧ s.goesTo t c c.g hnd addr := by
  obtain ⟨hc, legal⟩ := hl
  obtain ⟨h, found, -⟩ := enters.1
  refine ⟨s.goTo c c.g hnd addr, ?_, State.goTo_goesTo hc rfl enters⟩
  simp only [execJump, hc, target, State.transfer_eq legal (State.jumpFound_eq target named found), Int.toNat_natCast]

theorem lo32_zeroExtend (w : Word) : lo32 (w.zeroExtend 64) = w := by
  rw [lo32, ← BitVec.setWidth_eq_extractLsb' (by decide), BitVec.zeroExtend, BitVec.setWidth_setWidth_of_le w (by decide),
    BitVec.setWidth_eq]

/-- A call's group: the return point's code address in the fragment's lanes of the destination (R261). -/
def Iss.called (c : Iss) (e : Enc) : Group :=
  (c.putVec e c.eff false c.own ((lanesOf c.own).map (fun L => (L, (codeAddr c.f.hnd (c.returnTo e)).zeroExtend 64)))).g

theorem Iss.called_frame (c : Iss) (e : Enc) : c.called e = { c.g with v := (c.called e).v } :=
  (Iss.putVec_frame c e c.eff false c.own _).2

theorem Iss.vGet_called (c : Iss) (e : Enc) (r : Nat) {L : Nat} (hL : L < 96) :
    (c.called e).vGet r L =
      if r = e.dst.toNat ∧ r < 0x40 ∧ bitOf c.own L then codeAddr c.f.hnd (c.returnTo e) else c.g.vGet r L := by
  rw [Iss.called, Iss.vGet_putVec c e false c.own (fun _ => (codeAddr c.f.hnd (c.returnTo e)).zeroExtend 64) c.eff hL]
  unfold vectorDest
  by_cases dest : e.dst.toNat = r
  · subst dest
    cases own : bitOf c.own L <;> simp [lo32_zeroExtend, Iss.eff]
  · simp [dest, Ne.symm dest, Iss.eff]

/-- R261: CALL. -/
theorem execCallTo_goesTo (hl : s.legal c i) (target : c.jumpTo e = (hnd, (addr : Int)))
    (named : e.b = 0x7F ∨ FieldKind.sreg.admits e.b = true) (enters : s.mayEnterBlock c hnd addr) (near : c.returnTo e < 2 ^ 27) :
    ∃ t, execCallTo i e s = .next t ∧ s.goesTo t c (c.called e) hnd addr := by
  obtain ⟨hc, legal⟩ := hl
  obtain ⟨h, found, -⟩ := enters.1
  refine ⟨s.goTo c (c.called e) hnd addr, ?_, State.goTo_goesTo hc (Iss.called_frame c e) enters⟩
  simp only [execCallTo, hc, target, decide_eq_false (Nat.not_le.mpr near), Bool.false_and, Bool.false_eq_true, if_false,
    State.transfer_eq legal (State.jumpFound_eq target named found), Int.toNat_natCast, Iss.called]

/-- The return address is that of the lowest lane of Contrib (R262). -/
theorem Iss.retTo_eq {L : Nat} (lowest : (lanesOf (c.contrib c.own)).head? = some L) :
    c.retTo e = (c.g.vGet e.a.toNat L,
      (lanesOf (c.contrib c.own)).filter (fun k => c.g.vGet e.a.toNat k != c.g.vGet e.a.toNat L)) := by
  simp only [Iss.retTo, lowest]

/-- Lanes that agree hold the fragment's return address. -/
theorem Iss.retTo_agree {v : Word} (agree : ∀ L, L < 96 → bitOf (c.contrib c.own) L → c.g.vGet e.a.toNat L = v)
    (some_lane : c.contrib c.own ≠ 0) : c.retTo e = (v, []) := by
  have held : ∀ L ∈ lanesOf (c.contrib c.own), c.g.vGet e.a.toNat L = v := fun L hL =>
    have lt : L < 96 := List.mem_range.mp (List.mem_filter.mp hL).1
    agree L lt ((mem_lanesOf lt).mp hL)
  obtain ⟨k, hk, set⟩ := Mask.exists_bitOf_of_ne_zero some_lane
  obtain ⟨L, ls, lanes⟩ := List.exists_cons_of_ne_nil (List.ne_nil_of_mem ((mem_lanesOf hk).mpr set))
  have lowest : (lanesOf (c.contrib c.own)).head? = some L := by rw [lanes]; rfl
  rw [Iss.retTo_eq lowest, held L (List.mem_of_head? lowest)]
  refine congrArg (Prod.mk v) (List.filter_eq_nil_iff.mpr (fun k hk => ?_))
  simp only [held k hk, bne_self_eq_false, Bool.false_eq_true, not_false_eq_true]

theorem exec_ret (e : Enc) (s : State) : exec (.ret e) s = execRet e s := rfl

/-- R262: RET where the lanes agree. -/
theorem execRet_goesTo {v : Word} (hl : s.legal c (.ret e)) (target : c.retTo e = (v, []))
    (enters : s.mayEnterBlock c (codeHnd v) (codeOff v)) :
    ∃ t, exec (.ret e) s = .next t ∧ s.goesTo t c c.g (codeHnd v) (codeOff v) := by
  obtain ⟨hc, legal⟩ := hl
  obtain ⟨h, found, -⟩ := enters.1
  obtain ⟨-, named, -⟩ := Enc.admits_of_reason (State.staticReason_of_reason legal)
  have found' : s.retFound c e = .ok h := by simp only [State.retFound, target, named, Found.when, if_true, found]
  refine ⟨s.goTo c c.g (codeHnd v) (codeOff v), ?_, State.goTo_goesTo hc rfl enters⟩
  simp only [exec_ret, execRet, hc, target, List.isEmpty_nil, if_true, State.transfer_eq legal found']

/-- R262: RET where a lane differs from the lowest one. -/
theorem execRet_traps {L M : Nat} (hl : s.legal c (.ret e)) (lowest : (lanesOf (c.contrib c.own)).head? = some L)
    (hM : M ∈ lanesOf (c.contrib c.own)) (differs : c.g.vGet e.a.toNat M ≠ c.g.vGet e.a.toNat L) :
    exec (.ret e) s = .next (s.takeTrap c (mkTrap c.f 5 0 (maskOf (fun k => (c.retTo e).2.contains k)) 0)) := by
  obtain ⟨hc, legal⟩ := hl
  have torn : (c.retTo e).2.isEmpty = false := by
    rw [Iss.retTo_eq lowest, List.isEmpty_eq_false_iff]
    exact List.ne_nil_of_mem (List.mem_filter.mpr ⟨hM, bne_iff_ne.mpr differs⟩)
  simp only [exec_ret, execRet, hc, torn, Bool.false_eq_true, if_false, legal]

/-- The lanes that a RET reports: those of Contrib that hold another address than the lowest (R262). -/
theorem bitOf_torn {L k : Nat} (lowest : (lanesOf (c.contrib c.own)).head? = some L) (hk : k < 96) :
    bitOf (maskOf (fun k => (c.retTo e).2.contains k)) k =
      (bitOf (c.contrib c.own) k && c.g.vGet e.a.toNat k != c.g.vGet e.a.toNat L) := by
  rw [bitOf_maskOf _ hk, Iss.retTo_eq lowest, Bool.eq_iff_iff, List.contains_iff_mem, List.mem_filter, mem_lanesOf hk, Bool.and_eq_true]

end

/-- Settles O47: each transfer is legal and its target sound, so that the fragment goes there whole, or passes; a RET whose lanes differ takes
its trap. -/
theorem transfersMoveTheFragment : Obligations.TransfersMoveTheFragment := by
  unfold Obligations.TransfersMoveTheFragment
  intro s c e hnd addr enters near lit w far ret called
  have literal : lit → c.jumpTo e = (hnd, (addr : Int)) ∧ (e.b = 0x7F ∨ FieldKind.sreg.admits e.b = true) := by
    rintro ⟨rfl, at_addr, code⟩
    exact ⟨(if_pos code).trans (congrArg (Prod.mk _) at_addr.symm), .inl code⟩
  have register : ∀ {i d}, s.legal c i → staticReason i = e.reason [0] NO d .unused .sreg false false → far →
      c.jumpTo e = (hnd, (addr : Int)) ∧ (e.b = 0x7F ∨ FieldKind.sreg.admits e.b = true) := by
    rintro i d ⟨-, legal⟩ row ⟨code, rfl, rfl⟩
    obtain ⟨-, -, named⟩ := Enc.admits_of_reason (row ▸ State.staticReason_of_reason legal)
    exact ⟨if_neg code, .inr named⟩
  have writes : called (c.called e) := ⟨Iss.called_frame c e, fun r L hL => Iss.vGet_called c e r hL⟩
  refine ⟨?brZ, ?brNz, ?jmp, ?jmpIndirect, ?call, ?callIndirect, ?retAgree, ?retTorn⟩
  case brZ =>
    rintro hl ⟨rfl, target⟩
    obtain ⟨t, run, moves⟩ := execBr_moves hl enters target (fun w => w == 0)
    exact ⟨t, run, by simpa only [beq_iff_eq] using moves⟩
  case brNz =>
    rintro hl ⟨rfl, target⟩
    obtain ⟨t, run, moves⟩ := execBr_moves hl enters target (fun w => w != 0)
    exact ⟨t, run, by simpa only [bne_iff_ne] using moves⟩
  case jmp =>
    intro hl target
    obtain ⟨target, named⟩ := literal target
    exact execJump_goesTo hl target named enters
  case jmpIndirect =>
    intro hl target
    obtain ⟨target, named⟩ := register hl rfl target
    exact execJump_goesTo hl target named enters
  case call =>
    intro hl target inRange
    obtain ⟨target, named⟩ := literal target
    obtain ⟨t, run, goes⟩ := execCallTo_goesTo hl target named enters inRange
    exact ⟨t, c.called e, run, writes, goes⟩
  case callIndirect =>
    intro hl target inRange
    obtain ⟨target, named⟩ := register hl rfl target
    obtain ⟨t, run, goes⟩ := execCallTo_goesTo hl target named enters inRange
    exact ⟨t, c.called e, run, writes, goes⟩
  case retAgree =>
    rintro v hl agree some_lane rfl rfl
    exact execRet_goesTo hl (Iss.retTo_agree agree some_lane) enters
  case retTorn =>
    intro hl may L M hL hM setL setM least differs
    have lowest := lanesOf_head?_eq_some.mpr ⟨hL, setL, least⟩
    exact ⟨_, _, execRet_traps hl lowest ((mem_lanesOf hM).mpr setM) differs.symm, State.takeTrap_inHandler hl.1 may _, rfl, rfl,
      fun k hk => bitOf_torn lowest hk⟩

end Sys2Proof.Machine
